-- ==== Sys2Proof/Word.lean ====
section
/-! DEFINITION. Word.lean: the word types of the CW4872 module and the plainest abbreviations over them.
Everything that computes with them stands in the files of Machine/, where a repair can mend it. -/

namespace Sys2Proof

/-- One byte. -/
abbrev Byte := BitVec 8

/-- A string of bytes, lowest address (or first on the wire) first. -/
abbrev Bytes := List (BitVec 8)

/-- The bit pattern of an IEEE 754 binary32 value (type F32 of Table 0-5). -/
abbrev F32 := BitVec 32

/-- The bit pattern of an IEEE 754 binary64 value. -/
abbrev F64 := BitVec 64

/-- A version of a shard: round, then step (R247). -/
structure Version where
  round : BitVec 32
  step  : BitVec 32
deriving DecidableEq, Repr, Inhabited

end Sys2Proof
end

