-- ==== Sys2Proof/Frames.lean ====
section
/-! DEFINITION. Frames.lean: the shapes of what reaches the module from outside with a command: readings, error
patterns, instruction fields, link frames, messages. They are the operand types of `Instr`. -/

namespace Sys2Proof

/-- One reading of the board's sensors (Table 1-13, Table 2-8, R30): each value is the binary32 the object of that
name returns. -/
structure Telemetry where
  inlet : F32
  outlet : F32
  flow : F32
  diffPressure : F32
  tjWacor : F32
  tjLink : F32
  inputVoltage : F32
  inputCurrent : F32
  inputPower : F32
  powerWacor : F32
  powerLink : F32
  powerLpddr6 : F32
  powerCages : F32
  powerOther : F32
  cage0Power : F32
  cage1Power : F32
deriving DecidableEq, Repr, Inhabited

/-- The two dies of Table 2-1. -/
inductive Die where
  | wacor
  | link
deriving DecidableEq, Repr, Inhabited

/-- The two 1PPS inputs of R264, in the order of R265. -/
inductive PpsInput where
  | sma
  | tray
deriving DecidableEq, Repr, Inhabited

/-- What the error correction of a tile memory found in the lines one access read (R106, R107). -/
structure EccRead where
  /-- 64-bit words whose single-bit error was corrected. -/
  corrected : Nat
  /-- Some word of a line read is uncorrectable. -/
  uncorrectable : Bool
deriving DecidableEq, Repr, Inhabited

/-- The fields of a vector instruction word below its OP (Table 5-1), as they stand in the word. -/
structure VFields where
  vd : BitVec 5
  va : BitVec 5
  vb : BitVec 5
  vc : BitVec 5
  mask : BitVec 3
  mz : BitVec 1
  ty : BitVec 3
  rnd : BitVec 3
  x : BitVec 26
deriving DecidableEq, Repr, Inhabited

/-- The error pattern the memory array shows at a read of one burst: symbol positions of R189 (0 to 35) with the
value each is off by. -/
abbrev Flips := List (Nat × BitVec 8)

/-- A combined decision record (Table 8-4). -/
structure DecisionRecord where
  sumsqHi : F32
  sumsqLo : F32
  redMax : F32
  accMax : F32
  nonzero : BitVec 64
  dropped : BitVec 32
  maxOcc : BitVec 8
  flags : BitVec 8
  k : BitVec 8
deriving DecidableEq, Repr, Inhabited

/-- The Braze header (Table 12-3), field by field. -/
structure BzHeader where
  vt : BitVec 8
  flags : BitVec 8
  epoch : BitVec 8
  reserved : BitVec 8
  src : BitVec 16
  dst : BitVec 16
  seq : BitVec 32
  ack : BitVec 32
  channel : BitVec 32
  msg : BitVec 32
  offset : BitVec 32
  len : BitVec 16
  k : BitVec 8
  fmt : BitVec 8
deriving DecidableEq, Repr, Inhabited

/-- The Ethernet addresses and type in front of a frame's header (R310, R366). -/
structure MacHeader where
  dst : BitVec 48
  src : BitVec 48
  etherType : BitVec 16
deriving DecidableEq, Repr, Inhabited

/-- A Braze frame as its port receives it: FCS and codeword verdicts of the PCS, header and payload (R310, R311). -/
structure BzFrame where
  fcsOk : Bool
  pcsOk : Bool
  hdr : BzHeader
  payload : Bytes
deriving DecidableEq, Repr, Inhabited

/-- The site-link header (Table 14-3), field by field. -/
structure SlkHeader where
  vt : BitVec 8
  flags : BitVec 8
  cls : BitVec 8
  srcSite : BitVec 8
  dstSite : BitVec 8
  parityCount : BitVec 8
  groupIndex : BitVec 8
  groupSize : BitVec 8
  srcModule : BitVec 16
  dstModule : BitVec 16
  stream : BitVec 16
  reserved0 : BitVec 16
  epoch : BitVec 32
  group : BitVec 32
  pn : BitVec 64
  round : BitVec 32
  fragment : BitVec 32
  msgFragments : BitVec 32
  reserved1 : BitVec 32
deriving DecidableEq, Repr, Inhabited

/-- A site-link frame as its port receives it (R366, R368). -/
structure SlkFrame where
  fcsOk : Bool
  pcsOk : Bool
  hdr : SlkHeader
  body : Bytes
deriving DecidableEq, Repr, Inhabited

/-- The data set of a PTP announce message that the best master clock algorithm compares (IEEE 1588-2019). -/
structure PtpAnnounce where
  priority1 : BitVec 8
  clockClass : BitVec 8
  clockAccuracy : BitVec 8
  variance : BitVec 16
  priority2 : BitVec 8
  gmIdentity : BitVec 64
  stepsRemoved : BitVec 16
  sender : BitVec 64
deriving DecidableEq, Repr, Inhabited

/-- The PTP messages a port receives, with the TIME64 stamps they carry or were received at (ns, Table 10-2). -/
inductive PtpMessage where
  | announce (a : PtpAnnounce)
  | sync (rx : Int)
  | followUp (origin : Int)
  | delayReq (rx : Int)
  | delayResp (rx : Int)
  | pdelayReq (rx : Int)
  | pdelayResp (rxAtPeer : Int) (rx : Int)
  | pdelayRespFollowUp (txAtPeer : Int)
deriving DecidableEq, Repr, Inhabited

/-- What a PTP interval timer sends (Table 10-2). -/
inductive PtpSend where
  | sync
  | delayReq
  | pdelayReq
  | announce
deriving DecidableEq, Repr, Inhabited

/-- What a PTP port sends (Table 10-2): on a timer, or in answer to a message. -/
inductive PtpOut where
  | timed (w : PtpSend)
  | followUp
  | delayResp
  | pdelayResp
  | pdelayRespFollowUp
deriving DecidableEq, Repr, Inhabited

/-- What the two ends of a site link tell each other in a greeting (R330). -/
structure Greeting where
  groupId : BitVec 64
  siteIndex : BitVec 8
  moduleNumber : BitVec 16
  castingId : BitVec 64
  mapDigest : Bytes
  updateDigest : Bytes
  latestMerged : BitVec 32
  prevDigest : Bytes
deriving DecidableEq, Repr, Inhabited

/-- What a peer of R291 and R458 sends: its site-map digest and its committed version, and, where it is one committed
step ahead, the journal records, scale table and accord record that R458 takes from it. -/
structure MapReply where
  digest : Bytes
  version : Version
  journal : List Bytes
  scaleTable : Bytes
  accord : Bytes
deriving DecidableEq, Repr, Inhabited

/-- The requesters of the cipher engine (R394, R395). -/
inductive CipherRequester where
  | siteLinkEngine
  | siteLinkControl
  | core (n : Nat)
  | dma (channel : Nat)
deriving DecidableEq, Repr, Inhabited

/-- What the surroundings contribute to a DMA pass: the error patterns the memory array shows at the bursts read
(keyed by the burst's module address), a condition another party reports (a status of Table 16-5 with its address),
and the bytes that arrive from the link-die side where the source is there. -/
structure PassEnv where
  flips : List (Nat × Flips)
  reported : Option (BitVec 8 × BitVec 64)
  inbound : Bytes
deriving DecidableEq, Repr, Inhabited

/-- How a part of the start or of a service operation ended, where only the surroundings know (an eMMC write, a
self-test). -/
inductive Outcome1 where
  | ok
  | failed
deriving DecidableEq, Repr, Inhabited

/-- What core 0 finds when it reads the PUF (R464, R465): the corrected response, or nothing where the helper data is
absent, damaged or fails its check. -/
structure PufRead where
  corrected : Option Bytes
  /-- SHAKE256 output over the boot ROM, the first measurement of R474. -/
  romDigest : Bytes
deriving DecidableEq, Repr, Inhabited

/-- What the self-tests of a start find: physical tiles whose generator fails R91, tiles whose memory fails, round
units of the cipher engine that fail R389. -/
structure SelfTestResult where
  srFailed : List (Fin 544)
  memFailed : List (Fin 544)
  unitsFailed : List (Fin 256)
deriving DecidableEq, Repr, Inhabited

/-- What a keeping start finds of the kept state (R457): the digest of the control region, the readability of journal
and round control block. -/
structure KeptCheck where
  digestOk : Bool
  journalReadable : Bool
  readsDeliver : Bool
deriving DecidableEq, Repr, Inhabited

end Sys2Proof
end

