-- ==== Sys2Proof/Syntax.lean ====
section
/-! DEFINITION. Syntax.lean: the commands of the module, one constructor per row of spec/opcode_table.json, in the
table's order. A command is what one step takes: an event at a pin or on a link, an instruction a tile sequencer
issues, a dictionary write by a requester, a timer's expiry, an engine's completion. Its operands are what the
surroundings contribute to it; everything else comes from State.
`rq` is the DAP requester number (0 to 16, R421) that makes a dictionary access, `tile` a physical tile. -/

namespace Sys2Proof

inductive Instr where
  -- the board (The Module as a Block)
  | seatedNAssert (slotId : BitVec 6)
  | pwrEnAssert
  | coolantCheckComplete (inlet flow : F32)
  | coolantRecheckTimer
  | suppliesInRegulation
  | pwrEnDeassert
  | powerFail
  | powerRestart
  | coolantReading (r : Telemetry)
  | flowLow2sExpiry
  | flowStop500msExpiry
  | powerLimitWrite (rq : Fin 17) (v : F32)
  | locateNChange (low : Bool)
  | cageInsert (cage : Fin 2) (advertised : F32)
  | cageRemove (cage : Fin 2)
  | cageOvercurrent (cage : Fin 2)
  | trayRstLong
  | trayRstRelease (lowNs : Nat)
  | ppsEdge (input : PpsInput)
  | ppsLossExpiry (input : PpsInput)
  | tenMhzInChange (live : Bool)
  -- speed and power (Architecture and Self-Timed Operation)
  | speedWindow (wacor link : List Nat)
  | spdSlowDetect (die : Die) (monitor : Nat)
  | governorDecision (power tj linkPower : F32)
  | vcoreCeilingWrite (rq : Fin 17) (v : F32)
  | rxCrossingOverrun (boundary : Nat)
  -- tiles, matrix unit, router
  | mma (tile : Fin 544) (word : BitVec 128) (ecc : EccRead)
  | mmaDWritten (tile : Fin 544)
  | tilePatrolScrub (tile : Fin 544) (line : Fin 1024) (ecc : EccRead)
  | routerFlitReceive (tile : Fin 544) (addr : Nat) (data : Bytes)
  | routerMessageSend (tile : Fin 544) (queue : BitVec 8)
  -- vector engine
  | nop (tile : Fin 544) (f : VFields)
  | sli (tile : Fin 544) (f : VFields)
  | sadd (tile : Fin 544) (f : VFields)
  | loop (tile : Fin 544) (f : VFields)
  | waitq (tile : Fin 544) (f : VFields)
  | waitqReady (tile : Fin 544)
  | release (tile : Fin 544) (f : VFields)
  | mxwait (tile : Fin 544) (f : VFields)
  | halt (tile : Fin 544) (f : VFields)
  | add (tile : Fin 544) (f : VFields)
  | sub (tile : Fin 544) (f : VFields)
  | mul (tile : Fin 544) (f : VFields)
  | fma (tile : Fin 544) (f : VFields)
  | fms (tile : Fin 544) (f : VFields)
  | div (tile : Fin 544) (f : VFields)
  | sqrt (tile : Fin 544) (f : VFields)
  | max (tile : Fin 544) (f : VFields)
  | min (tile : Fin 544) (f : VFields)
  | abs (tile : Fin 544) (f : VFields)
  | neg (tile : Fin 544) (f : VFields)
  | and (tile : Fin 544) (f : VFields)
  | or (tile : Fin 544) (f : VFields)
  | xor (tile : Fin 544) (f : VFields)
  | shl (tile : Fin 544) (f : VFields)
  | shr (tile : Fin 544) (f : VFields)
  | twosum (tile : Fin 544) (f : VFields)
  | twoprod (tile : Fin 544) (f : VFields)
  | pairadd (tile : Fin 544) (f : VFields)
  | cmpeq (tile : Fin 544) (f : VFields)
  | cmpne (tile : Fin 544) (f : VFields)
  | cmplt (tile : Fin 544) (f : VFields)
  | cmple (tile : Fin 544) (f : VFields)
  | cmpgt (tile : Fin 544) (f : VFields)
  | cmpge (tile : Fin 544) (f : VFields)
  | sel (tile : Fin 544) (f : VFields)
  | cls (tile : Fin 544) (f : VFields)
  | mand (tile : Fin 544) (f : VFields)
  | mor (tile : Fin 544) (f : VFields)
  | mnot (tile : Fin 544) (f : VFields)
  | perm (tile : Fin 544) (f : VFields)
  | rot (tile : Fin 544) (f : VFields)
  | bfly (tile : Fin 544) (f : VFields)
  | bcast (tile : Fin 544) (f : VFields)
  | splat (tile : Fin 544) (f : VFields)
  | iota (tile : Fin 544) (f : VFields)
  | zip (tile : Fin 544) (f : VFields)
  | unzip (tile : Fin 544) (f : VFields)
  | pack (tile : Fin 544) (f : VFields)
  | unpack (tile : Fin 544) (f : VFields)
  | rsum (tile : Fin 544) (f : VFields)
  | rprod (tile : Fin 544) (f : VFields)
  | rmax (tile : Fin 544) (f : VFields)
  | rmin (tile : Fin 544) (f : VFields)
  | rargmax (tile : Fin 544) (f : VFields)
  | rargmin (tile : Fin 544) (f : VFields)
  | tfn (tile : Fin 544) (f : VFields)
  | tder (tile : Fin 544) (f : VFields)
  | tload (tile : Fin 544) (f : VFields)
  | ld (tile : Fin 544) (f : VFields)
  | st (tile : Fin 544) (f : VFields)
  | ldp (tile : Fin 544) (f : VFields)
  | stp (tile : Fin 544) (f : VFields)
  | lds (tile : Fin 544) (f : VFields)
  | sts (tile : Fin 544) (f : VFields)
  | memQueueAccess (tile : Fin 544) (ecc : EccRead)
  -- castings
  | castingLoad (rq : Fin 17) (slot : BitVec 8)
  | castingLoadComplete (unverified : List (Fin 544))
  | castingUnload (rq : Fin 17) (slot : BitVec 8)
  | castingStop (rq : Fin 17) (c : Fin 4)
  | castingRun (rq : Fin 17) (c : Fin 4)
  | regionStop (rq : Fin 17) (h : Fin 256)
  | regionRun (rq : Fin 17) (h : Fin 256)
  | regionRecast (rq : Fin 17) (h : Fin 256) (image : Bytes)
  | recastComplete (unverified : List (Fin 544))
  | remap
  | tilesRetiredClear (rq : Fin 17) (v : Byte)
  -- the training step
  | stepOpen
  | slotOpen
  | entryEnd (h : Fin 256)
  | assayWordFinal
  | combinedAssayReceived (word : BitVec 32) (votes : List (Nat × BitVec 32))
  | decisionRecordsHeld (records : List (Nat × DecisionRecord))
  | stepStop (rq : Fin 17)
  | stepRun (rq : Fin 17)
  | patinaEmpty (rq : Fin 17) (v : Byte)
  -- the update unit
  | updateBegin
  | updateDone
  | updateTableWrite (rq : Fin 17) (table : Bytes)
  | lrScheduleWrite (rq : Fin 17) (schedule : Bytes)
  | gatherRequest (peer : BitVec 16) (shard : BitVec 32) (version : Option Version) (hold : Bool)
  | holdRelease (shard : BitVec 32) (slot : Fin 2)
  | holdWaitExpiry (shard : BitVec 32)
  | slowTierTimeout (shard : BitVec 32)
  | ckptExportStart (rq : Fin 17)
  | ckptExportEnd (rq : Fin 17)
  | ckptImport (rq : Fin 17) (file : Bytes)
  -- time, sillage, replay
  | ptpMessage (port : Fin 9) (m : PtpMessage)
  | ptpAnnounceTimeout (port : Fin 9)
  | holdoverExpiry
  | timeSet (rq : Fin 17) (v : BitVec 64)
  | sillageSpill (written : Outcome1)
  | replayStart (rq : Fin 17)
  | replayAbandon (rq : Fin 17)
  | replayWaitExpiry
  -- site mapping
  | siteMapWrite (rq : Fin 17) (map : Bytes)
  | mapDigestReply (peer : BitVec 16) (reply : MapReply)
  | gatherIssue (layer : BitVec 16)
  | gatherResult (shard : BitVec 32) (version : Version) (data : Bytes)
  | gatherRetryTimer (shard : BitVec 32)
  | gatherWaitExpiry (shard : BitVec 32)
  | offloadTimeoutExpiry (channel : Fin 512)
  -- the Braze fabric
  | bzPortUp (port : Fin 8) (lanesInOrder : Bool)
  | bzPortDown (port : Fin 8)
  | bzRetrainTimer (port : Fin 8)
  | bzPortEnableWrite (rq : Fin 17) (port : Fin 8) (v : Byte)
  | bzMessageFrame (port : Fin 8) (f : BzFrame)
  | bzAckFrame (port : Fin 8) (f : BzFrame)
  | bzCreditFrame (port : Fin 8) (f : BzFrame)
  | bzOperandFrame (port : Fin 8) (f : BzFrame)
  | bzResultFrame (port : Fin 8) (f : BzFrame)
  | bzTreeFrame (port : Fin 8) (f : BzFrame)
  | bzProbeFrame (port : Fin 8) (f : BzFrame)
  | bzRetryTimeout (peer : BitVec 16) (seq : BitVec 32)
  | bzProbeTimer
  | bzCreditRepeat (binding : BitVec 32)
  | bzModuleNumberWrite (rq : Fin 17) (v : BitVec 16)
  | bzDeadlineExpiry (collective : BitVec 32)
  -- anneal rounds
  | roundTableWrite (rq : Fin 17) (table : Bytes)
  | rndGreeting (site : Fin 64) (g : Greeting)
  | contributionComplete (site : Fin 64) (round : BitVec 32) (shards : List (BitVec 32 × Bytes))
  | rndWindowExpiry
  | accordHistoryExchange (site : Fin 64) (history : List Bytes)
  | ingotFetchStart (rq : Fin 17)
  | ingotFetchAbandon (rq : Fin 17)
  | ingotFetchRequest (site : Fin 64) (round : Option (BitVec 32))
  | ingotSectionReceived (offset : Nat) (data : Bytes)
  | ingotRoundAgreement (rounds : List (BitVec 16 × BitVec 32))
  | ingotRetryTimer
  -- site links
  | slkPortUp (port : Fin 2)
  | slkPortDown (port : Fin 2)
  | slkPortRetryTimer (port : Fin 2)
  | slkPortEnableWrite (rq : Fin 17) (port : Fin 2) (v : Byte)
  | slkHelloTimer
  | slkHello (port : Fin 2) (f : SlkFrame)
  | slkProbeTimer
  | slkProbeTimeout (site : Fin 64) (module : BitVec 16)
  | slkDataPacket (port : Fin 2) (f : SlkFrame)
  | slkParityPacket (port : Fin 2) (f : SlkFrame)
  | slkAckPacket (port : Fin 2) (f : SlkFrame)
  | slkProbePacket (port : Fin 2) (f : SlkFrame)
  | slkRekey (rq : Fin 17) (v : Byte)
  | slkRekeyIntervalExpiry (site : Fin 64) (module : BitVec 16)
  | slkGraceExpiry (site : Fin 64) (module : BitVec 16)
  | slkFecGroupTimer (port : Fin 2) (site : Fin 64) (module : BitVec 16)
  | slkFecHoldExpiry (port : Fin 2) (site : Fin 64) (module : BitVec 16) (group : BitVec 32)
  | slkAckTimer (context : Fin 16384)
  | slkResendTimer (context : Fin 16384) (round fragment : BitVec 32)
  | slkRestart (rq : Fin 17) (v : Byte)
  | slkFlowTableWrite (rq : Fin 17) (entries : Bytes)
  -- cipher engine
  | cipherRequest (who : CipherRequester) (descAddr : BitVec 64) (desc : Bytes)
  | cipherCompletion
  | cipherKeyLoad (rq : Fin 17) (blob : Bytes)
  | cipherKeyErase (rq : Fin 17) (slot : BitVec 16)
  -- DMA
  | dmaStart (rq : Fin 17) (c : Fin 512)
  | dmaStop (rq : Fin 17) (c : Fin 512)
  | dmaPrivilegedStop (c : Fin 512)
  | dmaDescriptorsWrite (rq : Fin 17) (c : Fin 512) (data : Bytes)
  | dmaTimerTrigger (c : Fin 512)
  | dmaHalfDone (c : Fin 512)
  | dmaPassComplete (c : Fin 512) (env : PassEnv)
  | dmaCompletionsRead (rq : Fin 17) (c : Fin 512)
  -- LPDDR6
  | memPatrolScrub (burst : Nat) (flips : Flips)
  | tempReadout (q : Fin 192) (t : F32)
  | memRetireRequest (rq : Fin 17) (v : Byte)
  | retireCopyComplete
  | memRetiredClear (rq : Fin 17) (v : Byte)
  -- dictionary access protocol
  | dapRequest (source : BitVec 128) (datagram : Bytes)
  | registerWrite (rq : Fin 17) (index : BitVec 16) (sub : Byte) (type : Byte) (value : Bytes)
  | domainSegmentRead (rq : Fin 17) (index : BitVec 16) (sub : Byte) (offset : BitVec 32) (len : BitVec 16)
  | domainSegmentWrite (rq : Fin 17) (index : BitVec 16) (sub : Byte) (offset : BitVec 32) (last : Bool) (data : Bytes)
  | domainIdleExpiry (rq : Fin 17) (index : BitVec 16) (sub : Byte)
  | eventAck (source : BitVec 128) (datagram : Bytes)
  | eventResendTimer
  -- start-up and reset
  | resetRequestCold (rq : Fin 17)
  | resetRequestWarm (rq : Fin 17)
  | resetRequestDelayExpiry
  | watchdogExpiry
  | core0Release (puf : PufRead)
  | firmwareSlotVerified (counterWrite : Outcome1)
  | processorsReleased
  | lpddr6TrainingComplete (failed : List (Fin 192))
  | lpddr6InitComplete
  | selfTestsComplete (r : SelfTestResult)
  | modReadyAssert
  | keepingStateRestored (k : KeptCheck)
  -- firmware and identity
  | fwInstall (rq : Fin 17) (image : Bytes)
  | fwInstallComplete (readBack : Outcome1)
  | fwActivate (rq : Fin 17) (v : Byte)
  | pufEnrol (rq : Fin 17) (v : Byte)
  | hallmarkNonce (rq : Fin 17) (nonce : Bytes)
  | hallmarkQuoteComplete
  | configRecordsWrite (rq : Fin 17) (set : Bytes)
  | peerEnrol (rq : Fin 17) (record : Bytes)
  -- faults and service
  | faultLogCopy (written : Outcome1)
  | stickyFamilyClear (rq : Fin 17) (family : Fin 32) (v : BitVec 32)
  | regionStickyClear (rq : Fin 17) (h : Fin 256) (v : BitVec 64)
  | rejoin (rq : Fin 17)
  | parkedRetry (rq : Fin 17)
  | tileTest (rq : Fin 17)
  | scrubNow (rq : Fin 17)
  | logFlush (rq : Fin 17)
  | serviceOpComplete (result : Outcome1)
  -- rows that the table lists last
  | seatedNRelease
  | timeUnitStart
  | mgmtLinkChange (up : Bool)
  | ptpTransmitTimer (port : Fin 9) (what : PtpSend)
deriving DecidableEq, Repr, Inhabited

end Sys2Proof
end

