-- ==== Sys2Proof/Decode.lean ====
section
/-! DEFINITION. Decode.lean: the command a word spells by the opcode table's bits. The table of this hardware gives no
row any bits: its rows are events, dictionary writes and instructions whose operands the surroundings supply, so no
word spells a command. -/

namespace Sys2Proof

/-- No row of spec/opcode_table.json gives bits. -/
def decodeTableWord (_nbits _w : Nat) : Option Instr := none

end Sys2Proof
end

