-- ==== Sys2Proof/Config.lean ====
section
/-! DEFINITION. Config.lean: what an implementation or a single module fixes and the spec leaves open. None of it has a
body, so nothing in Lean can evaluate it or prove a value of it (DESIGN CHOICE, assumption log 2 and 3). -/

namespace Sys2Proof.Config

/-- A value the spec leaves open, of width `w`; the number is the state's counter of free values taken so far. -/
opaque freeValue (w : Nat) : Nat → BitVec w

/-- The label of this module (R2): BOARD_BUILD and SERIAL_NUMBER. -/
opaque boardBuild : Bytes
opaque serialNumber : Bytes

/-- MAC address of the management port, 6 bytes (Table 17-1). -/
opaque mgmtMac : Bytes

/-- offsetScaledLogVariance of the module's own clock, which its PTP data set carries (Table 10-2 does not give it). -/
opaque ptpVariance : BitVec 16

/-- What the module leaves the factory with (R467, R475, R477): the configuration set as bytes, the event address and
port and the wrapped key of its one requester, and the firmware image of slot A. -/
opaque factorySet : Bytes
opaque factoryEventAddr : BitVec 128
opaque factoryEventPort : BitVec 16
opaque factoryRequesterKey : Bytes
opaque factoryFirmware : Bytes

/-- hc in ns of a die one of whose monitors counts nothing in a window; R44 rules the case out and R43 gives no quotient. -/
opaque stoppedPeriod : Nat

/-- IEEE 754-2019, 7.2 c: whether ∞ × 0 + quiet NaN signals the invalid operation. -/
opaque fmaSignals : Bool

/-- The choice of a fast divide or square root between the two neighbours of an inexact result (Table 3-8): a fixed
function of format and operand codes; true takes the one of larger magnitude. -/
opaque faithfulDiv (tbits a b : Nat) : Bool
opaque faithfulSqrt (tbits a : Nat) : Bool

/-- Where the scale bytes of a PACK fall on codes of the same instruction (VC = VD, part 0), R140 does not say which of
the two stands: true, the scales. -/
opaque packScalesStand : Bool

/-- cos(π × x / L) in binary64 as the cores of the step sequencer form it (Table 9-6 does not say how it is rounded). -/
opaque cosPi (x len : Nat) : BitVec 64

/-- Code of an element of a Q8S or Q8U block whose quotient is 0 / 0: its block parameter rounded to zero (R238 gives
that code no value). -/
opaque q8OfNan : BitVec 8

/-- The four Tilmin signing public keys whose SHAKE256 digests the boot ROM holds (ROM keys 0 to 3, R468, R476). -/
opaque romKey (i : Nat) : Bytes

/-- PUF helper data as enrolment wrote it to the eMMC (R465, R474). -/
opaque helperData : Bytes

/-- SIG_BYTES of the quotes it makes, less 1 and modulo 1,280 (R496); the field lies within the signed bytes. -/
opaque falconSigBytes (seed message : Bytes) (made : Nat) : Nat

/-- Falcon-1024 key generation and signing as core 8 performs them (R464, R478, R496): the key pair is a function of the
identity seed, a signature one of seed, message and how many were made before. Their bytes are those of the Falcon
specification, which the spec names and does not repeat (PRESUMED, assumption log 30). -/
opaque falconPublicKey (seed : Bytes) : Bytes
opaque falconSign (seed message : Bytes) (made : Nat) : Bytes

end Sys2Proof.Config
end

