-- ==== Sys2Proof/Machine/State.lean ====
section
/-! DEFINITION. Machine/State.lean: everything the spec gives the module to hold, as plain data, the state right after
the reset that begins its life, and the reasons a step can stop.

Two forms carry most of it. `regs` is the file of every dictionary object of a fixed size (Table 18-1), keyed by
index × 256 + subindex, so that each register stands under its own number; `blobs` is the same for STR, BLOB and
DOMAIN objects that are held as bytes. Everything a function holds besides its objects has a structure of its own.
Sparse maps list keys in rising order and no key at its default value (Machine/Sparse.lean). -/

namespace Sys2Proof.Machine

/-- A map from numbers that lists only what differs from a default. -/
abbrev Sparse (α : Type) := List (Nat × α)

/-- The requester and transaction id of a class C write, to which its completion event goes (R431, R437). -/
structure Origin where
  rq : Fin 17
  xid : BitVec 32
deriving DecidableEq, Repr, Inhabited

/-! ### The board and the start -/

/-- The sequencer in the power stage (R21 to R25, R31). -/
inductive PowerPhase where
  /-- Die supplies off: no input, PWR_EN low or not passed, or a thermal stop taken. -/
  | off
  /-- The coolant check of a power-up runs. -/
  | checking
  /-- A coolant check failed; FAULT_N is low and the check waits for its 1 s timer (R25). -/
  | waiting
  /-- Soft-start, before all supplies are in regulation. -/
  | softStart
  /-- All board supplies in regulation. -/
  | on
deriving DecidableEq, Repr, Inhabited

/-- One OSFP cage (R32 to R34). -/
structure Cage where
  present : Bool
  powered : Bool
  lowPower : Bool
  overcurrent : Bool
deriving DecidableEq, Repr, Inhabited

/-- Pins and power stage. -/
structure Board where
  /-- S14 is low: the module is fully seated (R14). -/
  seated : Bool
  /-- Level of S03, PWR_EN. -/
  pwrEn : Bool
  /-- The input is at or above its restart threshold (Table 1-6). -/
  inputOk : Bool
  phase : PowerPhase
  /-- A thermal stop has been taken and PWR_EN has not fallen since (R31). -/
  thermalLatch : Bool
  /-- FAULT_N is driven low. -/
  faultLow : Bool
  /-- The derating rows of Table 1-9 in force. -/
  inletHigh : Bool
  flowLow : Bool
  /-- The last reading found the flow below 1.5 and below 1.0 L/min; the durations of R30 run from the first such. -/
  below15 : Bool
  below10 : Bool
  /-- SLOT_ID[5:0] as the tray straps it. -/
  slotPins : BitVec 6
  /-- LOCATE_N is low. -/
  locateLow : Bool
  /-- The front locate indicator is lit (R20). -/
  indicator : Bool
  /-- MOD_READY is asserted (driven low). -/
  modReady : Bool
  /-- The inlet temperature of the latest coolant reading (Table 1-9). -/
  inletNow : F32
  /-- New eMMC commands may be issued (R22, R23). -/
  emmcOpen : Bool
  /-- PPS OUT is driven, 10M OUT is driven (R36). -/
  ppsOut : Bool
  tenMOut : Bool
  cage0 : Cage
  cage1 : Cage
deriving DecidableEq, Repr, Inhabited

/-- The kinds of Table 19-1. -/
inductive ResetKind where
  | power
  | cold
  | warm
  | watchdog
  | escalated
deriving DecidableEq, Repr, Inhabited

/-- How far a start has come (Table 19-3). -/
inductive StartStage where
  /-- No start in progress and none completed: the supplies are off. -/
  | none
  | reset
  | timeUnit
  | core0
  | firmware
  | processors
  | ready
deriving DecidableEq, Repr, Inhabited

structure StartSeq where
  stage : StartStage
  /-- Kind of the start in progress or last completed, and its UNPLANNED bit (R447). -/
  kind : ResetKind
  unplanned : Bool
  /-- Rows of Table 19-3 that run beside the others. -/
  trained : Bool
  memoryWritten : Bool
  selfTested : Bool
  /-- Keeping state restored (R457). -/
  restored : Bool
  /-- The start counter was written (R455); site links and DAP beyond requester 0 wait for it. -/
  counterOk : Bool
  /-- TRAY_RST_N is low and holds the module in reset, or its start before core 0 leaves reset (R449). -/
  held : Bool
  /-- A reset requested under R448 and not yet taken. -/
  requested : Option ResetKind
  /-- MONO of the WATCHDOG resets of the last 600 s (R450). -/
  watchdogs : List Nat
  /-- Slot booted, and whether it is on trial (R471). -/
  bootedSlot : Fin 2
  trial : Bool
  /-- VERSION of the firmware that runs, which the control region of LPDDR6 records (R473). -/
  fwVersion : BitVec 32
  /-- Neither firmware slot passed (R471): MOD_READY is never asserted. -/
  dead : Bool
deriving DecidableEq, Repr, Inhabited

/-! ### Time (R262 to R272) -/

/-- A 1PPS input: edges in a row at 1 s ± 1 µs, MONO of the last one, and what its edges say of TIME64. -/
structure PpsState where
  run : Nat
  lastEdge : Option Nat
  live : Bool
  offset : Int
deriving DecidableEq, Repr, Inhabited

/-- The port states of IEEE 1588-2019 that the profile of Table 10-2 uses. -/
inductive PtpState where
  | disabled
  | listening
  | master
  | passive
  | slave
deriving DecidableEq, Repr, Inhabited

structure PtpPort where
  state : PtpState
  /-- Best announce heard within the receipt timeout. -/
  best : Option PtpAnnounce
  /-- Receive stamp of the last Sync that awaits its Follow_Up. -/
  syncRx : Option Int
  /-- Transmit stamp of the last Delay_Req or Pdelay_Req sent. -/
  reqTx : Option Int
  /-- Stamps of a Pdelay_Resp that awaits its follow-up. -/
  respAt : Option (Int × Int)
  /-- Last Sync interval: receive stamp and origin stamp. -/
  lastSync : Option (Int × Int)
  /-- Measured mean path delay, ns. -/
  pathDelay : Int
deriving DecidableEq, Repr, Inhabited

structure TimeUnit where
  running : Bool
  /-- MONO, ns since the time unit was last restarted. -/
  mono : Nat
  /-- TIME64 − MONO. -/
  offset : Int
  /-- The time of day has been set since the restart, by PTP or TIME_SET. -/
  set : Bool
  /-- It was last set by TIME_SET. -/
  byOperator : Bool
  sma : PpsState
  tray : PpsState
  tenMhz : Bool
  /-- A source has been followed since the restart under the selection in force (R265). -/
  followed : Bool
  /-- MONO at which holdover began, while in holdover. -/
  holdover : Option Nat
  holdoverExpired : Bool
  /-- Offset left to slew out, ns (R268). -/
  slew : Int
  ports : List PtpPort
deriving DecidableEq, Repr, Inhabited

/-! ### Speed and power (R43 to R52) -/

structure Governor where
  /-- A casting has been loaded since the start, so that the governor decides. -/
  started : Bool
  /-- Core voltages in mV as the pseudocode of R49 holds them, before round_down_to_2_5. -/
  vWacor : Rat
  vLink : Rat
  /-- Time since the last raise, in decisions of 2 µs; capped at 50, which is the 100 µs of R49. -/
  sinceRaise : Nat
  pacing : Nat
  spdRaise : Bool
  spdRaiseLink : Bool
  /-- Highest voltage a raise of R46 has reached; 0 where there is none. -/
  spdHold : Rat
  overTarget : Bool
  overTj : Bool
  /-- hc of each die in the last window of 1 µs, in ns: 1,000 ÷ lowest count (R43). -/
  hcWacor : Rat
  hcLink : Rat
  /-- hc of both dies in the windows of the last 1 ms, newest first (Table 2-8). -/
  windows : List (Rat × Rat)
  /-- Frames discarded under R57. -/
  rxOverruns : Nat
  /-- Share of schedule slots owed to pacing, in per cent (R50). -/
  owed : Nat
deriving DecidableEq, Repr, Inhabited

/-! ### Tiles (Tiles and the Matrix Unit, The Vector Engine, Castings) -/

/-- A tensor descriptor (Table 6-4). -/
structure TensorDesc where
  tensorId : BitVec 64
  format : BitVec 8
  scaleK : BitVec 8
  rate : BitVec 8
  rows : BitVec 32
  cols : BitVec 32
  originRow : BitVec 32
  originCol : BitVec 32
deriving DecidableEq, Repr, Inhabited

/-- What one slot of a queue holds (R156). -/
inductive SlotState where
  /-- Inbound: released to the router; outbound: free. -/
  | free
  /-- Inbound: being filled, with the 64-byte flits that have arrived. -/
  | filling (flits : List Nat)
  /-- Inbound: holds a complete message; outbound: handed to the router. -/
  | full
  /-- Inbound: waited on by the program; outbound: claimed by it. -/
  | held
deriving DecidableEq, Repr, Inhabited

/-- A queue of a tile (Table 6-5) with its slots and the ring positions of R156. -/
structure TileQueue where
  queue : BitVec 8
  depth : Nat
  route : BitVec 16
  base : Nat
  slotBytes : Nat
  slots : List SlotState
  /-- Oldest slot not yet waited on (claimed). -/
  nextWait : Nat
  /-- Oldest waited (claimed) slot. -/
  nextRelease : Nat
  /-- Next slot that a message fills (inbound) or leaves from (outbound). -/
  nextMove : Nat
deriving DecidableEq, Repr, Inhabited

/-- A vector memory instruction in the memory queue of R135. -/
inductive MemOp where
  | load (vd : Nat) (pair : Bool) (addr : Nat) (mask : BitVec 64) (zero : Bool)
  | store (data : Bytes) (lanes : BitVec 64) (addr : Nat)
  | loadScalar (sd : Nat) (addr : Nat)
  | storeScalar (data : BitVec 64) (addr : Nat)
deriving DecidableEq, Repr, Inhabited

/-- A matrix command that has been issued and whose D is not yet written (R109, R126), with what it raises. -/
structure MatrixJob where
  /-- Tile-memory address of the command. -/
  addr : Nat
  addrD : Nat
  image : Bytes
  /-- Bits of the region word, before R95 drops those a fast region does not record. -/
  flags : Nat
  range : Nat
  nanScale : Nat
  flushed : Nat
  /-- The D conversion at its assay point (R216): tensor id, format, assay bits, ACC_MAX. -/
  notes : List (Nat × Nat × Nat × Nat)
deriving DecidableEq, Repr, Inhabited

inductive TileStatus where
  /-- Not in an entry of the schedule. -/
  | idle
  | running
  /-- Held at WAITQ on a queue (R156). -/
  | waitingQueue (queue : BitVec 8)
  /-- Held at MXWAIT. -/
  | waitingMatrix
  | halted
  /-- Stopped by a tile fault (R108). -/
  | faulted
deriving DecidableEq, Repr, Inhabited

/-- Where a physical tile stands (TILE_STATE_MAP of Table 4-8, with the test of R490 beside it). -/
inductive TileUse where
  | bound
  | spare
  | failed
  | underTest
deriving DecidableEq, Repr, Inhabited

structure Tile where
  status : TileStatus
  /-- Casting slot × 64 + region the tile belongs to, where it does. -/
  region : Option Nat
  mem : List Host.Cell
  vregs : Sparse (BitVec 2048)
  mregs : Sparse (BitVec 64)
  sregs : Sparse (BitVec 64)
  /-- The table pair held, as the bytes of Table 5-5. -/
  table : Option Bytes
  /-- Index of the next program word, counted in 8-byte words from PROG_START. -/
  pc : Nat
  progStart : Nat
  progWords : Nat
  /-- Program kind map: set for the low word of a matrix command. -/
  kindMap : List Bool
  descs : List TensorDesc
  queues : List TileQueue
  memQueue : List MemOp
  matrix : List MatrixJob
  /-- ns held at WAITQ on inbound queues, on outbound queues, and otherwise busy, this step (R172). -/
  stallIn : Nat
  stallOut : Nat
  busy : Nat
  /-- MONO at which the present stall or work began. -/
  since : Nat
deriving DecidableEq, Repr, Inhabited

/-- A route (Table 6-6). -/
structure Route where
  route : BitVec 16
  kind : BitVec 8
  group : BitVec 8
  src : BitVec 16
  srcQueue : BitVec 8
  dst : BitVec 16
  dstQueue : BitVec 8
  msgsPerStep : BitVec 32
  bytesPerSlot : BitVec 32
deriving DecidableEq, Repr, Inhabited

/-- A schedule entry (Table 6-7). -/
structure SchedEntry where
  slot : BitVec 32
  region : BitVec 8
  kind : BitVec 8
  microbatch : BitVec 16
  layer : BitVec 16
  entry : BitVec 32
deriving DecidableEq, Repr, Inhabited

/-- A region of a loaded casting (Table 6-2). `stopOrigins` are the class C writes that wait for it to stop. -/
structure Region where
  region : Nat
  arith : BitVec 8
  stage : BitVec 16
  tiles : List Nat
  name : Bytes
  /-- Region image written since the load (R174), kept for remaps and re-reads. -/
  retained : Option Bytes
  stopOrigins : List Origin
deriving DecidableEq, Repr, Inhabited

/-- The descriptors a casting gives one DMA channel (R418). -/
structure DmaEntry where
  channel : Nat
  start : Nat
  route : BitVec 16
  descs : List Bytes
deriving DecidableEq, Repr, Inhabited

/-- A loaded casting. -/
structure Casting where
  id : BitVec 64
  image : Bytes
  digest : Bytes
  stepSlots : Nat
  slotHc : Nat
  tileMask : Bytes
  regions : List Region
  routes : List Route
  sched : List SchedEntry
  dma : List DmaEntry
  lpddr6Bytes : Nat
  /-- Class C writes of CASTING_CONTROL that wait for every region to stop. -/
  stopOrigins : List Origin
deriving DecidableEq, Repr, Inhabited

/-- Work of the loader on core 0, one at a time in order (R176). -/
inductive LoaderOp where
  | load (slot : Nat) (image : Bytes) (o : Origin)
  | unload (slot : Nat) (o : Origin)
  | recast (h : Nat) (image : Bytes) (o : Origin)
  | remap (logical : Nat)
  | tileTest (tile : Nat)
deriving DecidableEq, Repr, Inhabited

structure TileArray where
  tiles : Sparse Tile
  /-- Physical tile of each logical tile; unlisted, the tile of the same number (R155). -/
  binding : Sparse Nat
  /-- Use of each physical tile; unlisted, bound below 512 and spare from there. -/
  uses : Sparse TileUse
  castings : Sparse Casting
  loader : List LoaderOp
  /-- Castings as they stood at a keeping reset, whose retained images a keeping start loads again (Table 19-5). -/
  kept : Sparse Casting
  /-- State of a region before a tile fault stopped it, for R179. -/
  before : Sparse Nat
  /-- Messages that left the mesh for a DMA channel and wait for its pass, oldest first: casting slot × 4,096 + route. -/
  meshOut : List (Nat × Bytes)
deriving DecidableEq, Repr, Inhabited

/-! ### LPDDR6 (LPDDR6 Memory and Compression) -/

/-- The tag byte of a burst that is not 0 data alone: POISON and RATE (Table 7-3). -/
structure BurstTag where
  poison : Bool
  rate : BitVec 2
deriving DecidableEq, Repr, Inhabited

/-- Where the loader placed a casting's footprint: one contiguous range of a group's window (R187). -/
structure Footprint where
  casting : Nat
  base : Nat
  bytes : Nat
deriving DecidableEq, Repr, Inhabited

structure Lpddr6 where
  /-- In service: trained and written under R193. -/
  up : Bool
  cells : List Host.Cell
  tags : Sparse BurstTag
  footprints : List Footprint
  /-- MONO of corrected bursts of the last 24 h, per sub-channel (R203). -/
  corrected : Sparse (List Nat)
  candidates : List (Nat × Option Origin)
  /-- Sub-channel whose retirement copy runs, with the class C write that asked for it. -/
  copying : Option (Nat × Option Origin)
  /-- Sub-channels whose readout exceeded 105 °C and has not since come down to 100 °C; their packages issue no access
  (Table 7-6). -/
  hot : List Nat
deriving DecidableEq, Repr, Inhabited

/-! ### The training step (The Training Step) -/

/-- Samples of the step that its record gives the means of (Table 10-5): how many, and their sums. -/
structure StepMeans where
  hcN : Nat
  hcWacor : Rat
  hcLink : Rat
  govN : Nat
  vcore : Rat
  power : Rat
deriving DecidableEq, Repr, Inhabited

structure StepSeq where
  /-- Stepping is on: STEP_CONTROL was last written 2 and nothing has stopped it since. -/
  on : Bool
  stopOrigins : List Origin
  runOrigin : Option Origin
  /-- A step is open: slot 0 has opened and it is not yet decided. -/
  inStep : Bool
  /-- This module has contributed its assay word; the step is abandoned (R219). -/
  contributed : Bool
  abandoned : Bool
  /-- Commit decided; the update runs (phase 4). -/
  committing : Bool
  /-- The address the first abort event reported. -/
  abortAddr : BitVec 64
  /-- Schedule slots opened so far, per casting slot. -/
  opened : Sparse Nat
  /-- Slots withheld for pacing since the last one opened (R50). -/
  withheld : Nat
  /-- Entries begun and ended this step, per region h: how many of its schedule entries. -/
  begun : Sparse Nat
  ended : Sparse Nat
  /-- Round of the step in progress, or of the last step decided (R209). -/
  round : Nat
  word : BitVec 32
  key : BitVec 64
  warm : Bool
  openTime : Int
  openMono : Nat
  slotsEndMono : Nat
  testedMono : Nat
  contributeMono : Nat
  decideMono : Nat
  commitMono : Nat
  pacingMax : Nat
  means : StepMeans
  /-- PATINA_COMMITTED when the step opened. -/
  patinaAtOpen : Nat
  /-- k of each scale index (R215), as the I8 of SCALE_K, and grow of R226; `held` lists the indices this module
  holds tensors of. -/
  scaleK : Sparse (BitVec 8)
  grow : Sparse Nat
  /-- k of each index from the next step on, once the decision records of this one are held (R226). -/
  nextK : Sparse (BitVec 8)
  held : List Nat
  /-- Reduction form of each layer for the step (R229). -/
  forms : Sparse Nat
  /-- This module's own decision records as they form during the step (R224). -/
  own : Sparse DecisionRecord
  /-- Combined records of the committed steps of the window, newest first (R227). -/
  patina : List (Sparse DecisionRecord)
  /-- Combined records of the latest committed step (R230). -/
  latest : Sparse DecisionRecord
  emptyPatina : Bool
  emptyOrigins : List Origin
  /-- What is held of the step's decision. -/
  combined : Option (BitVec 32)
  records : Option (Sparse DecisionRecord)
  /-- Stepping was on before a checkpoint export or an ingot stopped it. -/
  resume : Bool
  /-- DROPS of the step: shard, elements dropped and their largest (Table 10-4). -/
  deltaDrops : Sparse (Nat × F32)
deriving DecidableEq, Repr, Inhabited

/-! ### The update unit (The Update Unit and Parameter State) -/

/-- A tensor entry (Table 9-3). -/
structure UpdTensor where
  tensorId : BitVec 64
  mTensorId : BitVec 64
  copyTensorId : BitVec 64
  region : BitVec 16
  wFormat : BitVec 8
  copyFormat : BitVec 8
  mForm : BitVec 8
  vForm : BitVec 8
  decay : BitVec 8
  beta1 : F32
  beta2 : F32
  eps : F32
  eps1 : F32
  weightDecay : F32
  lrMult : F32
  rows : BitVec 32
  cols : BitVec 32
deriving DecidableEq, Repr, Inhabited

/-- A shard entry (Table 9-4). -/
structure UpdShard where
  shardId : BitVec 32
  tensor : Nat
  rowFirst : Nat
  rowCount : Nat
  headerAddr : Nat
  slot0Addr : Nat
  slot1Addr : Nat
  gradAddr : Nat
  peer : BitVec 16
  group : Nat
  stageAddr : Nat
deriving DecidableEq, Repr, Inhabited

/-- A segment of the learning-rate schedule (Table 9-6). -/
structure LrSegment where
  start : BitVec 32
  kind : BitVec 8
  p0 : F32
  p1 : F32
deriving DecidableEq, Repr, Inhabited

/-- The per-tensor scalars of R242. -/
structure Scalars where
  eta : F32
  dk : F32
  c1 : F32
  c2 : F32
deriving DecidableEq, Repr, Inhabited

structure UpdateUnit where
  castingId : BitVec 64
  tensors : List UpdTensor
  shards : List UpdShard
  /-- Journal records of each engine, oldest first (R251). -/
  journal : Sparse (List Bytes)
  /-- Holds of each slot of each shard: key SHARD_ID × 2 + slot (R249). -/
  holds : Sparse Nat
  /-- An update is in its phase 4. -/
  running : Bool
  /-- Shards not yet written in it, in ascending order; an engine waits at a held slot (R250). -/
  waiting : List (BitVec 32)
  /-- Staged parked shards: fetched for the step, and new state computed and not yet written back (R253, R254). -/
  fetched : List (BitVec 32)
  unwritten : List (BitVec 32)
  /-- Header of each parked shard as this owner last fetched or wrote it at the peer. -/
  parked : Sparse Bytes
  g : F32
  lr : F32
  clip : F32
  exportOrigin : Option Origin
  exportBytes : Bytes
  /-- The update cannot go on: a write-back of a parked shard timed out (R254), or a read delivered no data. -/
  parkedLost : Bool
  /-- Parked shards whose write-back timed out and has not been made good since (R254, R493). -/
  stuck : List (BitVec 32)
deriving DecidableEq, Repr, Inhabited

/-! ### Sillage (The Sillage Record, Replay and Time) -/

structure Replay where
  records : List Bytes
  pos : Nat
  running : Bool
  paused : Bool
  diverged : Bool
  origin : Option Origin
  /-- A write that abandons the replay and waits for the step boundary. -/
  abandon : Option Origin
deriving DecidableEq, Repr, Inhabited

structure Sillage where
  /-- Records in the LPDDR6 ring, oldest first, with their sequence numbers, and how many of them are spilled. -/
  ring : List (Nat × Bytes)
  spilled : Nat
  nextSeq : Nat
  lastDigest : Bytes
  lostFlag : Bool
  spillStopped : Bool
  /-- EVENTS, FINGERPRINTS and DROPS of the step in progress, as their section bytes. -/
  events : List Bytes
  prints : List Bytes
  afterReplay : Bool
  replay : Replay
deriving DecidableEq, Repr, Inhabited

/-! ### Site mapping (Mapping a Job Across a Site) -/

structure MapGroup where
  kind : BitVec 8
  members : List (BitVec 16)
  seqChunk : Nat
deriving DecidableEq, Repr, Inhabited

structure MapLayer where
  layer : BitVec 16
  gradGroup : Nat
  buffers : Nat
  keep : Bool
  bufAddr : Nat
  bufBytes : Nat
deriving DecidableEq, Repr, Inhabited

structure MapBinding where
  module : BitVec 16
  route : BitVec 16
  transfer : BitVec 8
  group : BitVec 16
  peerModule : BitVec 16
  peerRoute : BitVec 16
  capacity : Nat
  tokenBytes : Nat
deriving DecidableEq, Repr, Inhabited

/-- A gather of the step (R295, R305). -/
structure Gather where
  shard : BitVec 32
  layer : BitVec 16
  pass : Nat
  buffer : Nat
  /-- Version named: the one recorded by the forward gather, or none for "current". -/
  named : Option Version
  served : Option Version
  retries : Nat
  issued : Nat
  landed : Option Nat
  failed : Bool
  /-- Its hold is not yet released; the slot it was served from where this module owns the shard. -/
  held : Bool
  ownSlot : Option Nat
  /-- Bytes of it in the buffer. -/
  size : Nat
deriving DecidableEq, Repr, Inhabited

/-- One use of a layer's gather buffers: issued, and free again behind the last entry that reads it (R295). -/
structure GatherUse where
  slot : Nat
  layer : BitVec 16
  pass : Nat
  buffer : Nat
  issued : Nat
  free : Bool
deriving DecidableEq, Repr, Inhabited

/-- A site map in force, as written and as read (R289). -/
structure MapData where
  raw : Bytes
  digest : Bytes
  siteModules : Nat
  groups : List MapGroup
  layers : List MapLayer
  bindings : List MapBinding
deriving DecidableEq, Repr, Inhabited

structure SiteMap where
  /-- The map of each casting slot, and the slot of the map accepted last. -/
  maps : Sparse (Option MapData)
  last : Option Nat
  /-- Modules whose digest and version agreed with this module's since the map was accepted. -/
  agreed : List (BitVec 16)
  gathers : List Gather
  uses : List GatherUse
  ledger : Bytes
deriving DecidableEq, Repr, Inhabited

/-! ### Braze (The Braze Fabric) -/

/-- A frame in the transmit store with the retransmissions made of it (R312, R313). -/
structure Stored where
  frame : BzFrame
  tries : Nat
deriving DecidableEq, Repr, Inhabited

/-- The two flows between this module and a peer. -/
structure BzFlow where
  epoch : BitVec 8
  nextSeq : BitVec 32
  /-- Port of the flow's last frame (rotation of the up ports). -/
  port : Nat
  unacked : List Stored
  /-- Frames that wait for room in the window or the transmit store (R312). -/
  waiting : List BzFrame
  rxEpoch : BitVec 8
  rxNext : BitVec 32
  rxHeld : List BzFrame
  lost : Bool
deriving DecidableEq, Repr, Inhabited

/-- Send credits of a binding: granted to this module, used by it; granted by it to the peer, used by the peer. -/
structure BzCredit where
  granted : Nat
  used : Nat
  given : Nat
  taken : Nat
deriving DecidableEq, Repr, Inhabited

/-- A collective of kinds 1 to 4 and 7 at this module (R319 to R325). -/
structure Collective where
  number : BitVec 32
  step : BitVec 32
  /-- This module has issued it; before that, only results of others that came early are held. -/
  issued : Bool
  /-- Its result has been written at this module; operand bytes may still wait for credits. -/
  done : Bool
  /-- MONO of the deadline fixed at issue (R325). -/
  deadline : Nat
  members : List (BitVec 16)
  /-- Format and k of the operands (R320), and the compression rate between modules. -/
  fmt : BitVec 8
  k : BitVec 8
  rate : Nat
  /-- Ordinal of the update table's tensor entry for kind 7, and TENSOR_ID of its accumulator; the result's route and 0
  otherwise. -/
  tensor : Option Nat
  tensorId : Nat
  route : Nat
  /-- Operand bytes not yet sent to each member, and sent so far. -/
  operands : Sparse Bytes
  sent : Sparse Nat
  /-- This module's own operand for its owned part, uncompressed; chunks of 64 images in it; its first row and rows for
  kind 7. -/
  own : Bytes
  chunkCount : Nat
  rowFirst : Nat
  rowCount : Nat
  /-- Chunk being summed: its number, its binary32 accumulators, the members added so far (R321). -/
  chunk : Nat
  acc : List Nat
  added : List (BitVec 16)
  /-- Operand bytes received and not yet added, per member. -/
  inbuf : Sparse Bytes
  /-- Sums of finished chunks in the operands' format, and which of their elements overflowed (R322). -/
  sums : Bytes
  spilled : List Nat
  nonfinite : Nat
  compressed : Nat
  /-- Results received of each member, in order; bytes each has when whole. -/
  result : Sparse Bytes
  resultSizes : Sparse Nat
deriving DecidableEq, Repr, Inhabited

/-- A tree collective at this node (R318, R323): own contribution, those of the children, and what was forwarded. -/
structure TreeNode where
  number : BitVec 32
  step : BitVec 32
  own : Option Bytes
  children : List (BitVec 16 × Bytes)
  sentUp : Bool
  result : Option Bytes
deriving DecidableEq, Repr, Inhabited

structure Braze where
  flows : Sparse BzFlow
  credits : Sparse BzCredit
  collectives : List Collective
  trees : List TreeNode
  /-- Peers with which this module shares a number (R317). -/
  conflict : Bool
  /-- Peers whose presence quote was accepted: module number and DEVICE_ID (R479). -/
  accepted : List (BitVec 16 × Bytes)
  /-- Start counts accepted per DEVICE_ID since this start (R479). -/
  presented : List (Bytes × BitVec 64)
  /-- Messages received in whole for a route of kind 3 and not yet taken by its channel: casting slot × 4,096 + route. -/
  inbox : List (Nat × Bytes)
  /-- Messages being received: channel, message number, bytes so far. -/
  partials : List (BitVec 32 × BitVec 32 × Bytes)
  /-- Next message number of each binding, and next instance of each collective kind, slot and route in the step. -/
  msgNumbers : Sparse Nat
  instances : Sparse Nat
  /-- Latest completion record (R322): collective number, elements, overflowed, non-finite, compressed operands. -/
  records : List (Nat × Nat × Nat × Nat × Nat)
deriving DecidableEq, Repr, Inhabited

/-! ### Anneal rounds -/

structure RoundShard where
  shardId : BitVec 32
  block0 : Nat
  block1 : Nat
  delta : Nat
  out : Nat
  rx : Nat
  deltaTensor : BitVec 64
deriving DecidableEq, Repr, Inhabited

/-- A contribution of another site in a receive slot. -/
structure Contribution where
  site : Nat
  round : Nat
  slot : Nat
deriving DecidableEq, Repr, Inhabited

/-- A decided merge (R343), as its accord entries and the step that decided it. -/
structure Merge where
  round : Nat
  ownNonfinite : Bool
  entries : List (Nat × Nat × Nat)
  voteStep : BitVec 32
  voteKey : BitVec 64
  /-- TIME64 and MONO of the decision at this module (R347). -/
  voteTime : Int
  voteMono : Nat
  resent : Bool
deriving DecidableEq, Repr, Inhabited

structure Ingot where
  /-- A fetch is due at the step boundary (R352). -/
  due : Bool
  /-- Bytes received so far; the round a fetch named; a verified ingot's ROUND. -/
  bytes : Bytes
  asked : Option Nat
  ready : Option Nat
  /-- Stepping resumes after the import (R355); the write that started the fetch. -/
  byStop : Bool
  origin : Option Origin
  /-- Site and round served (R354). -/
  serving : Option (Nat × Nat)
  /-- A refused ingot waits for its next fetch. -/
  retry : Bool
deriving DecidableEq, Repr, Inhabited

structure Rounds where
  castingId : BitVec 64
  rxSlots : Nat
  outSlots : Nat
  shards : List RoundShard
  /-- Round closed and not merged; MONO of its closing commit; the window has passed (R341). -/
  pending : Option Nat
  closeMono : Nat
  windowPassed : Bool
  ready : Bool
  frozen : List (Nat × Nat)
  ownNonfinite : Bool
  contributions : List Contribution
  rejected : List (Nat × Nat)
  decided : Option Merge
  resent : List (Nat × Nat)
  history : List Bytes
  /-- Accord record written to the round control block and not yet committed (R343, R359). -/
  control : Option Bytes
  controlClose : Option Nat
  partners : Sparse Nat
  partnerMerged : Sparse Nat
  /-- Latest merged round and PREV_DIGEST of each partner's greeting (R330). -/
  partnerRound : Sparse Nat
  partnerPrev : Sparse Bytes
  /-- Own rounds whose contribution stands in an outbound slot (R338). -/
  held : List Nat
  /-- The latest merges: round, MERGE_STEP, UPDATES_APPLIED at the merge (Table 13-7). -/
  merges : List (Nat × Nat × Nat)
  ingotNeeded : Bool
  donor : Option Nat
  ingot : Ingot
deriving DecidableEq, Repr, Inhabited

/-! ### Site links -/

/-- A session with one partner module (R371 to R375). Its keys lie in cipher slots from `base` on: hello keys sent and
received under, transmit keys now and next, receive keys before, now and next. -/
structure SlkSession where
  base : Nat
  /-- Partner's start counter last accepted. -/
  peerStart : Option (BitVec 64)
  /-- The partner has answered this module's own counter. -/
  up : Bool
  /-- An authenticated packet has shown that the partner has the session too. -/
  confirmed : Bool
  /-- This module has sent under its present start counter to this partner. -/
  used : Bool
  epochTx : BitVec 32
  pnTx : Nat
  /-- The receive epoch is known; before that the first packet that authenticates gives it. -/
  rxKnown : Bool
  epochRx : BitVec 32
  /-- The previous receive epoch is still live. -/
  previous : Bool
  /-- A probe has been answered within SLK_PROBE_TIMEOUT. -/
  answered : Bool
  /-- MONO of the last probe sent. -/
  probeSent : Nat
  /-- The session's first message, the partner's presence quote, has not come yet (R479). -/
  quoteDue : Bool
deriving DecidableEq, Repr, Inhabited

/-- An open message of a receive context: the fragments above BASE held, and what every fragment held carries (R382). -/
structure RxMessage where
  round : BitVec 32
  fragments : Nat
  base : Nat
  held : List Nat
  cells : List (Nat × Bytes)
deriving DecidableEq, Repr, Inhabited

/-- A message being sent: its source bytes, the next fragment not yet sent once, the lowest one not shown held and those
above it that are (R380, R381). -/
structure TxMessage where
  round : BitVec 32
  bytes : Bytes
  next : Nat
  base : Nat
  held : List Nat
deriving DecidableEq, Repr, Inhabited

/-- A flow context (Table 14-4) with its messages. -/
structure FlowContext where
  state : BitVec 8
  cls : BitVec 8
  site : Nat
  parity : Nat
  stream : BitVec 16
  dmaChannel : BitVec 16
  partnerModule : BitVec 16
  weight : BitVec 16
  rateLimit : F32
  rx : List RxMessage
  tx : List TxMessage
  /-- ROUND values of the last 64 completed messages, newest last, and of those whose completion is still to be
  told, with their fragments. -/
  completed : List (BitVec 32)
  toAck : List (BitVec 32 × Nat)
  unackedRx : Nat
  /-- Number of the next message sent, or to be handed to the DMA channel; complete messages that wait their turn. -/
  number : Option Nat
  ready : List (BitVec 32 × Bytes)
  /-- Entry written while in use: takes effect at the next message boundary (R369). -/
  next : Option Bytes
deriving DecidableEq, Repr, Inhabited

/-- A transmit FEC group of a port and partner module (R378): sealed units so far. -/
structure FecTx where
  port : Nat
  partner : Nat
  group : BitVec 32
  units : List Bytes
  parity : Nat
deriving DecidableEq, Repr, Inhabited

/-- A receive FEC group (R379): sealed packets by GROUP_INDEX, parity symbols by j. -/
structure FecRx where
  port : Nat
  partner : Nat
  group : BitVec 32
  k : Option Nat
  units : List (Nat × Bytes)
  parity : List (Nat × Bytes)
deriving DecidableEq, Repr, Inhabited

/-- Partner modules are keyed by site × 65,536 + module number. -/
structure SiteLinks where
  sessions : Sparse SlkSession
  contexts : Sparse FlowContext
  nextPort : Nat
  fecTx : List FecTx
  fecRx : List FecRx
  nextGroup : Nat
  /-- Sites whose greeting was accepted since the session came up. -/
  greeted : List Nat
  /-- Sites whose accord history has come since (R349). -/
  histories : List Nat
  /-- Presence quotes accepted: partner, DEVICE_ID, START_COUNT (R479). -/
  accepted : List (Nat × Bytes × BitVec 64)
  /-- Bulk messages received in whole and not yet taken by their DMA channel. -/
  inbox : List (Nat × Bytes)
deriving DecidableEq, Repr, Inhabited

/-! ### Cipher engine, DMA, dictionary -/

/-- A key slot: type of R398 and key bytes. -/
structure KeySlot where
  type : BitVec 8
  key : Bytes
deriving DecidableEq, Repr, Inhabited

/-- An accepted request with the key it named at acceptance (R400) and the status its checks gave. -/
structure CipherJob where
  who : CipherRequester
  descAddr : BitVec 64
  desc : Bytes
  key : KeySlot
  status : BitVec 8
deriving DecidableEq, Repr, Inhabited

structure Cipher where
  slots : Sparse KeySlot
  queue : List CipherJob
  unitsFailed : List Nat
deriving DecidableEq, Repr, Inhabited

structure DmaChannel where
  descs : List Bytes
  /-- Descriptor being worked, passes of it begun so far. -/
  cur : Nat
  pass : Nat
  trigger : Bool
  half : Bool
  ring : List Bytes
  /-- Completion entries that wait for room in the ring, with MONO since when. -/
  held : List Bytes
  heldSince : Nat
  /-- MONO at which the present descriptor was reached. -/
  reached : Nat
  stopAsked : Bool
  route : Option (Nat × BitVec 16)
deriving DecidableEq, Repr, Inhabited

/-- A requester entry of the configuration set (Table 20-8). -/
structure Requester where
  n : Fin 17
  level : BitVec 8
  prefixBits : Nat
  address : BitVec 128
  eventAddr : BitVec 128
  eventPort : BitVec 16
  wrapped : Bytes
deriving DecidableEq, Repr, Inhabited

/-- An event held until it is acknowledged (R436, R437). -/
structure Event where
  seq : Nat
  code : BitVec 16
  status : BitVec 8
  index : BitVec 16
  sub : BitVec 8
  originXid : BitVec 32
  detail : BitVec 64
  address : BitVec 64
  time : Int
deriving DecidableEq, Repr, Inhabited

/-- An open DOMAIN transfer (R434): a snapshot being read, with the byte ranges returned, or bytes written so far. -/
structure Transfer where
  rq : Nat
  key : Nat
  write : Bool
  data : Bytes
  returned : List (Nat × Nat)
deriving DecidableEq, Repr, Inhabited

/-- What the server remembers of a transaction id (R427, R428). -/
structure SeenXid where
  xid : BitVec 32
  tag : Bytes
  response : Bytes
deriving DecidableEq, Repr, Inhabited

structure ReqState where
  high : Option (BitVec 32)
  seen : List SeenXid
  events : List Event
  nextEvent : Nat
  /-- TIME of the last authentication-failure entry, MONO. -/
  authLogged : Option Nat
deriving DecidableEq, Repr, Inhabited

structure DapServer where
  reqs : Sparse ReqState
  transfers : List Transfer
  linkUp : Bool
deriving DecidableEq, Repr, Inhabited

/-! ### Faults, firmware, identity -/

/-- A fault-log entry (Table 21-1). -/
structure FaultEntry where
  seq : Nat
  time : Int
  mono : Nat
  unit : BitVec 16
  code : BitVec 16
  region : BitVec 16
  flags : BitVec 8
  address : BitVec 64
  detail : BitVec 64
  round : BitVec 32
  step : BitVec 32
deriving DecidableEq, Repr, Inhabited

structure FaultLog where
  entries : List FaultEntry
  nextSeq : Nat
  /-- First sequence number not yet copied to the eMMC. -/
  uncopied : Nat
  copyStopped : Bool
  first : Bool
  /-- Events whose causes came before the dictionary serves (R437). -/
  early : List Event
deriving DecidableEq, Repr, Inhabited

/-- A firmware slot of the eMMC. -/
structure FwSlot where
  image : Bytes
  state : BitVec 8
  version : BitVec 32
deriving DecidableEq, Repr, Inhabited

/-- The configuration set in force, read into its records (R475). -/
structure ConfigSet where
  version : BitVec 32
  raw : Bytes
  owner : Option Bytes
  requesters : List Requester
  castingKeys : List (BitVec 64 × Bytes)
  mgmt : Option Bytes
  enrolKey : Option Bytes
  peers : List (BitVec 8 × BitVec 16 × Bytes)
deriving DecidableEq, Repr, Inhabited

/-- What the eMMC and its replay-protected block keep (Tables 20-1 and 20-2). -/
structure Emmc where
  startCount : BitVec 64
  rollbackMin : BitVec 32
  confirmed : Fin 2
  trial : BitVec 8
  revoked : BitVec 8
  slotA : FwSlot
  slotB : FwSlot
  config : ConfigSet
  /-- Which of the two configuration copies is in force. -/
  selector : Fin 2
  /-- The enrolled list, and the last SEQ accepted since the set in force took effect (R481). -/
  enrolled : List (BitVec 8 × BitVec 16 × Bytes)
  enrolSeq : Option Nat
  keyProgrammed : Bool
  runMark : Bool
  tilesRetired : List Nat
  memRetired : List Nat
  clearTiles : Bool
  clearMem : Bool
  faultCopy : List FaultEntry
  spill : List (Nat × Bytes)
deriving DecidableEq, Repr, Inhabited

/-- A measurement (R474). -/
structure Measurement where
  kind : BitVec 16
  mono : Nat
  digest : Bytes
deriving DecidableEq, Repr, Inhabited

structure Identity where
  /-- Identity seed of R464; none where the PUF could not be read (R465), or before core 0 has read it. -/
  seed : Option Bytes
  /-- PUF_STATE: 0 not enrolled, 1 enrolled, 2 helper data refused. -/
  puf : BitVec 8
  /-- Signatures made with the device key since this start. -/
  signed : Nat
  chain : Bytes
  entries : List Measurement
  count : Nat
  /-- Nonces whose quotes are still to be made, with the writes that asked for them (R478). -/
  quotes : List (Bytes × Origin)
  presence : Bytes
  /-- MGMT record in force at this start (R477). -/
  mgmt : Option Bytes
  /-- A firmware install is open, with the write it answers. -/
  install : Option Origin
deriving DecidableEq, Repr, Inhabited

structure Service where
  op : Nat
  arg : BitVec 64
  origin : Option Origin
  /-- Reason code the operation will end with when its own checks have already failed. -/
  reason : BitVec 8
deriving DecidableEq, Repr, Inhabited

/-! ### What the module sends -/

/-- What leaves the module at its interfaces. -/
inductive Out where
  /-- A response datagram to requester `rq` at the address its request came from. -/
  | dap (rq : Nat) (dest : BitVec 128) (datagram : Bytes)
  /-- An event to the event address and port of requester `rq` (Table 17-6); `Chip.eventMessage` is its datagram. -/
  | event (rq : Nat) (e : Event)
  | braze (port : Nat) (mac : MacHeader) (f : BzFrame)
  | slk (port : Nat) (mac : MacHeader) (f : SlkFrame)
  | ptp (port : Nat) (what : PtpOut) (stamp : Int)
  | item (rq : Nat) (key : Nat) (status : BitVec 8) (value : Bytes)
  | mapDigest (peer : BitVec 16) (r : MapReply)
  | gatherRequest (owner : Option (BitVec 16)) (shard : BitVec 32) (version : Option Version)
  | layerGather (layer : BitVec 16)
  | gatherServed (peer : BitVec 16) (shard : BitVec 32) (version : Option Version) (data : Bytes)
  | cipher (who : CipherRequester) (status : BitVec 8) (bytes : BitVec 32) (time : BitVec 64)
  | slkDelivered (partner : Nat) (stream : BitVec 16) (round : BitVec 32) (message : Bytes)
  | holdRelease (owner : Option (BitVec 16)) (shard : BitVec 32) (version : Version)
  | peerWrite (peer : BitVec 16) (addr : Nat) (data : Bytes)
  | parkedFetch (peer : BitVec 16) (shard : BitVec 32)
  | greeting (site : Nat) (g : Greeting)
  | accordHistory (site : Nat) (history : List Bytes)
  | ingotRequest (site : Nat) (round : Option (BitVec 32))
  | ingotRound (round : BitVec 32)
deriving DecidableEq, Repr, Inhabited

/-! ### The module, and the module with its waiting commands -/

/-- Everything the spec gives the module to hold. -/
structure Chip where
  /-- Every fixed-size dictionary object, by index × 256 + subindex; an unlisted one reads its default. -/
  regs : Sparse Nat
  /-- Bytes of STR, BLOB and DOMAIN objects, by index × 256 + subindex. -/
  blobs : Sparse Bytes
  board : Board
  start : StartSeq
  time : TimeUnit
  gov : Governor
  array : TileArray
  mem : Lpddr6
  step : StepSeq
  upd : UpdateUnit
  sil : Sillage
  map : SiteMap
  bz : Braze
  rnd : Rounds
  slk : SiteLinks
  cipher : Cipher
  dma : Sparse DmaChannel
  /-- Buffers of the link-die address map (R406), by address within it. -/
  linkMem : List Host.Cell
  dap : DapServer
  flt : FaultLog
  emmc : Emmc
  ident : Identity
  svc : Service
  /-- What the module has sent since the state began, newest first. -/
  out : List Out
  /-- How many free values have been taken (the model's own field: a value the spec leaves open is
  `Config.freeValue` of it). -/
  free : Nat
deriving DecidableEq, Repr, Inhabited

structure State where
  chip : Chip
  /-- Commands that wait, first in, first out (the model's own field). -/
  pending : List Instr
deriving DecidableEq, Repr, Inhabited

/-! ### The reasons a step can stop -/

/-- Faults: none. Every command that the spec gives an effect goes on to a next state; the faults of the hardware (tile
faults, error completions, refused writes) are effects on State. -/
inductive Fault where
deriving DecidableEq, Repr

/-- Refusals: the model gives a command no meaning. -/
inductive Refusal where
  /-- Raised by `exec` for a command whose meaning is not written; safe. -/
  | notModelled (mnemonic : String)
deriving DecidableEq, Repr, Inhabited

/-! ### The state a module has before its first power -/

def Cage.reset : Cage := ⟨false, false, false, false⟩

/-- The board unplugged: no input, no tray. -/
def Board.reset : Board where
  seated := false
  pwrEn := false
  inputOk := false
  phase := .off
  thermalLatch := false
  faultLow := false
  inletHigh := false
  flowLow := false
  below15 := false
  below10 := false
  slotPins := 0
  locateLow := false
  indicator := false
  modReady := false
  inletNow := 0
  emmcOpen := true
  ppsOut := false
  tenMOut := false
  cage0 := Cage.reset
  cage1 := Cage.reset

def StartSeq.reset : StartSeq where
  stage := .none
  kind := .power
  unplanned := false
  trained := false
  memoryWritten := false
  selfTested := false
  restored := false
  counterOk := false
  held := false
  requested := none
  watchdogs := []
  bootedSlot := 0
  trial := false
  fwVersion := 0
  dead := false

def PpsState.reset : PpsState := ⟨0, none, false, 0⟩

def PtpPort.reset : PtpPort := ⟨.listening, none, none, none, none, none, 0⟩

def TimeUnit.reset : TimeUnit where
  running := false
  mono := 0
  offset := 0
  set := false
  byOperator := false
  sma := PpsState.reset
  tray := PpsState.reset
  tenMhz := false
  followed := false
  holdover := none
  holdoverExpired := false
  slew := 0
  ports := List.replicate 9 PtpPort.reset

def Governor.reset : Governor where
  started := false
  vWacor := 750
  vLink := 750
  sinceRaise := 50
  pacing := 0
  spdRaise := false
  spdRaiseLink := false
  spdHold := 0
  overTarget := false
  overTj := false
  hcWacor := 0
  hcLink := 0
  windows := []
  rxOverruns := 0
  owed := 0

def TileArray.reset : TileArray where
  tiles := []
  binding := []
  uses := []
  castings := []
  loader := []
  kept := []
  before := []
  meshOut := []

def Lpddr6.reset : Lpddr6 where
  up := false
  cells := []
  tags := []
  footprints := []
  corrected := []
  candidates := []
  copying := none
  hot := []

def StepSeq.reset : StepSeq where
  on := false
  stopOrigins := []
  runOrigin := none
  inStep := false
  contributed := false
  abandoned := false
  committing := false
  abortAddr := 0
  opened := []
  withheld := 0
  begun := []
  ended := []
  round := 0
  word := 0
  key := 0
  warm := false
  openTime := 0
  openMono := 0
  slotsEndMono := 0
  testedMono := 0
  contributeMono := 0
  decideMono := 0
  commitMono := 0
  pacingMax := 0
  means := ⟨0, 0, 0, 0, 0, 0⟩
  patinaAtOpen := 0
  scaleK := []
  grow := []
  nextK := []
  held := []
  forms := []
  own := []
  patina := []
  latest := []
  emptyPatina := false
  emptyOrigins := []
  combined := none
  records := none
  resume := false
  deltaDrops := []

def UpdateUnit.reset : UpdateUnit where
  castingId := 0
  tensors := []
  shards := []
  journal := []
  holds := []
  running := false
  waiting := []
  fetched := []
  unwritten := []
  parked := []
  g := 0
  lr := 0
  clip := 0x3F800000
  exportOrigin := none
  exportBytes := []
  parkedLost := false
  stuck := []

def Sillage.reset : Sillage where
  ring := []
  spilled := 0
  nextSeq := 0
  lastDigest := List.replicate 16 0
  lostFlag := false
  spillStopped := false
  events := []
  prints := []
  afterReplay := false
  replay := ⟨[], 0, false, false, false, none, none⟩

def SiteMap.reset : SiteMap where
  maps := []
  last := none
  agreed := []
  gathers := []
  uses := []
  ledger := []

def Braze.reset : Braze where
  flows := []
  credits := []
  collectives := []
  trees := []
  conflict := false
  accepted := []
  presented := []
  inbox := []
  partials := []
  msgNumbers := []
  instances := []
  records := []

def Rounds.reset : Rounds where
  castingId := 0
  rxSlots := 0
  outSlots := 0
  shards := []
  pending := none
  closeMono := 0
  windowPassed := false
  ready := false
  frozen := []
  ownNonfinite := false
  contributions := []
  rejected := []
  decided := none
  resent := []
  history := []
  control := none
  controlClose := none
  partners := []
  partnerMerged := []
  partnerRound := []
  partnerPrev := []
  held := []
  merges := []
  ingotNeeded := false
  donor := none
  ingot := ⟨false, [], none, none, false, none, none, false⟩

def SiteLinks.reset : SiteLinks where
  sessions := []
  contexts := []
  nextPort := 0
  fecTx := []
  fecRx := []
  nextGroup := 0
  greeted := []
  histories := []
  accepted := []
  inbox := []

def Cipher.reset : Cipher := ⟨[], [], []⟩

def DapServer.reset : DapServer := ⟨[], [], false⟩

def FaultLog.reset : FaultLog := ⟨[], 0, 0, false, false, []⟩

/-- The set a module leaves the factory with (R477): requester 1 at level 3 with prefix fe80::/10. -/
def ConfigSet.factory : ConfigSet where
  version := 1
  raw := Config.factorySet
  owner := none
  requesters := [⟨1, 3, 10, 0xFE80_0000_0000_0000_0000_0000_0000_0000#128, Config.factoryEventAddr,
    Config.factoryEventPort, Config.factoryRequesterKey⟩]
  castingKeys := []
  mgmt := none
  enrolKey := none
  peers := []

def Emmc.reset : Emmc where
  startCount := 0
  rollbackMin := 1
  confirmed := 0
  trial := 0
  revoked := 0
  slotA := ⟨Config.factoryFirmware, 2, 1⟩
  slotB := ⟨[], 0, 0⟩
  config := ConfigSet.factory
  selector := 0
  enrolled := []
  enrolSeq := none
  keyProgrammed := true
  runMark := false
  tilesRetired := []
  memRetired := []
  clearTiles := false
  clearMem := false
  faultCopy := []
  spill := []

def Identity.reset : Identity where
  seed := none
  puf := 0
  signed := 0
  chain := []
  entries := []
  count := 0
  quotes := []
  presence := []
  mgmt := none
  install := none

def Service.reset : Service := ⟨0, 0, none, 0⟩

def Chip.reset : Chip where
  regs := []
  blobs := []
  board := Board.reset
  start := StartSeq.reset
  time := TimeUnit.reset
  gov := Governor.reset
  array := TileArray.reset
  mem := Lpddr6.reset
  step := StepSeq.reset
  upd := UpdateUnit.reset
  sil := Sillage.reset
  map := SiteMap.reset
  bz := Braze.reset
  rnd := Rounds.reset
  slk := SiteLinks.reset
  cipher := Cipher.reset
  dma := []
  linkMem := []
  dap := DapServer.reset
  flt := FaultLog.reset
  emmc := Emmc.reset
  ident := Identity.reset
  svc := Service.reset
  out := []
  free := 0

/-- The module as it leaves the factory, before its first power, with no command waiting. -/
def State.reset : State := ⟨Chip.reset, []⟩

end Sys2Proof.Machine
end

