-- ==== Sys2Proof/Machine/Sparse.lean ====
section
/-! DEFINITION. Machine/Sparse.lean: reading and writing a sparse map, and the canonical form that makes equal maps
equal lists: keys strictly rising, no key listed at the default. The byte memories of the tiles and the LPDDR6 are
such maps with default 0 (R163: a tile's memory reads 0 outside the segments; R193: LPDDR6 is written with zeros). -/

namespace Sys2Proof.Machine

/-- What the map holds at key `k`; `d` is what an unlisted key reads as. -/
def Sparse.get {α : Type} (d : α) : List (Nat × α) → Nat → α
  | [], _ => d
  | (i, v) :: r, k => if i = k then v else Sparse.get d r k

/-- The map with key `k` listed at `v`, in its place. -/
def Sparse.insert {α : Type} : List (Nat × α) → Nat → α → List (Nat × α)
  | [], k, v => [(k, v)]
  | (i, w) :: r, k, v =>
    if k < i then (k, v) :: (i, w) :: r
    else if i = k then (k, v) :: r
    else (i, w) :: Sparse.insert r k v

/-- The map with key `k` unlisted. -/
def Sparse.erase {α : Type} (m : List (Nat × α)) (k : Nat) : List (Nat × α) :=
  m.filter fun e => e.1 != k

/-- The map with `v` at key `k`: unlisted where `v` is the default. -/
def Sparse.put {α : Type} [DecidableEq α] (d : α) (m : List (Nat × α)) (k : Nat) (v : α) : List (Nat × α) :=
  if v = d then Sparse.erase m k else Sparse.insert m k v

/-- The canonical form: keys strictly rising, no entry at the default. -/
def Sparse.wf {α : Type} [DecidableEq α] (d : α) : List (Nat × α) → Bool
  | [] => true
  | [(_, v)] => decide (v ≠ d)
  | (i, v) :: (j, w) :: r => decide (v ≠ d) && decide (i < j) && Sparse.wf d ((j, w) :: r)

/-! ### Byte memory -/

/-- One byte of a memory. -/
def Memory.read (m : List Host.Cell) (a : Nat) : Byte := Sparse.get 0#8 m a

/-- One byte written. -/
def Memory.write (m : List Host.Cell) (a : Nat) (b : Byte) : List Host.Cell := Sparse.put 0#8 m a b

/-- `n` bytes from address `a` upward. -/
def Memory.readBytes (m : List Host.Cell) (a : Nat) : Nat → Bytes
  | 0 => []
  | n + 1 => Memory.read m a :: Memory.readBytes m (a + 1) n

/-- The bytes written from address `a` upward. -/
def Memory.writeBytes (m : List Host.Cell) (a : Nat) : Bytes → List Host.Cell
  | [] => m
  | b :: r => Memory.writeBytes (Memory.write m a b) (a + 1) r

/-- The canonical form of a memory. -/
abbrev Memory.wf (m : List Host.Cell) : Bool := Sparse.wf 0#8 m

/-- Every cell from `a` up to, not including, `b` set to 0. -/
def Memory.clear (m : List Host.Cell) (a b : Nat) : List Host.Cell :=
  m.filter fun e => !(decide (a ≤ e.1) && decide (e.1 < b))

end Sys2Proof.Machine
end

