-- ==== Sys2Proof/Machine/Bytes.lean ====
section
/-! DEFINITION. Machine/Bytes.lean: byte strings and numbers. R6: dictionary objects, images and layouts in memory are
little-endian; network frames are big-endian. -/

namespace Sys2Proof.Machine

/-- The low `n` bytes of `v`, least significant first. -/
def leBytes : Nat → Nat → Bytes
  | 0, _ => []
  | n + 1, v => BitVec.ofNat 8 v :: leBytes n (v / 256)

/-- The low `n` bytes of `v`, most significant first. -/
def beBytes (n v : Nat) : Bytes := (leBytes n v).reverse

/-- The number a little-endian string spells. -/
def leNat : Bytes → Nat
  | [] => 0
  | b :: r => b.toNat + 256 * leNat r

/-- The number a big-endian string spells. -/
def beNat (b : Bytes) : Nat := leNat b.reverse

/-- `n` bytes of `b` from offset `o`; fewer where `b` ends earlier. -/
def slice (b : Bytes) (o n : Nat) : Bytes := (b.drop o).take n

/-- The little-endian number of `n` bytes at offset `o`; bytes beyond the end count as 0. -/
def leAt (b : Bytes) (o n : Nat) : Nat := leNat (slice b o n)

def u8At (b : Bytes) (o : Nat) : Nat := leAt b o 1
def u16At (b : Bytes) (o : Nat) : Nat := leAt b o 2
def u32At (b : Bytes) (o : Nat) : Nat := leAt b o 4
def u64At (b : Bytes) (o : Nat) : Nat := leAt b o 8

/-- The big-endian number of `n` bytes at offset `o`. -/
def beAt (b : Bytes) (o n : Nat) : Nat := beNat (slice b o n)

/-- `n` zero bytes. -/
def zeros (n : Nat) : Bytes := List.replicate n 0#8

/-- `b` followed by zero bytes up to length `n`, or cut to it. -/
def padTo (n : Nat) (b : Bytes) : Bytes := b.take n ++ zeros (n - b.length)

/-- `b` with the bytes from offset `o` replaced by `w`; `b` is first filled with zeros up to where `w` ends. -/
def splice (b : Bytes) (o : Nat) (w : Bytes) : Bytes :=
  let b' := b ++ zeros (o + w.length - b.length)
  b'.take o ++ w ++ b'.drop (o + w.length)

/-- The string cut into pieces of `n` bytes, the last possibly shorter (`fuel` bounds their number). -/
def chunksAux (n : Nat) : Nat → Bytes → List Bytes
  | 0, _ => []
  | f + 1, b => if b.isEmpty then [] else b.take n :: chunksAux n f (b.drop n)

def chunks (n : Nat) (b : Bytes) : List Bytes := chunksAux n b.length b

/-- All bytes are 0 (a reserved field, an unused place). -/
def allZero (b : Bytes) : Bool := b.all fun x => x == 0#8

/-- `2^n` divides `v`. -/
def aligned (n v : Nat) : Bool := v % n == 0

def alignUp (n v : Nat) : Nat := (v + n - 1) / n * n

def ceilDiv (a b : Nat) : Nat := (a + b - 1) / b

/-- Bits `[hi:lo]` of a number. -/
def bits (v hi lo : Nat) : Nat := v / 2 ^ lo % 2 ^ (hi + 1 - lo)

/-- Bit `i` of a number. -/
def bit (v i : Nat) : Bool := v.testBit i

/-- The signed number the low `w` bits of `v` spell in two's complement. -/
def signed (w v : Nat) : Int :=
  let u := v % 2 ^ w
  if u < 2 ^ (w - 1) then (u : Int) else (u : Int) - 2 ^ w

/-- The low `w` bits of an integer's two's complement form. -/
def unsigned (w : Nat) (v : Int) : Nat := (v % (2 ^ w : Int)).toNat

/-- `n` further bytes, each of the form 10xxxxxx, for a UTF-8 sequence that has begun. -/
def utf8Tail : Nat → Bytes → Option Bytes
  | 0, b => some b
  | _ + 1, [] => none
  | n + 1, x :: r => if x.toNat / 64 = 2 then utf8Tail n r else none

/-- The string is valid UTF-8 (Table 0-5): shortest forms only, no surrogates, nothing above U+10FFFF. -/
def utf8Aux : Nat → Bytes → Bool
  | _, [] => true
  | 0, _ => false
  | f + 1, x :: r =>
    let v := x.toNat
    let second := match r with | [] => 0 | y :: _ => y.toNat
    if v < 0x80 then utf8Aux f r
    else if 0xC2 ≤ v ∧ v ≤ 0xDF then (utf8Tail 1 r).elim false (utf8Aux f)
    else if v = 0xE0 then decide (0xA0 ≤ second) && (utf8Tail 2 r).elim false (utf8Aux f)
    else if v = 0xED then decide (second ≤ 0x9F) && (utf8Tail 2 r).elim false (utf8Aux f)
    else if 0xE1 ≤ v ∧ v ≤ 0xEF then (utf8Tail 2 r).elim false (utf8Aux f)
    else if v = 0xF0 then decide (0x90 ≤ second) && (utf8Tail 3 r).elim false (utf8Aux f)
    else if v = 0xF4 then decide (second ≤ 0x8F) && (utf8Tail 3 r).elim false (utf8Aux f)
    else if 0xF1 ≤ v ∧ v ≤ 0xF3 then (utf8Tail 3 r).elim false (utf8Aux f)
    else false

def utf8Ok (b : Bytes) : Bool := utf8Aux b.length b

end Sys2Proof.Machine
end

