-- ==== Sys2Proof/Machine/Float.lean ====
section
/-! DEFINITION. Machine/Float.lean: the element formats of Table 3-1 and the arithmetic on them (R63 to R86). A code
is decoded into an exact number, the operation is exact on integers, and the result is rounded once. Exception flags
are a mask in the positions of the region sticky word (Table 21-4). -/

namespace Sys2Proof.Machine

/-! ### Flags -/

def fInvalid : Nat := 1
def fDivzero : Nat := 2
def fOverflow : Nat := 4
def fUnderflow : Nat := 8
def fInexact : Nat := 16
/-- CVT_OVERFLOW and CVT_NAN_SCALE. -/
def fCvtOverflow : Nat := 32
def fCvtNanScale : Nat := 64

/-! ### Numbers -/

/-- What a code stands for: a NaN with its 23-bit trailing significand (bit 22 marks a quiet one), an infinity, or
(−1)^neg × m × 2^e. -/
inductive Num where
  | nan (neg : Bool) (frac : Nat)
  | inf (neg : Bool)
  | fin (neg : Bool) (m : Nat) (e : Int)
deriving DecidableEq, Repr, Inhabited

/-- The canonical quiet NaN of R79. -/
def Num.qnan : Num := .nan false 0x400000

def Num.isNan : Num → Bool
  | .nan _ _ => true
  | _ => false

/-- A signalling NaN: its quiet bit is clear. -/
def Num.isSnan : Num → Bool
  | .nan _ f => !bit f 22
  | _ => false

def Num.isFinite : Num → Bool
  | .fin _ _ _ => true
  | _ => false

def Num.isZero : Num → Bool
  | .fin _ m _ => m == 0
  | _ => false

def Num.isNeg : Num → Bool
  | .nan n _ => n
  | .inf n => n
  | .fin n _ _ => n

/-- The quiet form of a NaN; other numbers as they are. -/
def Num.quiet : Num → Num
  | .nan n f => .nan n (f ||| 0x400000)
  | x => x

def Num.negate : Num → Num
  | .nan n f => .nan (!n) f
  | .inf n => .inf (!n)
  | .fin n m e => .fin (!n) m e

def Num.abs : Num → Num
  | .nan _ f => .nan false f
  | .inf _ => .inf false
  | .fin _ m e => .fin false m e

/-- The number times 2^k, exact. -/
def Num.scale (k : Int) : Num → Num
  | .fin n m e => .fin n m (e + k)
  | x => x

/-- Number of bits of `n`; floor(log2 n) + 1 for n above 0. -/
def bitLen (n : Nat) : Nat := if n = 0 then 0 else n.log2 + 1

/-- floor(log2 |x|) of a finite number that is not zero. -/
def Num.binade (m : Nat) (e : Int) : Int := e + bitLen m - 1

/-- m × 2^(e − q) as an integer, for q at most e. -/
def alignTo (m : Nat) (e q : Int) : Int := (m * 2 ^ (e - q).toNat : Nat)

/-- The signed integer of a finite number in units of 2^q, q at most its exponent. -/
def signedAt (neg : Bool) (m : Nat) (e q : Int) : Int := if neg then - alignTo m e q else alignTo m e q

/-- Exact sum of two finite numbers, as an integer in units of 2^q. -/
def exactAdd (na : Bool) (ma : Nat) (ea : Int) (nb : Bool) (mb : Nat) (eb : Int) : Int × Int :=
  let q := min ea eb
  (signedAt na ma ea q + signedAt nb mb eb q, q)

/-- Order of two numbers that are not NaN. -/
def Num.lt (a b : Num) : Bool :=
  match a, b with
  | .inf na, .inf nb => na && !nb
  | .inf na, .fin _ _ _ => na
  | .fin _ _ _, .inf nb => !nb
  | .fin na ma ea, .fin nb mb eb =>
    let q := min ea eb
    decide (signedAt na ma ea q < signedAt nb mb eb q)
  | _, _ => false

def Num.eqv (a b : Num) : Bool :=
  match a, b with
  | .inf na, .inf nb => na == nb
  | .fin na ma ea, .fin nb mb eb =>
    let q := min ea eb
    decide (signedAt na ma ea q = signedAt nb mb eb q)
  | _, _ => false

/-! ### Formats (Tables 3-1 and 3-2) -/

/-- Which codes a format keeps for infinity and NaN. -/
inductive Specials where
  /-- Infinity and NaN with payload at the all-ones exponent. -/
  | ieee
  /-- E5M2: infinity, and NaN without payload. -/
  | e5m2
  /-- E4M3: one NaN code, no infinity. -/
  | e4m3
  /-- Every code finite. -/
  | finite
deriving DecidableEq, Repr, Inhabited

structure Fmt where
  ebits : Nat
  tbits : Nat
  bias : Nat
  specials : Specials
deriving DecidableEq, Repr, Inhabited

def Fmt.f32 : Fmt := ⟨8, 23, 127, .ieee⟩
def Fmt.f16 : Fmt := ⟨5, 10, 15, .ieee⟩
def Fmt.bf16 : Fmt := ⟨8, 7, 127, .ieee⟩
def Fmt.f64 : Fmt := ⟨11, 52, 1023, .ieee⟩
def Fmt.e5m2 : Fmt := ⟨5, 2, 15, .e5m2⟩
def Fmt.e4m3 : Fmt := ⟨4, 3, 7, .e4m3⟩
def Fmt.e3m2 : Fmt := ⟨3, 2, 3, .finite⟩
def Fmt.e2m3 : Fmt := ⟨2, 3, 1, .finite⟩
def Fmt.e2m1 : Fmt := ⟨2, 1, 1, .finite⟩

def Fmt.width (f : Fmt) : Nat := 1 + f.ebits + f.tbits

/-- Magnitude code of the largest finite value. -/
def Fmt.maxMag (f : Fmt) : Nat :=
  match f.specials with
  | .ieee | .e5m2 => (2 ^ f.ebits - 1) * 2 ^ f.tbits - 1
  | .e4m3 => 2 ^ (f.ebits + f.tbits) - 2
  | .finite => 2 ^ (f.ebits + f.tbits) - 1

/-- Exponent of the quantum of the subnormals. -/
def Fmt.qmin (f : Fmt) : Int := 1 - (f.bias : Int) - f.tbits

/-- A magnitude code with its sign. -/
def Fmt.signed (f : Fmt) (neg : Bool) (mag : Nat) : Nat := if neg then 2 ^ (f.ebits + f.tbits) + mag else mag

def Fmt.infCode (f : Fmt) (neg : Bool) : Nat := f.signed neg ((2 ^ f.ebits - 1) * 2 ^ f.tbits)

def Fmt.maxCode (f : Fmt) (neg : Bool) : Nat := f.signed neg f.maxMag

/-- A NaN in the format (R75): the payload bits that fit, quiet; the generated code where there is no payload. -/
def Fmt.nanCode (f : Fmt) (neg : Bool) (frac : Nat) : Nat :=
  match f.specials with
  | .ieee =>
    let t := if f.tbits ≤ 23 then frac / 2 ^ (23 - f.tbits) else frac * 2 ^ (f.tbits - 23)
    f.signed neg ((2 ^ f.ebits - 1) * 2 ^ f.tbits + (t ||| 2 ^ (f.tbits - 1)))
  | _ => f.signed neg (2 ^ (f.ebits + f.tbits) - 1)

/-- The number a code stands for (R63, R64). A NaN of E5M2 or E4M3 decodes quiet, with no payload (R75). -/
def Fmt.decode (f : Fmt) (code : Nat) : Num :=
  let neg := bit code (f.ebits + f.tbits)
  let e := bits code (f.ebits + f.tbits - 1) f.tbits
  let t := code % 2 ^ f.tbits
  let top := e == 2 ^ f.ebits - 1
  let value : Num := if e = 0 then .fin neg t f.qmin else .fin neg (2 ^ f.tbits + t) (f.qmin + (e - 1 : Nat))
  match f.specials with
  | .ieee =>
    if top then
      if t = 0 then .inf neg
      else .nan neg (if f.tbits ≤ 23 then t * 2 ^ (23 - f.tbits) else t / 2 ^ (f.tbits - 23))
    else value
  | .e5m2 => if top then (if t = 0 then .inf neg else .nan neg 0x400000) else value
  | .e4m3 => if top && t == 7 then .nan neg 0x400000 else value
  | .finite => value

/-! ### Rounding (R83 to R86) -/

/-- The rounding attributes of Table 3-5; SR carries u, bits [63:32] of the generator's output (R86). -/
inductive Rnd where
  | rne | rtz | rup | rdn
  | sr (u : Nat)
deriving DecidableEq, Repr, Inhabited

/-- SR acts as RNE in upper-level arithmetic (R84). -/
def Rnd.upper : Rnd → Rnd
  | .sr _ => .rne
  | r => r

/-- Round up the magnitude? `q` is its integer part, `r` / 2^s the fraction. -/
def Rnd.up (rnd : Rnd) (neg : Bool) (q r s : Nat) : Bool :=
  match rnd with
  | .rne => decide (2 ^ s < 2 * r) || (decide (2 * r = 2 ^ s) && q % 2 == 1)
  | .rtz => false
  | .rup => !neg && r != 0
  | .rdn => neg && r != 0
  | .sr u => decide (2 ^ 32 ≤ r * 2 ^ 32 / 2 ^ s + u)

/-- m × 2^e rounded to a multiple of 2^q: the integer multiple, and whether it is inexact. -/
def roundAt (rnd : Rnd) (neg : Bool) (m : Nat) (e q : Int) : Nat × Bool :=
  if q ≤ e then (m * 2 ^ (e - q).toNat, false)
  else
    let s := (q - e).toNat
    let i := m / 2 ^ s
    let r := m % 2 ^ s
    (if rnd.up neg i r s then i + 1 else i, r != 0)

/-- A finite magnitude in a format: the magnitude code, exponent unbounded above, and whether it is inexact. The code
counts values from zero upward, so that it exceeds `Fmt.maxMag` exactly where the value overflows (R74). -/
def Fmt.roundMag (f : Fmt) (rnd : Rnd) (neg : Bool) (m : Nat) (e : Int) : Nat × Bool :=
  if m = 0 then (0, false) else
  let q := max f.qmin (Num.binade m e - f.tbits)
  let (i, x) := roundAt rnd neg m e q
  ((q - f.qmin).toNat * 2 ^ f.tbits + i, x)

/-- Tininess after rounding, exponent unbounded (R95). -/
def Fmt.tiny (f : Fmt) (rnd : Rnd) (neg : Bool) (m : Nat) (e : Int) : Bool :=
  if m = 0 then false else
  let q := Num.binade m e - f.tbits
  let (i, _) := roundAt rnd neg m e q
  decide (Num.binade i q < 1 - (f.bias : Int))

/-- IEEE 754-2019 overflow: infinity, or the largest finite value, as the direction requires. -/
def Rnd.overflowsToInf (rnd : Rnd) (neg : Bool) : Bool :=
  match rnd with
  | .rne | .sr _ => true
  | .rtz => false
  | .rup => !neg
  | .rdn => neg

/-- Upper-level delivery of an exact finite value in an IEEE format (R72): code and flags. -/
def Fmt.deliver (f : Fmt) (rnd : Rnd) (neg : Bool) (m : Nat) (e : Int) : Nat × Nat :=
  let rnd := rnd.upper
  let (mag, x) := f.roundMag rnd neg m e
  if f.maxMag < mag then
    (if rnd.overflowsToInf neg then f.infCode neg else f.maxCode neg, fOverflow + fInexact)
  else
    (f.signed neg mag, if x then fInexact + (if f.tiny rnd neg m e then fUnderflow else 0) else 0)

/-- Upper-level delivery of a number that is the exact result. -/
def Fmt.deliverNum (f : Fmt) (rnd : Rnd) : Num → Nat × Nat
  | .nan n fr => (f.nanCode n fr, 0)
  | .inf n => (f.infCode n, 0)
  | .fin n m e => f.deliver rnd n m e

/-! ### Upper-level operations (R72, R79 to R82) -/

/-- Invalid where an operand is a signalling NaN. -/
def snanFlag (l : List Num) : Nat := if l.any Num.isSnan then fInvalid else 0

/-- The NaN result of R79 for these operands, in order, if there is one. -/
def firstNan (f : Fmt) (l : List Num) : Option (Nat × Nat) :=
  match l.find? Num.isNan with
  | some (.nan n fr) => some (f.nanCode n (fr ||| 0x400000), snanFlag l)
  | _ => none

/-- An invalid operation: the canonical quiet NaN. -/
def invalidOp (f : Fmt) : Nat × Nat := (f.nanCode false 0x400000, fInvalid)

/-- Sign of an exact zero sum (R80). -/
def zeroSign (rnd : Rnd) (na nb : Bool) : Bool := if na == nb then na else rnd == .rdn

/-- Sum of two numbers that are not NaN, rounded once. -/
def Fmt.addNum (f : Fmt) (rnd : Rnd) (a b : Num) : Nat × Nat :=
  match a, b with
  | .inf na, .inf nb => if na == nb then (f.infCode na, 0) else invalidOp f
  | .inf na, _ => (f.infCode na, 0)
  | _, .inf nb => (f.infCode nb, 0)
  | .fin na ma ea, .fin nb mb eb =>
    let (v, q) := exactAdd na ma ea nb mb eb
    if v = 0 then
      let n := if ma = 0 ∧ mb = 0 then zeroSign rnd na nb else rnd == .rdn
      (f.signed n 0, 0)
    else f.deliver rnd (decide (v < 0)) v.natAbs q
  | _, _ => invalidOp f

/-- Product of two numbers that are not NaN, exact; `none` for ∞ × 0. -/
def mulNum (a b : Num) : Option Num :=
  match a, b with
  | .fin na ma ea, .fin nb mb eb => some (.fin (na != nb) (ma * mb) (ea + eb))
  | .inf na, x => if x.isZero then none else some (.inf (na != x.isNeg))
  | x, .inf nb => if x.isZero then none else some (.inf (x.isNeg != nb))
  | _, _ => none

def Fmt.add (f : Fmt) (rnd : Rnd) (a b : Nat) : Nat × Nat :=
  let x := f.decode a
  let y := f.decode b
  (firstNan f [x, y]).getD (f.addNum rnd.upper x y)

/-- a − b: the second operand's sign is reversed unless it is a NaN. -/
def Fmt.sub (f : Fmt) (rnd : Rnd) (a b : Nat) : Nat × Nat :=
  let x := f.decode a
  let y := f.decode b
  (firstNan f [x, y]).getD (f.addNum rnd.upper x y.negate)

def Fmt.mul (f : Fmt) (rnd : Rnd) (a b : Nat) : Nat × Nat :=
  let x := f.decode a
  let y := f.decode b
  (firstNan f [x, y]).getD <|
    match mulNum x y with
    | none => invalidOp f
    | some p => f.deliverNum rnd.upper p

/-- a × b + c with one rounding. IEEE 754-2019 leaves open whether ∞ × 0 + quiet NaN signals (7.2 c):
`Config.fmaSignals` says. -/
def Fmt.fma (f : Fmt) (rnd : Rnd) (a b c : Num) : Nat × Nat :=
  match firstNan f [a, b, c] with
  | some (r, fl) =>
    let z := !a.isNan && !b.isNan && (mulNum a b).isNone && Config.fmaSignals
    (r, if z then fl ||| fInvalid else fl)
  | none =>
    match mulNum a b with
    | none => invalidOp f
    | some p => f.addNum rnd.upper p c

/-- Integer square root with `n` result bits still to try. -/
def isqrtAux (v : Nat) : Nat → Nat → Nat
  | 0, r => r
  | n + 1, r => let t := r + 2 ^ n; isqrtAux v n (if t * t ≤ v then t else r)

def isqrt (v : Nat) : Nat := isqrtAux v ((bitLen v + 1) / 2) 0

/-- Fast DIV and SQRT are faithful (Table 3-8): where the result is inexact, one of its two neighbours, the choice a
fixed function of the operands that the spec does not give. `up` is that choice. -/
def faithful (fast up : Bool) (rnd : Rnd) (neg : Bool) : Rnd :=
  if fast then (if up then (if neg then .rdn else .rup) else .rtz) else rnd.upper

/-- Quotient of two finite numbers, the divisor not zero: enough bits for one rounding, the last one sticky. -/
def quotient (ma : Nat) (ea : Int) (mb : Nat) (eb : Int) : Nat × Int :=
  let s := 80 + bitLen mb
  let n := ma * 2 ^ s
  (n / mb * 2 + (if n % mb = 0 then 0 else 1), ea - eb - s - 1)

def Fmt.div (f : Fmt) (fast : Bool) (rnd : Rnd) (a b : Nat) : Nat × Nat :=
  let x := f.decode a
  let y := f.decode b
  (firstNan f [x, y]).getD <|
    let n := x.isNeg != y.isNeg
    match x, y with
    | .inf _, .inf _ => invalidOp f
    | .inf _, _ => (f.infCode n, 0)
    | _, .inf _ => (f.signed n 0, 0)
    | .fin _ ma ea, .fin _ mb eb =>
      if mb = 0 then (if ma = 0 then invalidOp f else (f.infCode n, fDivzero))
      else if ma = 0 then (f.signed n 0, 0)
      else
        let (m, e) := quotient ma ea mb eb
        f.deliver (faithful fast (Config.faithfulDiv f.tbits a b) rnd n) n m e
    | _, _ => invalidOp f

def Fmt.sqrt (f : Fmt) (fast : Bool) (rnd : Rnd) (a : Nat) : Nat × Nat :=
  let x := f.decode a
  (firstNan f [x]).getD <|
    match x with
    | .inf n => if n then invalidOp f else (f.infCode false, 0)
    | .fin n m e =>
      if m = 0 then (f.signed n 0, 0)
      else if n then invalidOp f
      else
        let s : Nat := 160 + (if e % 2 = 0 then 0 else 1)
        let v := m * 2 ^ s
        let r := isqrt v
        f.deliver (faithful fast (Config.faithfulSqrt f.tbits a) rnd false) false
          (r * 2 + (if r * r = v then 0 else 1)) ((e - s) / 2 - 1)
    | _ => invalidOp f

/-- maximum and minimum of IEEE 754-2019 (R82): −0 orders below +0. -/
def Fmt.maxMin (f : Fmt) (wantMax : Bool) (a b : Nat) : Nat × Nat :=
  let x := f.decode a
  let y := f.decode b
  (firstNan f [x, y]).getD <|
    let aLess := x.lt y || (x.eqv y && x.isNeg && !y.isNeg)
    (if aLess == wantMax then b else a, 0)

/-- The predicates of R81. -/
inductive Cmp where
  | eq | ne | lt | le | gt | ge
deriving DecidableEq, Repr, Inhabited

/-- Comparison of R81: the truth value and the invalid flag. -/
def Fmt.compare (f : Fmt) (p : Cmp) (a b : Nat) : Bool × Nat :=
  let x := f.decode a
  let y := f.decode b
  let nan := x.isNan || y.isNan
  match p with
  | .eq => (x.eqv y, snanFlag [x, y])
  | .ne => (!x.eqv y, snanFlag [x, y])
  | .lt => (x.lt y, if nan then fInvalid else 0)
  | .le => (x.lt y || x.eqv y, if nan then fInvalid else 0)
  | .gt => (y.lt x, if nan then fInvalid else 0)
  | .ge => (y.lt x || x.eqv y, if nan then fInvalid else 0)

/-! ### Lowest-level conversions (R71, R74 to R78) -/

/-- Conversion of a number into a narrow format; `prop` is OVF_MODE = PROPAGATE, `inBlock` an element of an MX block,
in which a finite value saturates in both modes (R77). The third part says that the block scale must become 0xFF. -/
def Fmt.narrow (f : Fmt) (prop inBlock : Bool) (rnd : Rnd) (x : Num) : Nat × Nat × Bool :=
  match x with
  | .nan n fr =>
    let fl := if x.isSnan then fInvalid else 0
    if f.specials = .finite then (0, fl, true) else (f.nanCode n fr, fl, false)
  | .inf n =>
    if !prop then (f.maxCode n, fCvtOverflow + fOverflow + fInexact, false)
    else match f.specials with
      | .finite => (0, 0, true)
      | .e4m3 => (f.nanCode n 0, 0, false)
      | _ => (f.infCode n, 0, false)
  | .fin n m e =>
    let (mag, inexact) := f.roundMag rnd n m e
    if f.maxMag < mag then
      let fl := fCvtOverflow + fOverflow + fInexact
      if !prop || inBlock || f.specials = .finite || !rnd.overflowsToInf n then (f.maxCode n, fl, false)
      else if f.specials = .e4m3 then (f.nanCode n 0, fl, false)
      else (f.infCode n, fl, false)
    else
      let fl := if inexact then fInexact + (if mag != 0 ∧ mag < 2 ^ f.tbits then fUnderflow else 0) else 0
      (f.signed n mag, fl, false)

/-- Conversion into an INT8 element (R65, R77): i × 2^−6, ±127 at most, +0 for zero. -/
def narrowInt8 (prop : Bool) (rnd : Rnd) (x : Num) : Nat × Nat × Bool :=
  match x with
  | .nan _ _ => (0, if x.isSnan then fInvalid else 0, true)
  | .inf n => if prop then (0, 0, true) else (if n then 0x81 else 0x7F, fCvtOverflow + fOverflow + fInexact, false)
  | .fin n m e =>
    let (i, inexact) := if m = 0 then (0, false) else roundAt rnd n m e (-6)
    if 127 < i then (if n then 0x81 else 0x7F, fCvtOverflow + fOverflow + fInexact, false)
    else (if n then (256 - i) % 256 else i, if inexact then fInexact else 0, false)

/-- The number an INT8 element stands for (R65). -/
def decodeInt8 (c : Nat) : Num :=
  let v := Machine.signed 8 c
  .fin (decide (v < 0)) v.natAbs (-6)

/-- Element formats of the tensor formats (Table 3-3). -/
inductive Elem where
  | fmt (f : Fmt)
  | int8
deriving DecidableEq, Repr, Inhabited

def Elem.width : Elem → Nat
  | .fmt f => f.width
  | .int8 => 8

def Elem.decode : Elem → Nat → Num
  | .fmt f, c => f.decode c
  | .int8, c => decodeInt8 c

def Elem.narrow (el : Elem) (prop inBlock : Bool) (rnd : Rnd) (x : Num) : Nat × Nat × Bool :=
  match el with
  | .fmt f => f.narrow prop inBlock rnd x
  | .int8 => narrowInt8 prop rnd x

/-- A tensor format of Table 3-3. -/
structure TFmt where
  elem : Elem
  /-- E8M0 scale per 32 elements. -/
  mx : Bool
  /-- One k per tensor (scaled binary16). -/
  scaled : Bool
  pair : Bool
deriving DecidableEq, Repr, Inhabited

/-- Table 3-3; `none` for a reserved code. -/
def TFmt.ofCode : Nat → Option TFmt
  | 0x0 => some ⟨.fmt .f32, false, false, false⟩
  | 0x1 => some ⟨.fmt .f16, false, false, false⟩
  | 0x2 => some ⟨.fmt .bf16, false, false, false⟩
  | 0x3 => some ⟨.fmt .f16, false, true, false⟩
  | 0x4 => some ⟨.fmt .e4m3, false, false, false⟩
  | 0x5 => some ⟨.fmt .e5m2, false, false, false⟩
  | 0x6 => some ⟨.fmt .e4m3, true, false, false⟩
  | 0x7 => some ⟨.fmt .e5m2, true, false, false⟩
  | 0x8 => some ⟨.fmt .e2m3, true, false, false⟩
  | 0x9 => some ⟨.fmt .e3m2, true, false, false⟩
  | 0xA => some ⟨.fmt .e2m1, true, false, false⟩
  | 0xB => some ⟨.int8, true, false, false⟩
  | 0xC => some ⟨.fmt .f32, false, false, true⟩
  | 0xD => some ⟨.fmt .f16, false, true, true⟩
  | _ => none

/-- emax of R77. -/
def Elem.emax : Elem → Int
  | .int8 => 0
  | .fmt f =>
    if f = Fmt.e4m3 then 8 else if f = Fmt.e5m2 then 15 else if f = Fmt.e3m2 then 4
    else if f = Fmt.e2m3 then 2 else if f = Fmt.e2m1 then 2 else 0

/-- floor(log2(amax)) over the finite values that are not zero; `none` where there is none. -/
def amaxBinade : List Num → Option Int
  | [] => none
  | .fin _ m e :: r =>
    if m = 0 then amaxBinade r
    else some (match amaxBinade r with
      | none => Num.binade m e
      | some b => max b (Num.binade m e))
  | _ :: r => amaxBinade r

/-- X of R77. -/
def blockX (el : Elem) (vs : List Num) : Int :=
  match amaxBinade vs with
  | none => -127
  | some b => max (-127) (min 127 (b - el.emax))

/-- Conversion of one block of values with their rounding (R77): scale code, element codes, flags. -/
def blockConvert (el : Elem) (prop : Bool) (vs : List (Num × Rnd)) : Nat × List Nat × Nat :=
  let x := blockX el (vs.map (·.1))
  let rs := vs.map fun v => el.narrow prop true v.2 (v.1.scale (-x))
  let fl := rs.foldl (fun a r => a ||| r.2.1) 0
  if rs.any (·.2.2) then (0xFF, rs.map fun _ => 0, fl ||| fCvtNanScale)
  else ((x + 127).toNat, rs.map (·.1), fl)

/-- Element of a block with scale code `s` (R66). -/
def mxDecode (el : Elem) (s c : Nat) : Num :=
  if s = 0xFF then Num.qnan else (el.decode c).scale ((s : Int) - 127)

/-! ### Pairs (R69, R97) -/

/-- The value of a pair: hi + lo, exact (R69). -/
def pairValue (hi lo : Num) : Num :=
  match hi, lo with
  | .nan _ _, _ => hi.quiet
  | _, .nan _ _ => lo.quiet
  | .inf a, .inf b => if a == b then .inf a else Num.qnan
  | .inf a, _ => .inf a
  | _, .inf b => .inf b
  | .fin na ma ea, .fin nb mb eb =>
    let (v, q) := exactAdd na ma ea nb mb eb
    if v = 0 then .fin (na && nb) 0 q else .fin (decide (v < 0)) v.natAbs q

/-- A pair as the module writes it, from an exact value: hi rounded to nearest, lo the rest rounded to nearest; lo is
+0 where hi is zero or non-finite (R69). -/
def Fmt.toPair (f : Fmt) (x : Num) : Nat × Nat :=
  let (h, _) := f.deliverNum .rne x
  match f.decode h, x with
  | .fin nh mh eh, .fin n m e =>
    if mh = 0 then (h, 0)
    else
      let (v, q) := exactAdd n m e (!nh) mh eh
      (h, if v = 0 then 0 else (f.deliver .rne (decide (v < 0)) v.natAbs q).1)
  | _, _ => (h, 0)

/-! ### The stochastic-rounding generator (R87, R88, R90) -/

def w32 (v : Nat) : Nat := v % 2 ^ 32

def rotl32 (v n : Nat) : Nat := w32 (v * 2 ^ n) ||| (v / 2 ^ (32 - n))

/-- One round of sr_gen on (x, y). -/
def srRound (p : Nat × Nat) (k c r : Nat) : Nat × Nat :=
  let x := w32 (p.1 + p.2 + k + c)
  (x, rotl32 p.2 r ^^^ x)

/-- sr_gen of R87 for a 128-bit key and a 64-bit counter. -/
def srGen (k0 k1 k2 k3 ctr : Nat) : Nat :=
  let p := (w32 ctr, w32 (ctr / 2 ^ 32))
  let p := srRound p k0 0x9e3779b9 12
  let p := srRound p k1 0x3c6ef372 20
  let p := srRound p k2 0xdaa66d2b 8
  let p := srRound p k3 0x78dde6e4 24
  p.2 * 2 ^ 32 + p.1

/-- u of R86 for element `n` of tensor `tid` under step key `key` (R88). -/
def srU (key tid n : Nat) : Nat :=
  srGen (w32 key) (w32 (key / 2 ^ 32)) (w32 tid) (w32 (tid / 2 ^ 32)) (n % 2 ^ 64) / 2 ^ 32

/-- The rounding attribute of a 3-bit code for element `n` of tensor `tid`; codes 5 to 7 do not reach here. -/
def rndOf (code key tid n : Nat) : Rnd :=
  match code with
  | 1 => .rtz
  | 2 => .rup
  | 3 => .rdn
  | 4 => .sr (srU key tid n)
  | _ => .rne

/-! ### binary32 helpers used by the board, the governor and the update unit -/

/-- binary32 of an exact integer ratio n / d × 2^0, rounded to nearest even. -/
def f32OfRatio (neg : Bool) (n d : Nat) : Nat :=
  if n = 0 then Fmt.f32.signed neg 0
  else
    let (m, e) := quotient n 0 d 0
    (Fmt.f32.deliver .rne neg m e).1

/-- binary32 nearest to a natural number. -/
def f32OfNat (n : Nat) : Nat := (Fmt.f32.deliver .rne false n 0).1

def F32.num (v : F32) : Num := Fmt.f32.decode v.toNat

/-- a < b as binary32 values; false where either is a NaN. -/
def f32Lt (a b : Nat) : Bool := (Fmt.f32.compare .lt a b).1

def f32Le (a b : Nat) : Bool := (Fmt.f32.compare .le a b).1

/-- Flags that a region of this arithmetic byte records (R95): all five when strict, the first three when fast. -/
def recorded (strict : Bool) (fl : Nat) : Nat := if strict then fl else fl &&& (0xFFFFFF - fUnderflow - fInexact)

end Sys2Proof.Machine
end

