-- ==== Sys2Proof/Machine/Objects.lean ====
section
/-! DEFINITION. Machine/Objects.lean: the object dictionary (R8 to R10, R440, Table 18-1 and the object tables of
every chapter): each object's number, type, access code, response class, default and range. A value with no stated
default reads 0 until its function writes it. -/

namespace Sys2Proof.Machine

/-- The types of Table 0-5, in the order of Table 17-4 but for STR and BLOB. -/
inductive ObjType where
  | u8 | u16 | u32 | u64 | i32 | i64 | f32 | bool | str | blob | time64 | domain
deriving DecidableEq, Repr, Inhabited

/-- The access codes of Table 0-6. -/
inductive Access where
  | ro | rw | wo | w1c | rwl
deriving DecidableEq, Repr, Inhabited

/-- The response classes of Scope and Conventions. -/
inductive RespClass where
  | a | b | c
deriving DecidableEq, Repr, Inhabited

/-- Range of the values an object takes. Floating-point bounds are binary32 patterns of numbers above 0, which rise
with the number. -/
inductive Range where
  | any
  | nat (lo hi : Nat)
  | natOr (hi or : Nat)
  | int (lo hi : Int)
  | one (vs : List Nat)
  /-- Only these bits are assigned; the others read 0 (R7). -/
  | mask (m : Nat)
  | f32 (lo hi : Nat)
  /-- Finite and above 0; finite and at least 0; at least 0 and below 1. -/
  | fpos | fnonneg | fbelowOne
deriving DecidableEq, Repr, Inhabited

/-- The owning function of a rwl object (R9). -/
inductive Owner where
  | none | stepSequencer | timeServo | brazeLinks | siteLinkControl | dictionaryServer | rounds | sillage | replay
  | region | dmaChannel | firmwareInstall
deriving DecidableEq, Repr, Inhabited

/-- One row of an object table; it stands for `span` indices in a row (Table 18-1). -/
structure ObjDef where
  name : String
  index : Nat
  span : Nat
  sub : Nat
  ty : ObjType
  access : Access
  cls : RespClass
  dflt : Nat
  range : Range
  owner : Owner
deriving DecidableEq, Repr, Inhabited

/-- Key of an object in the register file. -/
def objKey (index sub : Nat) : Nat := index * 256 + sub

/-! ### Keys by name -/

def Obj.vendorName : Nat := 0x1000 * 256 + 0x1
def Obj.productCode : Nat := 0x1000 * 256 + 0x2
def Obj.orderingCode : Nat := 0x1000 * 256 + 0x3
def Obj.boardBuild : Nat := 0x1000 * 256 + 0x4
def Obj.serialNumber : Nat := 0x1000 * 256 + 0x5
def Obj.dramInstalled : Nat := 0x1000 * 256 + 0x6
def Obj.inputVoltage : Nat := 0x2000 * 256 + 0x1
def Obj.inputCurrent : Nat := 0x2000 * 256 + 0x2
def Obj.inputPower : Nat := 0x2000 * 256 + 0x3
def Obj.powerLimit : Nat := 0x2000 * 256 + 0x4
def Obj.powerLimitActive : Nat := 0x2000 * 256 + 0x5
def Obj.coolantInletTemp : Nat := 0x2010 * 256 + 0x1
def Obj.coolantOutletTemp : Nat := 0x2010 * 256 + 0x2
def Obj.coolantFlow : Nat := 0x2010 * 256 + 0x3
def Obj.coolantDiffPressure : Nat := 0x2010 * 256 + 0x4
def Obj.powerWacor : Nat := 0x2020 * 256 + 0x1
def Obj.powerLinkDie : Nat := 0x2020 * 256 + 0x2
def Obj.powerLpddr6 : Nat := 0x2020 * 256 + 0x3
def Obj.powerCages : Nat := 0x2020 * 256 + 0x4
def Obj.powerOther : Nat := 0x2020 * 256 + 0x5
def Obj.traySlot : Nat := 0x2030 * 256 + 0x1
def Obj.locate : Nat := 0x2030 * 256 + 0x2
def Obj.cage0Present : Nat := 0x2040 * 256 + 0x1
def Obj.cage1Present : Nat := 0x2040 * 256 + 0x2
def Obj.cage0Power : Nat := 0x2040 * 256 + 0x3
def Obj.cage1Power : Nat := 0x2040 * 256 + 0x4
def Obj.hcWacor : Nat := 0x2050 * 256 + 0x1
def Obj.hcLinkDie : Nat := 0x2050 * 256 + 0x2
def Obj.hcWacorWorst : Nat := 0x2050 * 256 + 0x3
def Obj.hcLinkDieWorst : Nat := 0x2050 * 256 + 0x4
def Obj.vcoreWacor : Nat := 0x2060 * 256 + 0x1
def Obj.vcoreLink : Nat := 0x2060 * 256 + 0x2
def Obj.vcoreCeiling : Nat := 0x2060 * 256 + 0x3
def Obj.govState : Nat := 0x2060 * 256 + 0x4
def Obj.pacingDuty : Nat := 0x2060 * 256 + 0x5
def Obj.tjWacorMax : Nat := 0x2070 * 256 + 0x1
def Obj.tjLinkDieMax : Nat := 0x2070 * 256 + 0x2
def Obj.srRunSeed : Nat := 0x4820 * 256 + 0x1
def Obj.srStepKey : Nat := 0x4820 * 256 + 0x2
def Obj.srSelftestFailed : Nat := 0x4820 * 256 + 0x3
def Obj.tilesPhysical : Nat := 0x3040 * 256 + 0x1
def Obj.tilesLogical : Nat := 0x3040 * 256 + 0x2
def Obj.tilesSpareFree : Nat := 0x3040 * 256 + 0x3
def Obj.tilesFailed : Nat := 0x3040 * 256 + 0x4
def Obj.tileStateMap : Nat := 0x3040 * 256 + 0x5
def Obj.tileMemCorrected : Nat := 0x3041 * 256 + 0x1
def Obj.tileMemUncorrectable : Nat := 0x3041 * 256 + 0x2
def Obj.mxScaleRangeCount : Nat := 0x3041 * 256 + 0x3
def Obj.mxNanScaleCount : Nat := 0x3041 * 256 + 0x4
def Obj.mxFlushCount : Nat := 0x3041 * 256 + 0x5
def Obj.mxCmdInvalidCount : Nat := 0x3041 * 256 + 0x6
def Obj.vecEmptyCount : Nat := 0x3044 * 256 + 0x1
def Obj.vecInstrInvalidCount : Nat := 0x3044 * 256 + 0x2
def Obj.vecAddrFaultCount : Nat := 0x3044 * 256 + 0x3
def Obj.vecTableFaultCount : Nat := 0x3044 * 256 + 0x4
def Obj.vecIssued : Nat := 0x3044 * 256 + 0x5
def Obj.castingStage : Nat := 0x3000 * 256 + 0x1
def Obj.castingLoad : Nat := 0x3000 * 256 + 0x2
def Obj.castLastReason : Nat := 0x3000 * 256 + 0x3
def Obj.castLastOffset : Nat := 0x3000 * 256 + 0x4
def Obj.remapAuto : Nat := 0x3000 * 256 + 0x6
def Obj.castingUnload : Nat := 0x3000 * 256 + 0x7
def Obj.castingId (c : Nat) : Nat := (0x3010 + c) * 256 + 0x1
def Obj.castingState (c : Nat) : Nat := (0x3010 + c) * 256 + 0x2
def Obj.castingControl (c : Nat) : Nat := (0x3010 + c) * 256 + 0x3
def Obj.castingTiles (c : Nat) : Nat := (0x3010 + c) * 256 + 0x4
def Obj.tilesRetired : Nat := 0x3050 * 256 + 0x1
def Obj.tilesRetiredClear : Nat := 0x3050 * 256 + 0x2
def Obj.regionState (h : Nat) : Nat := (0x3100 + h) * 256 + 0x1
def Obj.regionImage (h : Nat) : Nat := (0x3100 + h) * 256 + 0x2
def Obj.regionControl (h : Nat) : Nat := (0x3100 + h) * 256 + 0x3
def Obj.regionArith (h : Nat) : Nat := (0x3100 + h) * 256 + 0x4
def Obj.stallInNs (h : Nat) : Nat := (0x3100 + h) * 256 + 0x5
def Obj.stallOutNs (h : Nat) : Nat := (0x3100 + h) * 256 + 0x6
def Obj.busyNs (h : Nat) : Nat := (0x3100 + h) * 256 + 0x7
def Obj.regionBinding (h : Nat) : Nat := (0x3100 + h) * 256 + 0x8
def Obj.recastCount (h : Nat) : Nat := (0x3100 + h) * 256 + 0x9
def Obj.memAllocatable : Nat := 0x4000 * 256 + 0x1
def Obj.memFree : Nat := 0x4000 * 256 + 0x2
def Obj.memRetireAuto : Nat := 0x4000 * 256 + 0x3
def Obj.memRetireCorrLimit : Nat := 0x4000 * 256 + 0x4
def Obj.memRetireRequest : Nat := 0x4000 * 256 + 0x5
def Obj.memRetireState : Nat := 0x4000 * 256 + 0x6
def Obj.memRetireProgress : Nat := 0x4000 * 256 + 0x7
def Obj.memScrubPeriod : Nat := 0x4000 * 256 + 0x8
def Obj.memRetiredClear : Nat := 0x4000 * 256 + 0x9
def Obj.memCmpDropped : Nat := 0x4000 * 256 + 0xa
def Obj.memCmpBadMap : Nat := 0x4000 * 256 + 0xb
def Obj.groupAllocatable (g : Nat) : Nat := (0x4020 + g) * 256 + 0x1
def Obj.groupFree (g : Nat) : Nat := (0x4020 + g) * 256 + 0x2
def Obj.groupRetired (g : Nat) : Nat := (0x4020 + g) * 256 + 0x3
def Obj.groupPortBytes (g : Nat) : Nat := (0x4020 + g) * 256 + 0x4
def Obj.groupMemBytes (g : Nat) : Nat := (0x4020 + g) * 256 + 0x5
def Obj.subchState (q : Nat) : Nat := (0x4100 + q) * 256 + 0x1
def Obj.subchCorrected (q : Nat) : Nat := (0x4100 + q) * 256 + 0x2
def Obj.subchUncorrectable (q : Nat) : Nat := (0x4100 + q) * 256 + 0x3
def Obj.subchPoisonReads (q : Nat) : Nat := (0x4100 + q) * 256 + 0x4
def Obj.subchTemp (q : Nat) : Nat := (0x4100 + q) * 256 + 0x5
def Obj.subchRefreshDiv (q : Nat) : Nat := (0x4100 + q) * 256 + 0x6
def Obj.stepState : Nat := 0x4800 * 256 + 0x1
def Obj.stepNumber : Nat := 0x4800 * 256 + 0x2
def Obj.stepCommitted : Nat := 0x4800 * 256 + 0x3
def Obj.stepsSkipped : Nat := 0x4800 * 256 + 0x4
def Obj.skipsConsecutive : Nat := 0x4800 * 256 + 0x5
def Obj.assayLast : Nat := 0x4800 * 256 + 0x6
def Obj.assayLocalLast : Nat := 0x4800 * 256 + 0x7
def Obj.stepControl : Nat := 0x4800 * 256 + 0x8
def Obj.globalNormLast : Nat := 0x4800 * 256 + 0x9
def Obj.warmSteps : Nat := 0x4801 * 256 + 0x1
def Obj.absurdThreshold : Nat := 0x4801 * 256 + 0x2
def Obj.skipLimit : Nat := 0x4801 * 256 + 0x3
def Obj.scaleOvfStep : Nat := 0x4801 * 256 + 0x4
def Obj.scaleGrowInterval : Nat := 0x4801 * 256 + 0x5
def Obj.patinaWindow : Nat := 0x4801 * 256 + 0x6
def Obj.formPin : Nat := 0x4801 * 256 + 0x7
def Obj.patinaCommitted : Nat := 0x4802 * 256 + 0x1
def Obj.patinaTable : Nat := 0x4802 * 256 + 0x2
def Obj.patinaEmpty : Nat := 0x4802 * 256 + 0x3
def Obj.stepTimeNs : Nat := 0x4803 * 256 + 0x1
def Obj.slotsTimeNs : Nat := 0x4803 * 256 + 0x2
def Obj.reduceTimeNs : Nat := 0x4803 * 256 + 0x3
def Obj.decideTimeNs : Nat := 0x4803 * 256 + 0x4
def Obj.updateTimeNs : Nat := 0x4803 * 256 + 0x5
def Obj.scaleTable : Nat := 0x4804 * 256 + 0x1
def Obj.updatesApplied : Nat := 0x4810 * 256 + 0x1
def Obj.shardVersionRound : Nat := 0x4810 * 256 + 0x2
def Obj.shardVersionStep : Nat := 0x4810 * 256 + 0x3
def Obj.lrLast : Nat := 0x4810 * 256 + 0x4
def Obj.clipFactorLast : Nat := 0x4810 * 256 + 0x5
def Obj.updNonfiniteCount : Nat := 0x4810 * 256 + 0x6
def Obj.clipNorm : Nat := 0x4811 * 256 + 0x1
def Obj.holdWaitLimit : Nat := 0x4811 * 256 + 0x2
def Obj.slowTierTimeout : Nat := 0x4811 * 256 + 0x3
def Obj.updateTable : Nat := 0x4812 * 256 + 0x1
def Obj.lrSchedule : Nat := 0x4812 * 256 + 0x2
def Obj.updLastReason : Nat := 0x4812 * 256 + 0x3
def Obj.shardCount : Nat := 0x4813 * 256 + 0x1
def Obj.shardsParked : Nat := 0x4813 * 256 + 0x2
def Obj.holdsOutstanding : Nat := 0x4813 * 256 + 0x3
def Obj.holdsRevoked : Nat := 0x4813 * 256 + 0x4
def Obj.versionGoneCount : Nat := 0x4813 * 256 + 0x5
def Obj.journalReplays : Nat := 0x4814 * 256 + 0x1
def Obj.ckptKeySlot : Nat := 0x4815 * 256 + 0x1
def Obj.ckptRequest : Nat := 0x4815 * 256 + 0x2
def Obj.ckptExport : Nat := 0x4815 * 256 + 0x3
def Obj.ckptImport : Nat := 0x4815 * 256 + 0x4
def Obj.ckptState : Nat := 0x4815 * 256 + 0x5
def Obj.ckptBytes : Nat := 0x4815 * 256 + 0x6
def Obj.timeNow : Nat := 0x2400 * 256 + 0x1
def Obj.timeMono : Nat := 0x2400 * 256 + 0x2
def Obj.timeValid : Nat := 0x2400 * 256 + 0x3
def Obj.timeQuality : Nat := 0x2400 * 256 + 0x4
def Obj.timeSource : Nat := 0x2400 * 256 + 0x5
def Obj.timeRefSelect : Nat := 0x2400 * 256 + 0x6
def Obj.timeSet : Nat := 0x2400 * 256 + 0x7
def Obj.timeOffset : Nat := 0x2400 * 256 + 0x8
def Obj.timeHoldoverLimit : Nat := 0x2400 * 256 + 0x9
def Obj.ptpDomain : Nat := 0x2401 * 256 + 0x1
def Obj.ptpPriority1 : Nat := 0x2401 * 256 + 0x2
def Obj.ptpPriority2 : Nat := 0x2401 * 256 + 0x3
def Obj.ptpSyncLogInterval : Nat := 0x2401 * 256 + 0x4
def Obj.ptpPortEnable : Nat := 0x2401 * 256 + 0x5
def Obj.ptpGmCapable : Nat := 0x2401 * 256 + 0x6
def Obj.ptpPortState : Nat := 0x2401 * 256 + 0x7
def Obj.ptpGmIdentity : Nat := 0x2401 * 256 + 0x8
def Obj.ptpStepsRemoved : Nat := 0x2401 * 256 + 0x9
def Obj.slSeqNext : Nat := 0x7800 * 256 + 0x1
def Obj.slSeqOldest : Nat := 0x7800 * 256 + 0x2
def Obj.slReadFrom : Nat := 0x7800 * 256 + 0x3
def Obj.slRead : Nat := 0x7800 * 256 + 0x4
def Obj.slSpillEnable : Nat := 0x7800 * 256 + 0x5
def Obj.slRecordsLost : Nat := 0x7800 * 256 + 0x6
def Obj.slFpPoints : Nat := 0x7800 * 256 + 0x7
def Obj.slFpWatch : Nat := 0x7800 * 256 + 0x8
def Obj.replaySource : Nat := 0x7801 * 256 + 0x1
def Obj.replayControl : Nat := 0x7801 * 256 + 0x2
def Obj.replayState : Nat := 0x7801 * 256 + 0x3
def Obj.replayFirstDiverged : Nat := 0x7801 * 256 + 0x4
def Obj.replayTolerances : Nat := 0x7801 * 256 + 0x5
def Obj.replayWait : Nat := 0x7801 * 256 + 0x6
def Obj.replayLastReason : Nat := 0x7801 * 256 + 0x7
def Obj.siteMap : Nat := 0x4830 * 256 + 0x1
def Obj.siteMapState : Nat := 0x4830 * 256 + 0x2
def Obj.mapLastReason : Nat := 0x4830 * 256 + 0x3
def Obj.mapLastOffset : Nat := 0x4830 * 256 + 0x4
def Obj.gatherWaitLimit : Nat := 0x4831 * 256 + 0x1
def Obj.offloadTimeout : Nat := 0x4831 * 256 + 0x2
def Obj.gatherLedger : Nat := 0x4832 * 256 + 0x1
def Obj.gatherRetries : Nat := 0x4832 * 256 + 0x2
def Obj.gatherBytes : Nat := 0x4832 * 256 + 0x3
def Obj.xpDropped : Nat := 0x4832 * 256 + 0x4
def Obj.offloadBytes : Nat := 0x4832 * 256 + 0x5
def Obj.bzSiteId : Nat := 0x5000 * 256 + 0x1
def Obj.bzModuleNumber : Nat := 0x5000 * 256 + 0x2
def Obj.bzSiteModules : Nat := 0x5000 * 256 + 0x3
def Obj.bzEthertype : Nat := 0x5000 * 256 + 0x4
def Obj.bzState : Nat := 0x5000 * 256 + 0x5
def Obj.bzRetryTimeout : Nat := 0x5001 * 256 + 0x1
def Obj.bzRetryLimit : Nat := 0x5001 * 256 + 0x2
def Obj.bzDeadlineBase : Nat := 0x5001 * 256 + 0x3
def Obj.bzDeadlineRate : Nat := 0x5001 * 256 + 0x4
def Obj.bzAssayDeadline : Nat := 0x5001 * 256 + 0x5
def Obj.bzRetries : Nat := 0x5002 * 256 + 0x1
def Obj.bzDuplicates : Nat := 0x5002 * 256 + 0x2
def Obj.bzDeadlinesExpired : Nat := 0x5002 * 256 + 0x3
def Obj.bzRedOverflow : Nat := 0x5002 * 256 + 0x4
def Obj.bzPeersLost : Nat := 0x5002 * 256 + 0x5
def Obj.bzPortState (p : Nat) : Nat := (0x5010 + p) * 256 + 0x1
def Obj.bzPortEnable (p : Nat) : Nat := (0x5010 + p) * 256 + 0x2
def Obj.bzPortFecCorrected (p : Nat) : Nat := (0x5010 + p) * 256 + 0x3
def Obj.bzPortFecUncorrectable (p : Nat) : Nat := (0x5010 + p) * 256 + 0x4
def Obj.bzPortDiscards (p : Nat) : Nat := (0x5010 + p) * 256 + 0x5
def Obj.bzPortBytesTx (p : Nat) : Nat := (0x5010 + p) * 256 + 0x6
def Obj.bzPortBytesRx (p : Nat) : Nat := (0x5010 + p) * 256 + 0x7
def Obj.rndState : Nat := 0x5800 * 256 + 0x1
def Obj.rndRoundClosed : Nat := 0x5800 * 256 + 0x2
def Obj.rndRoundMerged : Nat := 0x5800 * 256 + 0x3
def Obj.rndStepsInRound : Nat := 0x5800 * 256 + 0x4
def Obj.rndControl : Nat := 0x5800 * 256 + 0x5
def Obj.rndEnable : Nat := 0x5801 * 256 + 0x1
def Obj.rndGroupId : Nat := 0x5801 * 256 + 0x2
def Obj.rndSiteIndex : Nat := 0x5801 * 256 + 0x3
def Obj.rndSites : Nat := 0x5801 * 256 + 0x4
def Obj.roundSteps : Nat := 0x5801 * 256 + 0x5
def Obj.rndWindow : Nat := 0x5801 * 256 + 0x6
def Obj.staleBound : Nat := 0x5801 * 256 + 0x7
def Obj.staleFactor : Nat := 0x5801 * 256 + 0x8
def Obj.outerLr : Nat := 0x5801 * 256 + 0x9
def Obj.outerMomentum : Nat := 0x5801 * 256 + 0xa
def Obj.deltaFormat : Nat := 0x5801 * 256 + 0xb
def Obj.deltaRate : Nat := 0x5801 * 256 + 0xc
def Obj.deltaRound : Nat := 0x5801 * 256 + 0xd
def Obj.errorFeedback : Nat := 0x5801 * 256 + 0xe
def Obj.rndIngotAuto : Nat := 0x5801 * 256 + 0xf
def Obj.rndHistory : Nat := 0x5801 * 256 + 0x10
def Obj.roundTable : Nat := 0x5810 * 256 + 0x1
def Obj.rndLastReason : Nat := 0x5810 * 256 + 0x2
def Obj.accordHistory : Nat := 0x5811 * 256 + 0x1
def Obj.accordLast : Nat := 0x5811 * 256 + 0x2
def Obj.rndContribMerged : Nat := 0x5812 * 256 + 0x1
def Obj.rndContribStale : Nat := 0x5812 * 256 + 0x2
def Obj.rndContribMissing : Nat := 0x5812 * 256 + 0x3
def Obj.rndContribRejected : Nat := 0x5812 * 256 + 0x4
def Obj.rndContribDiscarded : Nat := 0x5812 * 256 + 0x5
def Obj.rndDeltaDropped : Nat := 0x5812 * 256 + 0x6
def Obj.rndVotesRepeated : Nat := 0x5812 * 256 + 0x7
def Obj.rndPartnerState : Nat := 0x5813 * 256 + 0x1
def Obj.rndPartnerMerged : Nat := 0x5813 * 256 + 0x2
def Obj.ingotDonor : Nat := 0x5814 * 256 + 0x1
def Obj.ingotState : Nat := 0x5814 * 256 + 0x2
def Obj.ingotBytes : Nat := 0x5814 * 256 + 0x3
def Obj.ingotReceived : Nat := 0x5814 * 256 + 0x4
def Obj.slkState : Nat := 0x6000 * 256 + 0x1
def Obj.slkDomain : Nat := 0x6000 * 256 + 0x2
def Obj.slkEthertype : Nat := 0x6000 * 256 + 0x3
def Obj.slkMasterSlot : Nat := 0x6000 * 256 + 0x4
def Obj.slkStartCount : Nat := 0x6000 * 256 + 0x5
def Obj.slkRekeyPackets : Nat := 0x6001 * 256 + 0x1
def Obj.slkRekeyInterval : Nat := 0x6001 * 256 + 0x2
def Obj.slkGrace : Nat := 0x6001 * 256 + 0x3
def Obj.slkFecGroupTime : Nat := 0x6001 * 256 + 0x4
def Obj.slkFecHold : Nat := 0x6001 * 256 + 0x5
def Obj.slkResendMin : Nat := 0x6001 * 256 + 0x6
def Obj.slkProbeTimeout : Nat := 0x6001 * 256 + 0x7
def Obj.slkRoundParity : Nat := 0x6001 * 256 + 0x8
def Obj.slkRekey : Nat := 0x6002 * 256 + 0x1
def Obj.slkRestart : Nat := 0x6002 * 256 + 0x2
def Obj.slkFlowTable : Nat := 0x6003 * 256 + 0x1
def Obj.slkFlowState : Nat := 0x6003 * 256 + 0x2
def Obj.slkResends : Nat := 0x6004 * 256 + 0x1
def Obj.slkDuplicates : Nat := 0x6004 * 256 + 0x2
def Obj.slkFecRecovered : Nat := 0x6004 * 256 + 0x3
def Obj.slkFecLost : Nat := 0x6004 * 256 + 0x4
def Obj.slkAuthFailed : Nat := 0x6004 * 256 + 0x5
def Obj.slkEpochLate : Nat := 0x6004 * 256 + 0x6
def Obj.slkWindowDiscards : Nat := 0x6004 * 256 + 0x7
def Obj.slkTxCipherWaitNs : Nat := 0x6004 * 256 + 0x8
def Obj.slkPortState (p : Nat) : Nat := (0x6010 + p) * 256 + 0x1
def Obj.slkPortEnable (p : Nat) : Nat := (0x6010 + p) * 256 + 0x2
def Obj.slkPortFecCorrected (p : Nat) : Nat := (0x6010 + p) * 256 + 0x3
def Obj.slkPortFecUncorrectable (p : Nat) : Nat := (0x6010 + p) * 256 + 0x4
def Obj.slkPortBytesTx (p : Nat) : Nat := (0x6010 + p) * 256 + 0x5
def Obj.slkPortBytesRx (p : Nat) : Nat := (0x6010 + p) * 256 + 0x6
def Obj.slkPartnerEpochTx (j : Nat) : Nat := (0x6020 + j) * 256 + 0x1
def Obj.slkPartnerEpochRx (j : Nat) : Nat := (0x6020 + j) * 256 + 0x2
def Obj.slkPartnerRttNs (j : Nat) : Nat := (0x6020 + j) * 256 + 0x3
def Obj.cipherKeyLoad : Nat := 0x6800 * 256 + 0x1
def Obj.cipherKeyErase : Nat := 0x6800 * 256 + 0x2
def Obj.cipherKeyState : Nat := 0x6800 * 256 + 0x3
def Obj.cipherKeyLastReason : Nat := 0x6800 * 256 + 0x4
def Obj.cipherUnits : Nat := 0x6801 * 256 + 0x1
def Obj.cipherQueueDepth : Nat := 0x6801 * 256 + 0x2
def Obj.cipherRequests : Nat := 0x6802 * 256 + 0x1
def Obj.cipherBytes : Nat := 0x6802 * 256 + 0x2
def Obj.cipherAuthFailed : Nat := 0x6802 * 256 + 0x3
def Obj.cipherErrors : Nat := 0x6802 * 256 + 0x4
def Obj.dmaChannels : Nat := 0x7000 * 256 + 0x1
def Obj.dmaPrivileged : Nat := 0x7000 * 256 + 0x2
def Obj.dmaFree : Nat := 0x7000 * 256 + 0x3
def Obj.dmaErrors : Nat := 0x7000 * 256 + 0x4
def Obj.dmaTriggersLost : Nat := 0x7000 * 256 + 0x5
def Obj.dmaTransposeBytes : Nat := 0x7000 * 256 + 0x6
def Obj.dmaState (c : Nat) : Nat := (0x7100 + c) * 256 + 0x1
def Obj.dmaEnable (c : Nat) : Nat := (0x7100 + c) * 256 + 0x2
def Obj.dmaDescriptors (c : Nat) : Nat := (0x7100 + c) * 256 + 0x3
def Obj.dmaStartDesc (c : Nat) : Nat := (0x7100 + c) * 256 + 0x4
def Obj.dmaBytesDone (c : Nat) : Nat := (0x7100 + c) * 256 + 0x5
def Obj.dmaCompletions (c : Nat) : Nat := (0x7100 + c) * 256 + 0x6
def Obj.dmaLastStatus (c : Nat) : Nat := (0x7100 + c) * 256 + 0x7
def Obj.dmaOwner (c : Nat) : Nat := (0x7100 + c) * 256 + 0x8
def Obj.dmaHoldNs (c : Nat) : Nat := (0x7100 + c) * 256 + 0x9
def Obj.mgmtMac : Nat := 0x1010 * 256 + 0x1
def Obj.mgmtIpv6 : Nat := 0x1010 * 256 + 0x2
def Obj.mgmtIpv4 : Nat := 0x1010 * 256 + 0x3
def Obj.mgmtFec : Nat := 0x1010 * 256 + 0x4
def Obj.mgmtLinkUp : Nat := 0x1010 * 256 + 0x5
def Obj.dapUdpPort : Nat := 0x1010 * 256 + 0x6
def Obj.domainIdleLimit : Nat := 0x1010 * 256 + 0x7
def Obj.dapRequests : Nat := 0x1011 * 256 + 0x1
def Obj.dapRepeats : Nat := 0x1011 * 256 + 0x2
def Obj.dapDiscards : Nat := 0x1011 * 256 + 0x3
def Obj.dapAuthFailed : Nat := 0x1011 * 256 + 0x4
def Obj.dapStale : Nat := 0x1011 * 256 + 0x5
def Obj.dapBusy : Nat := 0x1011 * 256 + 0x6
def Obj.dapInProcess : Nat := 0x1011 * 256 + 0x7
def Obj.dapTransfersOpen : Nat := 0x1011 * 256 + 0x8
def Obj.reqLevel (n : Nat) : Nat := (0x1020 + n) * 256 + 0x1
def Obj.reqEventAddr (n : Nat) : Nat := (0x1020 + n) * 256 + 0x2
def Obj.reqEventMask (n : Nat) : Nat := (0x1020 + n) * 256 + 0x3
def Obj.reqXidHigh (n : Nat) : Nat := (0x1020 + n) * 256 + 0x4
def Obj.reqEventsPending (n : Nat) : Nat := (0x1020 + n) * 256 + 0x5
def Obj.reqEventsLost (n : Nat) : Nat := (0x1020 + n) * 256 + 0x6
def Obj.resetLastKind : Nat := 0x2080 * 256 + 0x1
def Obj.resetRequest : Nat := 0x2080 * 256 + 0x2
def Obj.startCount : Nat := 0x2080 * 256 + 0x3
def Obj.faultLog : Nat := 0x8000 * 256 + 0x1
def Obj.faultSeqNext : Nat := 0x8000 * 256 + 0x2
def Obj.faultSeqOldest : Nat := 0x8000 * 256 + 0x3
def Obj.faultReadFrom : Nat := 0x8000 * 256 + 0x4
def Obj.faultLost : Nat := 0x8000 * 256 + 0x5
def Obj.stickySummary : Nat := 0x8000 * 256 + 0x6
def Obj.stickyFamily (f : Nat) : Nat := (0x8010 + f) * 256 + 0x1
def Obj.stickyLastSet (f : Nat) : Nat := (0x8010 + f) * 256 + 0x2
def Obj.regionSticky (h : Nat) : Nat := (0x8100 + h) * 256 + 0x1
def Obj.serviceOp : Nat := 0x8200 * 256 + 0x1
def Obj.serviceArg : Nat := 0x8200 * 256 + 0x2
def Obj.serviceState : Nat := 0x8200 * 256 + 0x3
def Obj.fwActiveSlot : Nat := 0x9000 * 256 + 0x1
def Obj.fwVersionActive : Nat := 0x9000 * 256 + 0x2
def Obj.fwVersionInactive : Nat := 0x9000 * 256 + 0x3
def Obj.fwInactiveState : Nat := 0x9000 * 256 + 0x4
def Obj.fwRollbackMin : Nat := 0x9000 * 256 + 0x5
def Obj.fwInstall : Nat := 0x9010 * 256 + 0x1
def Obj.fwActivate : Nat := 0x9010 * 256 + 0x2
def Obj.fwLastReason : Nat := 0x9010 * 256 + 0x3
def Obj.deviceId : Nat := 0x9020 * 256 + 0x1
def Obj.devicePubkey : Nat := 0x9020 * 256 + 0x2
def Obj.pufState : Nat := 0x9020 * 256 + 0x3
def Obj.pufEnrol : Nat := 0x9020 * 256 + 0x4
def Obj.measurements : Nat := 0x9030 * 256 + 0x1
def Obj.hallmarkNonce : Nat := 0x9030 * 256 + 0x2
def Obj.hallmarkQuote : Nat := 0x9030 * 256 + 0x3
def Obj.configRecords : Nat := 0x9040 * 256 + 0x1
def Obj.configVersion : Nat := 0x9040 * 256 + 0x2
def Obj.peersEnrolled : Nat := 0x9050 * 256 + 0x1
def Obj.peerEnrol : Nat := 0x9050 * 256 + 0x2
def Obj.peersRefused : Nat := 0x9050 * 256 + 0x3

/-! ### The tables -/

/-- Objects 0x1000 to 0x1020. -/
def Obj.table0 : List ObjDef := [
  ⟨"VENDOR_NAME", 0x1000, 1, 1, .str, .ro, .a, 0, .any, .none⟩,
  ⟨"PRODUCT_CODE", 0x1000, 1, 2, .str, .ro, .a, 0, .any, .none⟩,
  ⟨"ORDERING_CODE", 0x1000, 1, 3, .str, .ro, .a, 0, .any, .none⟩,
  ⟨"BOARD_BUILD", 0x1000, 1, 4, .str, .ro, .a, 0, .any, .none⟩,
  ⟨"SERIAL_NUMBER", 0x1000, 1, 5, .str, .ro, .a, 0, .any, .none⟩,
  ⟨"DRAM_INSTALLED", 0x1000, 1, 6, .u64, .ro, .a, 1728000000000, .any, .none⟩,
  ⟨"MGMT_MAC", 0x1010, 1, 1, .blob, .ro, .a, 0, .any, .none⟩,
  ⟨"MGMT_IPV6", 0x1010, 1, 2, .blob, .ro, .a, 0, .any, .none⟩,
  ⟨"MGMT_IPV4", 0x1010, 1, 3, .blob, .ro, .a, 0, .any, .none⟩,
  ⟨"MGMT_FEC", 0x1010, 1, 4, .u8, .rwl, .a, 2, .nat 0 2, .dictionaryServer⟩,
  ⟨"MGMT_LINK_UP", 0x1010, 1, 5, .bool, .ro, .b, 0, .nat 0 1, .none⟩,
  ⟨"DAP_UDP_PORT", 0x1010, 1, 6, .u16, .ro, .a, 4872, .any, .none⟩,
  ⟨"DOMAIN_IDLE_LIMIT", 0x1010, 1, 7, .u32, .rwl, .a, 10000, .nat 100 600000, .dictionaryServer⟩,
  ⟨"DAP_REQUESTS", 0x1011, 1, 1, .u64, .ro, .b, 0, .any, .none⟩,
  ⟨"DAP_REPEATS", 0x1011, 1, 2, .u64, .ro, .b, 0, .any, .none⟩,
  ⟨"DAP_DISCARDS", 0x1011, 1, 3, .u64, .ro, .b, 0, .any, .none⟩,
  ⟨"DAP_AUTH_FAILED", 0x1011, 1, 4, .u64, .ro, .b, 0, .any, .none⟩,
  ⟨"DAP_STALE", 0x1011, 1, 5, .u64, .ro, .b, 0, .any, .none⟩,
  ⟨"DAP_BUSY", 0x1011, 1, 6, .u64, .ro, .b, 0, .any, .none⟩,
  ⟨"DAP_IN_PROCESS", 0x1011, 1, 7, .u8, .ro, .b, 0, .any, .none⟩,
  ⟨"DAP_TRANSFERS_OPEN", 0x1011, 1, 8, .u8, .ro, .b, 0, .any, .none⟩,
  ⟨"REQ_LEVEL", 0x1020, 17, 1, .u8, .ro, .a, 0, .any, .none⟩,
  ⟨"REQ_EVENT_ADDR", 0x1020, 17, 2, .blob, .ro, .a, 0, .any, .none⟩,
  ⟨"REQ_EVENT_MASK", 0x1020, 17, 3, .u32, .rw, .a, 1, .mask 0x3F, .none⟩]

/-- Objects 0x1020 to 0x2050. -/
def Obj.table1 : List ObjDef := [
  ⟨"REQ_XID_HIGH", 0x1020, 17, 4, .u32, .ro, .b, 0, .any, .none⟩,
  ⟨"REQ_EVENTS_PENDING", 0x1020, 17, 5, .u16, .ro, .b, 0, .any, .none⟩,
  ⟨"REQ_EVENTS_LOST", 0x1020, 17, 6, .u32, .ro, .b, 0, .any, .none⟩,
  ⟨"INPUT_VOLTAGE", 0x2000, 1, 1, .f32, .ro, .b, 0, .any, .none⟩,
  ⟨"INPUT_CURRENT", 0x2000, 1, 2, .f32, .ro, .b, 0, .any, .none⟩,
  ⟨"INPUT_POWER", 0x2000, 1, 3, .f32, .ro, .b, 0, .any, .none⟩,
  ⟨"POWER_LIMIT", 0x2000, 1, 4, .f32, .rw, .a, 1152729088, .f32 0x44160000 0x44B54000, .none⟩,
  ⟨"POWER_LIMIT_ACTIVE", 0x2000, 1, 5, .f32, .ro, .b, 0, .any, .none⟩,
  ⟨"COOLANT_INLET_TEMP", 0x2010, 1, 1, .f32, .ro, .b, 0, .any, .none⟩,
  ⟨"COOLANT_OUTLET_TEMP", 0x2010, 1, 2, .f32, .ro, .b, 0, .any, .none⟩,
  ⟨"COOLANT_FLOW", 0x2010, 1, 3, .f32, .ro, .b, 0, .any, .none⟩,
  ⟨"COOLANT_DIFF_PRESSURE", 0x2010, 1, 4, .f32, .ro, .b, 0, .any, .none⟩,
  ⟨"POWER_WACOR", 0x2020, 1, 1, .f32, .ro, .b, 0, .any, .none⟩,
  ⟨"POWER_LINK_DIE", 0x2020, 1, 2, .f32, .ro, .b, 0, .any, .none⟩,
  ⟨"POWER_LPDDR6", 0x2020, 1, 3, .f32, .ro, .b, 0, .any, .none⟩,
  ⟨"POWER_CAGES", 0x2020, 1, 4, .f32, .ro, .b, 0, .any, .none⟩,
  ⟨"POWER_OTHER", 0x2020, 1, 5, .f32, .ro, .b, 0, .any, .none⟩,
  ⟨"TRAY_SLOT", 0x2030, 1, 1, .u8, .ro, .a, 0, .any, .none⟩,
  ⟨"LOCATE", 0x2030, 1, 2, .bool, .rw, .a, 0, .nat 0 1, .none⟩,
  ⟨"CAGE0_PRESENT", 0x2040, 1, 1, .bool, .ro, .b, 0, .nat 0 1, .none⟩,
  ⟨"CAGE1_PRESENT", 0x2040, 1, 2, .bool, .ro, .b, 0, .nat 0 1, .none⟩,
  ⟨"CAGE0_POWER", 0x2040, 1, 3, .f32, .ro, .b, 0, .any, .none⟩,
  ⟨"CAGE1_POWER", 0x2040, 1, 4, .f32, .ro, .b, 0, .any, .none⟩,
  ⟨"HC_WACOR", 0x2050, 1, 1, .f32, .ro, .b, 0, .any, .none⟩]

/-- Objects 0x2050 to 0x2401. -/
def Obj.table2 : List ObjDef := [
  ⟨"HC_LINK_DIE", 0x2050, 1, 2, .f32, .ro, .b, 0, .any, .none⟩,
  ⟨"HC_WACOR_WORST", 0x2050, 1, 3, .f32, .ro, .b, 0, .any, .none⟩,
  ⟨"HC_LINK_DIE_WORST", 0x2050, 1, 4, .f32, .ro, .b, 0, .any, .none⟩,
  ⟨"VCORE_WACOR", 0x2060, 1, 1, .f32, .ro, .b, 0, .any, .none⟩,
  ⟨"VCORE_LINK", 0x2060, 1, 2, .f32, .ro, .b, 0, .any, .none⟩,
  ⟨"VCORE_CEILING", 0x2060, 1, 3, .f32, .rw, .a, 1061158912, .f32 0x3F2E147B 0x3F400000, .none⟩,
  ⟨"GOV_STATE", 0x2060, 1, 4, .u8, .ro, .b, 0, .any, .none⟩,
  ⟨"PACING_DUTY", 0x2060, 1, 5, .u8, .ro, .b, 0, .any, .none⟩,
  ⟨"TJ_WACOR_MAX", 0x2070, 1, 1, .f32, .ro, .b, 0, .any, .none⟩,
  ⟨"TJ_LINK_DIE_MAX", 0x2070, 1, 2, .f32, .ro, .b, 0, .any, .none⟩,
  ⟨"RESET_LAST_KIND", 0x2080, 1, 1, .u8, .ro, .a, 0, .any, .none⟩,
  ⟨"RESET_REQUEST", 0x2080, 1, 2, .u8, .wo, .c, 0, .any, .none⟩,
  ⟨"START_COUNT", 0x2080, 1, 3, .u64, .ro, .a, 0, .any, .none⟩,
  ⟨"TIME_NOW", 0x2400, 1, 1, .time64, .ro, .a, 0, .any, .none⟩,
  ⟨"TIME_MONO", 0x2400, 1, 2, .u64, .ro, .a, 0, .any, .none⟩,
  ⟨"TIME_VALID", 0x2400, 1, 3, .bool, .ro, .b, 0, .nat 0 1, .none⟩,
  ⟨"TIME_QUALITY", 0x2400, 1, 4, .u8, .ro, .b, 0, .any, .none⟩,
  ⟨"TIME_SOURCE", 0x2400, 1, 5, .u8, .ro, .b, 0, .any, .none⟩,
  ⟨"TIME_REF_SELECT", 0x2400, 1, 6, .u8, .rw, .a, 0, .nat 0 3, .none⟩,
  ⟨"TIME_SET", 0x2400, 1, 7, .time64, .wo, .c, 0, .any, .none⟩,
  ⟨"TIME_OFFSET", 0x2400, 1, 8, .i64, .ro, .b, 0, .any, .none⟩,
  ⟨"TIME_HOLDOVER_LIMIT", 0x2400, 1, 9, .u32, .rw, .a, 14400, .nat 60 86400, .none⟩,
  ⟨"PTP_DOMAIN", 0x2401, 1, 1, .u8, .rwl, .a, 0, .nat 0 127, .timeServo⟩,
  ⟨"PTP_PRIORITY1", 0x2401, 1, 2, .u8, .rwl, .a, 128, .any, .timeServo⟩]

/-- Objects 0x2401 to 0x3041. -/
def Obj.table3 : List ObjDef := [
  ⟨"PTP_PRIORITY2", 0x2401, 1, 3, .u8, .rwl, .a, 128, .any, .timeServo⟩,
  ⟨"PTP_SYNC_LOG_INTERVAL", 0x2401, 1, 4, .i32, .rwl, .a, 4294967292, .int (-7) 0, .timeServo⟩,
  ⟨"PTP_PORT_ENABLE", 0x2401, 1, 5, .u16, .rwl, .a, 511, .mask 0x01FF, .timeServo⟩,
  ⟨"PTP_GM_CAPABLE", 0x2401, 1, 6, .bool, .rwl, .a, 1, .nat 0 1, .timeServo⟩,
  ⟨"PTP_PORT_STATE", 0x2401, 1, 7, .blob, .ro, .b, 0, .any, .none⟩,
  ⟨"PTP_GM_IDENTITY", 0x2401, 1, 8, .blob, .ro, .b, 0, .any, .none⟩,
  ⟨"PTP_STEPS_REMOVED", 0x2401, 1, 9, .u16, .ro, .b, 0, .any, .none⟩,
  ⟨"CASTING_STAGE", 0x3000, 1, 1, .domain, .wo, .a, 0, .any, .none⟩,
  ⟨"CASTING_LOAD", 0x3000, 1, 2, .u8, .wo, .c, 0, .nat 0 3, .none⟩,
  ⟨"CAST_LAST_REASON", 0x3000, 1, 3, .u8, .ro, .b, 0, .any, .none⟩,
  ⟨"CAST_LAST_OFFSET", 0x3000, 1, 4, .u64, .ro, .b, 0, .any, .none⟩,
  ⟨"REMAP_AUTO", 0x3000, 1, 6, .bool, .rw, .a, 1, .nat 0 1, .none⟩,
  ⟨"CASTING_UNLOAD", 0x3000, 1, 7, .u8, .wo, .c, 0, .nat 0 3, .none⟩,
  ⟨"CASTING_ID", 0x3010, 4, 1, .u64, .ro, .b, 0, .any, .none⟩,
  ⟨"CASTING_STATE", 0x3010, 4, 2, .u8, .ro, .b, 0, .any, .none⟩,
  ⟨"CASTING_CONTROL", 0x3010, 4, 3, .u8, .wo, .c, 0, .nat 1 2, .none⟩,
  ⟨"CASTING_TILES", 0x3010, 4, 4, .blob, .ro, .b, 0, .any, .none⟩,
  ⟨"TILES_PHYSICAL", 0x3040, 1, 1, .u16, .ro, .a, 544, .any, .none⟩,
  ⟨"TILES_LOGICAL", 0x3040, 1, 2, .u16, .ro, .a, 512, .any, .none⟩,
  ⟨"TILES_SPARE_FREE", 0x3040, 1, 3, .u16, .ro, .b, 0, .any, .none⟩,
  ⟨"TILES_FAILED", 0x3040, 1, 4, .u16, .ro, .b, 0, .any, .none⟩,
  ⟨"TILE_STATE_MAP", 0x3040, 1, 5, .domain, .ro, .b, 0, .any, .none⟩,
  ⟨"TILE_MEM_CORRECTED", 0x3041, 1, 1, .u64, .ro, .b, 0, .any, .none⟩,
  ⟨"TILE_MEM_UNCORRECTABLE", 0x3041, 1, 2, .u32, .ro, .b, 0, .any, .none⟩]

/-- Objects 0x3041 to 0x4000. -/
def Obj.table4 : List ObjDef := [
  ⟨"MX_SCALE_RANGE_COUNT", 0x3041, 1, 3, .u64, .ro, .b, 0, .any, .none⟩,
  ⟨"MX_NAN_SCALE_COUNT", 0x3041, 1, 4, .u64, .ro, .b, 0, .any, .none⟩,
  ⟨"MX_FLUSH_COUNT", 0x3041, 1, 5, .u64, .ro, .b, 0, .any, .none⟩,
  ⟨"MX_CMD_INVALID_COUNT", 0x3041, 1, 6, .u32, .ro, .b, 0, .any, .none⟩,
  ⟨"VEC_EMPTY_COUNT", 0x3044, 1, 1, .u64, .ro, .b, 0, .any, .none⟩,
  ⟨"VEC_INSTR_INVALID_COUNT", 0x3044, 1, 2, .u32, .ro, .b, 0, .any, .none⟩,
  ⟨"VEC_ADDR_FAULT_COUNT", 0x3044, 1, 3, .u32, .ro, .b, 0, .any, .none⟩,
  ⟨"VEC_TABLE_FAULT_COUNT", 0x3044, 1, 4, .u32, .ro, .b, 0, .any, .none⟩,
  ⟨"VEC_ISSUED", 0x3044, 1, 5, .u64, .ro, .b, 0, .any, .none⟩,
  ⟨"TILES_RETIRED", 0x3050, 1, 1, .blob, .ro, .b, 0, .any, .none⟩,
  ⟨"TILES_RETIRED_CLEAR", 0x3050, 1, 2, .bool, .wo, .a, 0, .nat 0 1, .none⟩,
  ⟨"REGION_STATE", 0x3100, 256, 1, .u8, .ro, .b, 0, .any, .none⟩,
  ⟨"REGION_IMAGE", 0x3100, 256, 2, .domain, .rwl, .c, 0, .any, .region⟩,
  ⟨"REGION_CONTROL", 0x3100, 256, 3, .u8, .rw, .c, 1, .nat 1 2, .none⟩,
  ⟨"REGION_ARITH", 0x3100, 256, 4, .u8, .ro, .b, 0, .any, .none⟩,
  ⟨"STALL_IN_NS", 0x3100, 256, 5, .u64, .ro, .b, 0, .any, .none⟩,
  ⟨"STALL_OUT_NS", 0x3100, 256, 6, .u64, .ro, .b, 0, .any, .none⟩,
  ⟨"BUSY_NS", 0x3100, 256, 7, .u64, .ro, .b, 0, .any, .none⟩,
  ⟨"REGION_BINDING", 0x3100, 256, 8, .blob, .ro, .b, 0, .any, .none⟩,
  ⟨"RECAST_COUNT", 0x3100, 256, 9, .u32, .ro, .b, 0, .any, .none⟩,
  ⟨"MEM_ALLOCATABLE", 0x4000, 1, 1, .u64, .ro, .b, 1676460392448, .any, .none⟩,
  ⟨"MEM_FREE", 0x4000, 1, 2, .u64, .ro, .b, 0, .any, .none⟩,
  ⟨"MEM_RETIRE_AUTO", 0x4000, 1, 3, .bool, .rw, .a, 1, .nat 0 1, .none⟩,
  ⟨"MEM_RETIRE_CORR_LIMIT", 0x4000, 1, 4, .u32, .rw, .a, 1024, .nat 16 1048576, .none⟩]

/-- Objects 0x4000 to 0x4800. -/
def Obj.table5 : List ObjDef := [
  ⟨"MEM_RETIRE_REQUEST", 0x4000, 1, 5, .u8, .wo, .c, 0, .nat 0 191, .none⟩,
  ⟨"MEM_RETIRE_STATE", 0x4000, 1, 6, .u8, .ro, .b, 0, .any, .none⟩,
  ⟨"MEM_RETIRE_PROGRESS", 0x4000, 1, 7, .u32, .ro, .b, 0, .any, .none⟩,
  ⟨"MEM_SCRUB_PERIOD", 0x4000, 1, 8, .u32, .rw, .a, 3600, .nat 600 86400, .none⟩,
  ⟨"MEM_RETIRED_CLEAR", 0x4000, 1, 9, .bool, .wo, .a, 0, .nat 0 1, .none⟩,
  ⟨"MEM_CMP_DROPPED", 0x4000, 1, 10, .u64, .ro, .b, 0, .any, .none⟩,
  ⟨"MEM_CMP_BAD_MAP", 0x4000, 1, 11, .u32, .ro, .b, 0, .any, .none⟩,
  ⟨"GROUP_ALLOCATABLE", 0x4020, 24, 1, .u64, .ro, .b, 69852516352, .any, .none⟩,
  ⟨"GROUP_FREE", 0x4020, 24, 2, .u64, .ro, .b, 0, .any, .none⟩,
  ⟨"GROUP_RETIRED", 0x4020, 24, 3, .u8, .ro, .b, 255, .any, .none⟩,
  ⟨"GROUP_PORT_BYTES", 0x4020, 24, 4, .u64, .ro, .b, 0, .any, .none⟩,
  ⟨"GROUP_MEM_BYTES", 0x4020, 24, 5, .u64, .ro, .b, 0, .any, .none⟩,
  ⟨"SUBCH_STATE", 0x4100, 192, 1, .u8, .ro, .b, 0, .any, .none⟩,
  ⟨"SUBCH_CORRECTED", 0x4100, 192, 2, .u64, .ro, .b, 0, .any, .none⟩,
  ⟨"SUBCH_UNCORRECTABLE", 0x4100, 192, 3, .u32, .ro, .b, 0, .any, .none⟩,
  ⟨"SUBCH_POISON_READS", 0x4100, 192, 4, .u32, .ro, .b, 0, .any, .none⟩,
  ⟨"SUBCH_TEMP", 0x4100, 192, 5, .f32, .ro, .b, 0, .any, .none⟩,
  ⟨"SUBCH_REFRESH_DIV", 0x4100, 192, 6, .u8, .ro, .b, 1, .any, .none⟩,
  ⟨"STEP_STATE", 0x4800, 1, 1, .u8, .ro, .b, 0, .any, .none⟩,
  ⟨"STEP_NUMBER", 0x4800, 1, 2, .u32, .ro, .b, 0, .any, .none⟩,
  ⟨"STEP_COMMITTED", 0x4800, 1, 3, .u32, .ro, .b, 0, .any, .none⟩,
  ⟨"STEPS_SKIPPED", 0x4800, 1, 4, .u64, .ro, .b, 0, .any, .none⟩,
  ⟨"SKIPS_CONSECUTIVE", 0x4800, 1, 5, .u16, .ro, .b, 0, .any, .none⟩,
  ⟨"ASSAY_LAST", 0x4800, 1, 6, .u32, .ro, .b, 0, .any, .none⟩]

/-- Objects 0x4800 to 0x4810. -/
def Obj.table6 : List ObjDef := [
  ⟨"ASSAY_LOCAL_LAST", 0x4800, 1, 7, .u32, .ro, .b, 0, .any, .none⟩,
  ⟨"STEP_CONTROL", 0x4800, 1, 8, .u8, .wo, .c, 0, .nat 1 2, .none⟩,
  ⟨"GLOBAL_NORM_LAST", 0x4800, 1, 9, .f32, .ro, .b, 0, .any, .none⟩,
  ⟨"WARM_STEPS", 0x4801, 1, 1, .u16, .rwl, .a, 8, .nat 1 256, .stepSequencer⟩,
  ⟨"ABSURD_THRESHOLD", 0x4801, 1, 2, .f32, .rwl, .a, 1904214016, .fpos, .stepSequencer⟩,
  ⟨"SKIP_LIMIT", 0x4801, 1, 3, .u16, .rwl, .a, 16, .nat 1 65535, .stepSequencer⟩,
  ⟨"SCALE_OVF_STEP", 0x4801, 1, 4, .u8, .rwl, .a, 2, .nat 1 8, .stepSequencer⟩,
  ⟨"SCALE_GROW_INTERVAL", 0x4801, 1, 5, .u32, .rwl, .a, 1000, .nat 1 1000000, .stepSequencer⟩,
  ⟨"PATINA_WINDOW", 0x4801, 1, 6, .u16, .rwl, .a, 32, .nat 8 256, .stepSequencer⟩,
  ⟨"FORM_PIN", 0x4801, 1, 7, .u8, .rwl, .a, 255, .one [0, 1, 2, 3, 255], .stepSequencer⟩,
  ⟨"PATINA_COMMITTED", 0x4802, 1, 1, .u32, .ro, .b, 0, .any, .none⟩,
  ⟨"PATINA_TABLE", 0x4802, 1, 2, .domain, .ro, .b, 0, .any, .none⟩,
  ⟨"PATINA_EMPTY", 0x4802, 1, 3, .bool, .wo, .c, 0, .nat 0 1, .none⟩,
  ⟨"STEP_TIME_NS", 0x4803, 1, 1, .u64, .ro, .b, 0, .any, .none⟩,
  ⟨"SLOTS_TIME_NS", 0x4803, 1, 2, .u64, .ro, .b, 0, .any, .none⟩,
  ⟨"REDUCE_TIME_NS", 0x4803, 1, 3, .u64, .ro, .b, 0, .any, .none⟩,
  ⟨"DECIDE_TIME_NS", 0x4803, 1, 4, .u64, .ro, .b, 0, .any, .none⟩,
  ⟨"UPDATE_TIME_NS", 0x4803, 1, 5, .u64, .ro, .b, 0, .any, .none⟩,
  ⟨"SCALE_TABLE", 0x4804, 1, 1, .domain, .ro, .b, 0, .any, .none⟩,
  ⟨"UPDATES_APPLIED", 0x4810, 1, 1, .u64, .ro, .b, 0, .any, .none⟩,
  ⟨"SHARD_VERSION_ROUND", 0x4810, 1, 2, .u32, .ro, .b, 0, .any, .none⟩,
  ⟨"SHARD_VERSION_STEP", 0x4810, 1, 3, .u32, .ro, .b, 0, .any, .none⟩,
  ⟨"LR_LAST", 0x4810, 1, 4, .f32, .ro, .b, 0, .any, .none⟩,
  ⟨"CLIP_FACTOR_LAST", 0x4810, 1, 5, .f32, .ro, .b, 1065353216, .any, .none⟩]

/-- Objects 0x4810 to 0x4830. -/
def Obj.table7 : List ObjDef := [
  ⟨"UPD_NONFINITE_COUNT", 0x4810, 1, 6, .u64, .ro, .b, 0, .any, .none⟩,
  ⟨"CLIP_NORM", 0x4811, 1, 1, .f32, .rwl, .a, 1065353216, .fnonneg, .stepSequencer⟩,
  ⟨"HOLD_WAIT_LIMIT", 0x4811, 1, 2, .u32, .rwl, .a, 10000, .nat 100 10000000, .stepSequencer⟩,
  ⟨"SLOW_TIER_TIMEOUT", 0x4811, 1, 3, .u32, .rwl, .a, 50000, .nat 1000 10000000, .stepSequencer⟩,
  ⟨"UPDATE_TABLE", 0x4812, 1, 1, .domain, .rwl, .a, 0, .any, .stepSequencer⟩,
  ⟨"LR_SCHEDULE", 0x4812, 1, 2, .blob, .rwl, .a, 0, .any, .stepSequencer⟩,
  ⟨"UPD_LAST_REASON", 0x4812, 1, 3, .u8, .ro, .b, 0, .any, .none⟩,
  ⟨"SHARD_COUNT", 0x4813, 1, 1, .u32, .ro, .b, 0, .any, .none⟩,
  ⟨"SHARDS_PARKED", 0x4813, 1, 2, .u32, .ro, .b, 0, .any, .none⟩,
  ⟨"HOLDS_OUTSTANDING", 0x4813, 1, 3, .u32, .ro, .b, 0, .any, .none⟩,
  ⟨"HOLDS_REVOKED", 0x4813, 1, 4, .u32, .ro, .b, 0, .any, .none⟩,
  ⟨"VERSION_GONE_COUNT", 0x4813, 1, 5, .u32, .ro, .b, 0, .any, .none⟩,
  ⟨"JOURNAL_REPLAYS", 0x4814, 1, 1, .u32, .ro, .b, 0, .any, .none⟩,
  ⟨"CKPT_KEY_SLOT", 0x4815, 1, 1, .u16, .rwl, .a, 0, .nat 0 4095, .stepSequencer⟩,
  ⟨"CKPT_REQUEST", 0x4815, 1, 2, .u8, .wo, .c, 0, .nat 1 2, .none⟩,
  ⟨"CKPT_EXPORT", 0x4815, 1, 3, .domain, .ro, .b, 0, .any, .none⟩,
  ⟨"CKPT_IMPORT", 0x4815, 1, 4, .domain, .rwl, .c, 0, .any, .stepSequencer⟩,
  ⟨"CKPT_STATE", 0x4815, 1, 5, .u8, .ro, .b, 0, .any, .none⟩,
  ⟨"CKPT_BYTES", 0x4815, 1, 6, .u64, .ro, .b, 0, .any, .none⟩,
  ⟨"SR_RUN_SEED", 0x4820, 1, 1, .u64, .rwl, .a, 0, .any, .stepSequencer⟩,
  ⟨"SR_STEP_KEY", 0x4820, 1, 2, .u64, .ro, .a, 0, .any, .none⟩,
  ⟨"SR_SELFTEST_FAILED", 0x4820, 1, 3, .u16, .ro, .a, 0, .any, .none⟩,
  ⟨"SITE_MAP", 0x4830, 1, 1, .domain, .rwl, .a, 0, .any, .stepSequencer⟩,
  ⟨"SITE_MAP_STATE", 0x4830, 1, 2, .u8, .ro, .b, 0, .any, .none⟩]

/-- Objects 0x4830 to 0x5002. -/
def Obj.table8 : List ObjDef := [
  ⟨"MAP_LAST_REASON", 0x4830, 1, 3, .u8, .ro, .b, 0, .any, .none⟩,
  ⟨"MAP_LAST_OFFSET", 0x4830, 1, 4, .u64, .ro, .b, 0, .any, .none⟩,
  ⟨"GATHER_WAIT_LIMIT", 0x4831, 1, 1, .u32, .rwl, .a, 2000, .nat 100 1000000, .stepSequencer⟩,
  ⟨"OFFLOAD_TIMEOUT", 0x4831, 1, 2, .u32, .rwl, .a, 2000, .nat 100 1000000, .stepSequencer⟩,
  ⟨"GATHER_LEDGER", 0x4832, 1, 1, .domain, .ro, .b, 0, .any, .none⟩,
  ⟨"GATHER_RETRIES", 0x4832, 1, 2, .u64, .ro, .b, 0, .any, .none⟩,
  ⟨"GATHER_BYTES", 0x4832, 1, 3, .u64, .ro, .b, 0, .any, .none⟩,
  ⟨"XP_DROPPED", 0x4832, 1, 4, .u64, .ro, .b, 0, .any, .none⟩,
  ⟨"OFFLOAD_BYTES", 0x4832, 1, 5, .u64, .ro, .b, 0, .any, .none⟩,
  ⟨"BZ_SITE_ID", 0x5000, 1, 1, .u16, .rwl, .a, 0, .any, .brazeLinks⟩,
  ⟨"BZ_MODULE_NUMBER", 0x5000, 1, 2, .u16, .rwl, .a, 65535, .natOr 4095 0xFFFF, .brazeLinks⟩,
  ⟨"BZ_SITE_MODULES", 0x5000, 1, 3, .u16, .rwl, .a, 1, .nat 1 4096, .brazeLinks⟩,
  ⟨"BZ_ETHERTYPE", 0x5000, 1, 4, .u16, .rwl, .a, 34997, .any, .brazeLinks⟩,
  ⟨"BZ_STATE", 0x5000, 1, 5, .u8, .ro, .b, 0, .any, .none⟩,
  ⟨"BZ_RETRY_TIMEOUT", 0x5001, 1, 1, .u32, .rwl, .a, 20, .nat 5 1000, .brazeLinks⟩,
  ⟨"BZ_RETRY_LIMIT", 0x5001, 1, 2, .u8, .rwl, .a, 8, .nat 1 32, .brazeLinks⟩,
  ⟨"BZ_DEADLINE_BASE", 0x5001, 1, 3, .u32, .rwl, .a, 2000, .nat 100 1000000, .brazeLinks⟩,
  ⟨"BZ_DEADLINE_RATE", 0x5001, 1, 4, .f32, .rwl, .a, 1120403456, .f32 0x3F800000 0x44480000, .brazeLinks⟩,
  ⟨"BZ_ASSAY_DEADLINE", 0x5001, 1, 5, .u32, .rwl, .a, 1000, .nat 10 1000000, .brazeLinks⟩,
  ⟨"BZ_RETRIES", 0x5002, 1, 1, .u64, .ro, .b, 0, .any, .none⟩,
  ⟨"BZ_DUPLICATES", 0x5002, 1, 2, .u64, .ro, .b, 0, .any, .none⟩,
  ⟨"BZ_DEADLINES_EXPIRED", 0x5002, 1, 3, .u32, .ro, .b, 0, .any, .none⟩,
  ⟨"BZ_RED_OVERFLOW", 0x5002, 1, 4, .u64, .ro, .b, 0, .any, .none⟩,
  ⟨"BZ_PEERS_LOST", 0x5002, 1, 5, .u16, .ro, .b, 0, .any, .none⟩]

/-- Objects 0x5010 to 0x5801. -/
def Obj.table9 : List ObjDef := [
  ⟨"BZ_PORT_STATE", 0x5010, 8, 1, .u8, .ro, .b, 0, .any, .none⟩,
  ⟨"BZ_PORT_ENABLE", 0x5010, 8, 2, .bool, .rw, .a, 1, .nat 0 1, .none⟩,
  ⟨"BZ_PORT_FEC_CORRECTED", 0x5010, 8, 3, .u64, .ro, .b, 0, .any, .none⟩,
  ⟨"BZ_PORT_FEC_UNCORRECTABLE", 0x5010, 8, 4, .u64, .ro, .b, 0, .any, .none⟩,
  ⟨"BZ_PORT_DISCARDS", 0x5010, 8, 5, .u64, .ro, .b, 0, .any, .none⟩,
  ⟨"BZ_PORT_BYTES_TX", 0x5010, 8, 6, .u64, .ro, .b, 0, .any, .none⟩,
  ⟨"BZ_PORT_BYTES_RX", 0x5010, 8, 7, .u64, .ro, .b, 0, .any, .none⟩,
  ⟨"RND_STATE", 0x5800, 1, 1, .u8, .ro, .b, 0, .any, .none⟩,
  ⟨"RND_ROUND_CLOSED", 0x5800, 1, 2, .u32, .ro, .b, 0, .any, .none⟩,
  ⟨"RND_ROUND_MERGED", 0x5800, 1, 3, .u32, .ro, .b, 0, .any, .none⟩,
  ⟨"RND_STEPS_IN_ROUND", 0x5800, 1, 4, .u32, .ro, .b, 0, .any, .none⟩,
  ⟨"RND_CONTROL", 0x5800, 1, 5, .u8, .wo, .c, 0, .nat 1 2, .none⟩,
  ⟨"RND_ENABLE", 0x5801, 1, 1, .bool, .rwl, .a, 0, .nat 0 1, .rounds⟩,
  ⟨"RND_GROUP_ID", 0x5801, 1, 2, .u64, .rwl, .a, 0, .any, .rounds⟩,
  ⟨"RND_SITE_INDEX", 0x5801, 1, 3, .u8, .rwl, .a, 0, .nat 0 63, .rounds⟩,
  ⟨"RND_SITES", 0x5801, 1, 4, .u64, .rwl, .a, 1, .any, .rounds⟩,
  ⟨"ROUND_STEPS", 0x5801, 1, 5, .u32, .rwl, .a, 500, .nat 1 1000000, .rounds⟩,
  ⟨"RND_WINDOW", 0x5801, 1, 6, .u32, .rwl, .a, 60000, .nat 1000 3600000, .rounds⟩,
  ⟨"STALE_BOUND", 0x5801, 1, 7, .u8, .rwl, .a, 4, .nat 0 16, .rounds⟩,
  ⟨"STALE_FACTOR", 0x5801, 1, 8, .f32, .rwl, .a, 1056964608, .f32 1 0x3F800000, .rounds⟩,
  ⟨"OUTER_LR", 0x5801, 1, 9, .f32, .rwl, .a, 1061158912, .fpos, .rounds⟩,
  ⟨"OUTER_MOMENTUM", 0x5801, 1, 10, .f32, .rwl, .a, 1063256064, .fbelowOne, .rounds⟩,
  ⟨"DELTA_FORMAT", 0x5801, 1, 11, .u8, .rwl, .a, 10, .one [0, 1, 2, 4, 5, 6, 7, 8, 9, 10, 11], .rounds⟩,
  ⟨"DELTA_RATE", 0x5801, 1, 12, .u8, .rwl, .a, 2, .nat 0 3, .rounds⟩]

/-- Objects 0x5801 to 0x6000. -/
def Obj.table10 : List ObjDef := [
  ⟨"DELTA_ROUND", 0x5801, 1, 13, .u8, .rwl, .a, 0, .one [0, 4], .rounds⟩,
  ⟨"ERROR_FEEDBACK", 0x5801, 1, 14, .bool, .rwl, .a, 1, .nat 0 1, .rounds⟩,
  ⟨"RND_INGOT_AUTO", 0x5801, 1, 15, .bool, .rwl, .a, 1, .nat 0 1, .rounds⟩,
  ⟨"RND_HISTORY", 0x5801, 1, 16, .u16, .rwl, .a, 64, .nat 1 1024, .rounds⟩,
  ⟨"ROUND_TABLE", 0x5810, 1, 1, .domain, .rwl, .c, 0, .any, .rounds⟩,
  ⟨"RND_LAST_REASON", 0x5810, 1, 2, .u8, .ro, .b, 0, .any, .none⟩,
  ⟨"ACCORD_HISTORY", 0x5811, 1, 1, .domain, .ro, .b, 0, .any, .none⟩,
  ⟨"ACCORD_LAST", 0x5811, 1, 2, .domain, .ro, .b, 0, .any, .none⟩,
  ⟨"RND_CONTRIB_MERGED", 0x5812, 1, 1, .u64, .ro, .b, 0, .any, .none⟩,
  ⟨"RND_CONTRIB_STALE", 0x5812, 1, 2, .u64, .ro, .b, 0, .any, .none⟩,
  ⟨"RND_CONTRIB_MISSING", 0x5812, 1, 3, .u64, .ro, .b, 0, .any, .none⟩,
  ⟨"RND_CONTRIB_REJECTED", 0x5812, 1, 4, .u32, .ro, .b, 0, .any, .none⟩,
  ⟨"RND_CONTRIB_DISCARDED", 0x5812, 1, 5, .u32, .ro, .b, 0, .any, .none⟩,
  ⟨"RND_DELTA_DROPPED", 0x5812, 1, 6, .u64, .ro, .b, 0, .any, .none⟩,
  ⟨"RND_VOTES_REPEATED", 0x5812, 1, 7, .u32, .ro, .b, 0, .any, .none⟩,
  ⟨"RND_PARTNER_STATE", 0x5813, 1, 1, .blob, .ro, .b, 0, .any, .none⟩,
  ⟨"RND_PARTNER_MERGED", 0x5813, 1, 2, .blob, .ro, .b, 0, .any, .none⟩,
  ⟨"INGOT_DONOR", 0x5814, 1, 1, .u8, .rw, .a, 255, .natOr 63 0xFF, .none⟩,
  ⟨"INGOT_STATE", 0x5814, 1, 2, .u8, .ro, .b, 0, .any, .none⟩,
  ⟨"INGOT_BYTES", 0x5814, 1, 3, .u64, .ro, .b, 0, .any, .none⟩,
  ⟨"INGOT_RECEIVED", 0x5814, 1, 4, .u64, .ro, .b, 0, .any, .none⟩,
  ⟨"SLK_STATE", 0x6000, 1, 1, .u8, .ro, .b, 0, .any, .none⟩,
  ⟨"SLK_DOMAIN", 0x6000, 1, 2, .u8, .rwl, .a, 0, .any, .siteLinkControl⟩,
  ⟨"SLK_ETHERTYPE", 0x6000, 1, 3, .u16, .rwl, .a, 34998, .any, .siteLinkControl⟩]

/-- Objects 0x6000 to 0x6010. -/
def Obj.table11 : List ObjDef := [
  ⟨"SLK_MASTER_SLOT", 0x6000, 1, 4, .u16, .rwl, .a, 0, .nat 0 3071, .siteLinkControl⟩,
  ⟨"SLK_START_COUNT", 0x6000, 1, 5, .u64, .ro, .b, 0, .any, .none⟩,
  ⟨"SLK_REKEY_PACKETS", 0x6001, 1, 1, .u32, .rwl, .a, 1073741824, .nat 1048576 4294967295, .siteLinkControl⟩,
  ⟨"SLK_REKEY_INTERVAL", 0x6001, 1, 2, .u32, .rwl, .a, 600, .nat 10 86400, .siteLinkControl⟩,
  ⟨"SLK_GRACE", 0x6001, 1, 3, .u32, .rwl, .a, 2000, .nat 100 60000, .siteLinkControl⟩,
  ⟨"SLK_FEC_GROUP_TIME", 0x6001, 1, 4, .u32, .rwl, .a, 10, .nat 1 1000, .siteLinkControl⟩,
  ⟨"SLK_FEC_HOLD", 0x6001, 1, 5, .u32, .rwl, .a, 2000, .nat 100 100000, .siteLinkControl⟩,
  ⟨"SLK_RESEND_MIN", 0x6001, 1, 6, .u32, .rwl, .a, 1000, .nat 100 1000000, .siteLinkControl⟩,
  ⟨"SLK_PROBE_TIMEOUT", 0x6001, 1, 7, .u32, .rwl, .a, 3000, .nat 300 60000, .siteLinkControl⟩,
  ⟨"SLK_ROUND_PARITY", 0x6001, 1, 8, .u8, .rwl, .a, 4, .nat 0 16, .siteLinkControl⟩,
  ⟨"SLK_REKEY", 0x6002, 1, 1, .u8, .wo, .c, 0, .natOr 63 0xFF, .none⟩,
  ⟨"SLK_RESTART", 0x6002, 1, 2, .u8, .wo, .c, 0, .natOr 63 0xFF, .none⟩,
  ⟨"SLK_FLOW_TABLE", 0x6003, 1, 1, .domain, .rw, .a, 0, .any, .none⟩,
  ⟨"SLK_FLOW_STATE", 0x6003, 1, 2, .domain, .ro, .b, 0, .any, .none⟩,
  ⟨"SLK_RESENDS", 0x6004, 1, 1, .u64, .ro, .b, 0, .any, .none⟩,
  ⟨"SLK_DUPLICATES", 0x6004, 1, 2, .u64, .ro, .b, 0, .any, .none⟩,
  ⟨"SLK_FEC_RECOVERED", 0x6004, 1, 3, .u64, .ro, .b, 0, .any, .none⟩,
  ⟨"SLK_FEC_LOST", 0x6004, 1, 4, .u64, .ro, .b, 0, .any, .none⟩,
  ⟨"SLK_AUTH_FAILED", 0x6004, 1, 5, .u64, .ro, .b, 0, .any, .none⟩,
  ⟨"SLK_EPOCH_LATE", 0x6004, 1, 6, .u64, .ro, .b, 0, .any, .none⟩,
  ⟨"SLK_WINDOW_DISCARDS", 0x6004, 1, 7, .u64, .ro, .b, 0, .any, .none⟩,
  ⟨"SLK_TX_CIPHER_WAIT_NS", 0x6004, 1, 8, .u64, .ro, .b, 0, .any, .none⟩,
  ⟨"SLK_PORT_STATE", 0x6010, 2, 1, .u8, .ro, .b, 0, .any, .none⟩,
  ⟨"SLK_PORT_ENABLE", 0x6010, 2, 2, .bool, .rw, .a, 1, .nat 0 1, .none⟩]

/-- Objects 0x6010 to 0x7100. -/
def Obj.table12 : List ObjDef := [
  ⟨"SLK_PORT_FEC_CORRECTED", 0x6010, 2, 3, .u64, .ro, .b, 0, .any, .none⟩,
  ⟨"SLK_PORT_FEC_UNCORRECTABLE", 0x6010, 2, 4, .u64, .ro, .b, 0, .any, .none⟩,
  ⟨"SLK_PORT_BYTES_TX", 0x6010, 2, 5, .u64, .ro, .b, 0, .any, .none⟩,
  ⟨"SLK_PORT_BYTES_RX", 0x6010, 2, 6, .u64, .ro, .b, 0, .any, .none⟩,
  ⟨"SLK_PARTNER_EPOCH_TX", 0x6020, 64, 1, .u32, .ro, .b, 0, .any, .none⟩,
  ⟨"SLK_PARTNER_EPOCH_RX", 0x6020, 64, 2, .u32, .ro, .b, 0, .any, .none⟩,
  ⟨"SLK_PARTNER_RTT_NS", 0x6020, 64, 3, .u64, .ro, .b, 0, .any, .none⟩,
  ⟨"CIPHER_KEY_LOAD", 0x6800, 1, 1, .blob, .wo, .c, 0, .any, .none⟩,
  ⟨"CIPHER_KEY_ERASE", 0x6800, 1, 2, .u16, .wo, .c, 0, .any, .none⟩,
  ⟨"CIPHER_KEY_STATE", 0x6800, 1, 3, .domain, .ro, .b, 0, .any, .none⟩,
  ⟨"CIPHER_KEY_LAST_REASON", 0x6800, 1, 4, .u8, .ro, .b, 0, .any, .none⟩,
  ⟨"CIPHER_UNITS", 0x6801, 1, 1, .u16, .ro, .b, 256, .any, .none⟩,
  ⟨"CIPHER_QUEUE_DEPTH", 0x6801, 1, 2, .u16, .ro, .b, 0, .any, .none⟩,
  ⟨"CIPHER_REQUESTS", 0x6802, 1, 1, .u64, .ro, .b, 0, .any, .none⟩,
  ⟨"CIPHER_BYTES", 0x6802, 1, 2, .u64, .ro, .b, 0, .any, .none⟩,
  ⟨"CIPHER_AUTH_FAILED", 0x6802, 1, 3, .u64, .ro, .b, 0, .any, .none⟩,
  ⟨"CIPHER_ERRORS", 0x6802, 1, 4, .u64, .ro, .b, 0, .any, .none⟩,
  ⟨"DMA_CHANNELS", 0x7000, 1, 1, .u16, .ro, .a, 512, .any, .none⟩,
  ⟨"DMA_PRIVILEGED", 0x7000, 1, 2, .u16, .ro, .a, 16, .any, .none⟩,
  ⟨"DMA_FREE", 0x7000, 1, 3, .u16, .ro, .b, 0, .any, .none⟩,
  ⟨"DMA_ERRORS", 0x7000, 1, 4, .u64, .ro, .b, 0, .any, .none⟩,
  ⟨"DMA_TRIGGERS_LOST", 0x7000, 1, 5, .u64, .ro, .b, 0, .any, .none⟩,
  ⟨"DMA_TRANSPOSE_BYTES", 0x7000, 1, 6, .u64, .ro, .b, 0, .any, .none⟩,
  ⟨"DMA_STATE", 0x7100, 512, 1, .u8, .ro, .b, 0, .any, .none⟩]

/-- Objects 0x7100 to 0x8000. -/
def Obj.table13 : List ObjDef := [
  ⟨"DMA_ENABLE", 0x7100, 512, 2, .bool, .rw, .a, 0, .nat 0 1, .none⟩,
  ⟨"DMA_DESCRIPTORS", 0x7100, 512, 3, .domain, .rwl, .a, 0, .any, .dmaChannel⟩,
  ⟨"DMA_START_DESC", 0x7100, 512, 4, .u8, .rwl, .a, 0, .nat 0 63, .dmaChannel⟩,
  ⟨"DMA_BYTES_DONE", 0x7100, 512, 5, .u64, .ro, .b, 0, .any, .none⟩,
  ⟨"DMA_COMPLETIONS", 0x7100, 512, 6, .domain, .ro, .b, 0, .any, .none⟩,
  ⟨"DMA_LAST_STATUS", 0x7100, 512, 7, .u8, .ro, .b, 0, .any, .none⟩,
  ⟨"DMA_OWNER", 0x7100, 512, 8, .u8, .ro, .b, 0, .any, .none⟩,
  ⟨"DMA_HOLD_NS", 0x7100, 512, 9, .u64, .ro, .b, 0, .any, .none⟩,
  ⟨"SL_SEQ_NEXT", 0x7800, 1, 1, .u64, .ro, .b, 0, .any, .none⟩,
  ⟨"SL_SEQ_OLDEST", 0x7800, 1, 2, .u64, .ro, .b, 0, .any, .none⟩,
  ⟨"SL_READ_FROM", 0x7800, 1, 3, .u64, .rw, .a, 0, .any, .none⟩,
  ⟨"SL_READ", 0x7800, 1, 4, .domain, .ro, .b, 0, .any, .none⟩,
  ⟨"SL_SPILL_ENABLE", 0x7800, 1, 5, .bool, .rw, .a, 1, .nat 0 1, .none⟩,
  ⟨"SL_RECORDS_LOST", 0x7800, 1, 6, .u64, .ro, .b, 0, .any, .none⟩,
  ⟨"SL_FP_POINTS", 0x7800, 1, 7, .u8, .rw, .a, 31, .mask 0x1F, .none⟩,
  ⟨"SL_FP_WATCH", 0x7800, 1, 8, .blob, .rwl, .a, 0, .any, .sillage⟩,
  ⟨"REPLAY_SOURCE", 0x7801, 1, 1, .domain, .rwl, .c, 0, .any, .replay⟩,
  ⟨"REPLAY_CONTROL", 0x7801, 1, 2, .u8, .wo, .c, 0, .nat 1 2, .none⟩,
  ⟨"REPLAY_STATE", 0x7801, 1, 3, .u8, .ro, .b, 0, .any, .none⟩,
  ⟨"REPLAY_FIRST_DIVERGED", 0x7801, 1, 4, .u32, .ro, .b, 0, .any, .none⟩,
  ⟨"REPLAY_TOLERANCES", 0x7801, 1, 5, .blob, .rwl, .a, 0, .any, .replay⟩,
  ⟨"REPLAY_WAIT", 0x7801, 1, 6, .u32, .rwl, .a, 1000000, .nat 1000 60000000, .replay⟩,
  ⟨"REPLAY_LAST_REASON", 0x7801, 1, 7, .u8, .ro, .b, 0, .any, .none⟩,
  ⟨"FAULT_LOG", 0x8000, 1, 1, .domain, .ro, .b, 0, .any, .none⟩]

/-- Objects 0x8000 to 0x9030. -/
def Obj.table14 : List ObjDef := [
  ⟨"FAULT_SEQ_NEXT", 0x8000, 1, 2, .u64, .ro, .b, 0, .any, .none⟩,
  ⟨"FAULT_SEQ_OLDEST", 0x8000, 1, 3, .u64, .ro, .b, 0, .any, .none⟩,
  ⟨"FAULT_READ_FROM", 0x8000, 1, 4, .u64, .rw, .a, 0, .any, .none⟩,
  ⟨"FAULT_LOST", 0x8000, 1, 5, .u64, .ro, .b, 0, .any, .none⟩,
  ⟨"STICKY_SUMMARY", 0x8000, 1, 6, .u32, .ro, .b, 0, .any, .none⟩,
  ⟨"STICKY_FAMILY", 0x8010, 32, 1, .u32, .w1c, .b, 0, .any, .none⟩,
  ⟨"STICKY_LAST_SET", 0x8010, 32, 2, .time64, .ro, .b, 0, .any, .none⟩,
  ⟨"REGION_STICKY", 0x8100, 256, 1, .u64, .w1c, .b, 0, .any, .none⟩,
  ⟨"SERVICE_OP", 0x8200, 1, 1, .u8, .wo, .c, 0, .nat 1 5, .none⟩,
  ⟨"SERVICE_ARG", 0x8200, 1, 2, .u64, .rw, .a, 0, .any, .none⟩,
  ⟨"SERVICE_STATE", 0x8200, 1, 3, .u8, .ro, .b, 0, .any, .none⟩,
  ⟨"FW_ACTIVE_SLOT", 0x9000, 1, 1, .u8, .ro, .a, 0, .any, .none⟩,
  ⟨"FW_VERSION_ACTIVE", 0x9000, 1, 2, .u32, .ro, .a, 0, .any, .none⟩,
  ⟨"FW_VERSION_INACTIVE", 0x9000, 1, 3, .u32, .ro, .b, 0, .any, .none⟩,
  ⟨"FW_INACTIVE_STATE", 0x9000, 1, 4, .u8, .ro, .b, 0, .any, .none⟩,
  ⟨"FW_ROLLBACK_MIN", 0x9000, 1, 5, .u32, .ro, .a, 0, .any, .none⟩,
  ⟨"FW_INSTALL", 0x9010, 1, 1, .domain, .rwl, .c, 0, .any, .firmwareInstall⟩,
  ⟨"FW_ACTIVATE", 0x9010, 1, 2, .u8, .wo, .c, 0, .nat 1 1, .none⟩,
  ⟨"FW_LAST_REASON", 0x9010, 1, 3, .u8, .ro, .b, 0, .any, .none⟩,
  ⟨"DEVICE_ID", 0x9020, 1, 1, .blob, .ro, .a, 0, .any, .none⟩,
  ⟨"DEVICE_PUBKEY", 0x9020, 1, 2, .domain, .ro, .a, 0, .any, .none⟩,
  ⟨"PUF_STATE", 0x9020, 1, 3, .u8, .ro, .a, 0, .any, .none⟩,
  ⟨"PUF_ENROL", 0x9020, 1, 4, .u8, .wo, .c, 0, .nat 1 1, .none⟩,
  ⟨"MEASUREMENTS", 0x9030, 1, 1, .domain, .ro, .a, 0, .any, .none⟩]

/-- Objects 0x9030 to 0x9050. -/
def Obj.table15 : List ObjDef := [
  ⟨"HALLMARK_NONCE", 0x9030, 1, 2, .blob, .wo, .c, 0, .any, .none⟩,
  ⟨"HALLMARK_QUOTE", 0x9030, 1, 3, .domain, .ro, .b, 0, .any, .none⟩,
  ⟨"CONFIG_RECORDS", 0x9040, 1, 1, .domain, .rwl, .c, 0, .any, .firmwareInstall⟩,
  ⟨"CONFIG_VERSION", 0x9040, 1, 2, .u32, .ro, .a, 0, .any, .none⟩,
  ⟨"PEERS_ENROLLED", 0x9050, 1, 1, .domain, .ro, .b, 0, .any, .none⟩,
  ⟨"PEER_ENROL", 0x9050, 1, 2, .blob, .wo, .c, 0, .any, .none⟩,
  ⟨"PEERS_REFUSED", 0x9050, 1, 3, .u32, .ro, .b, 0, .any, .none⟩]

/-- Every object of Table 18-1 but subindex 0x00. -/
def Obj.table : List ObjDef :=
  Obj.table0 ++ Obj.table1 ++ Obj.table2 ++ Obj.table3 ++ Obj.table4 ++ Obj.table5 ++ Obj.table6 ++ Obj.table7 ++ Obj.table8 ++ Obj.table9 ++ Obj.table10 ++ Obj.table11 ++ Obj.table12 ++ Obj.table13 ++ Obj.table14 ++ Obj.table15

/-- The default values that are not 0, as (first index, number of indices, subindex, value); they are those of
`Obj.table` (Laws/Objects.lean proves it). -/
def Obj.dflts : List (Nat × Nat × Nat × Nat) := [
  (0x1000, 1, 6, 1728000000000),
  (0x1010, 1, 4, 2),
  (0x1010, 1, 6, 4872),
  (0x1010, 1, 7, 10000),
  (0x1020, 17, 3, 1),
  (0x2000, 1, 4, 1152729088),
  (0x2060, 1, 3, 1061158912),
  (0x2400, 1, 9, 14400),
  (0x2401, 1, 2, 128),
  (0x2401, 1, 3, 128),
  (0x2401, 1, 4, 4294967292),
  (0x2401, 1, 5, 511),
  (0x2401, 1, 6, 1),
  (0x3000, 1, 6, 1),
  (0x3040, 1, 1, 544),
  (0x3040, 1, 2, 512),
  (0x3100, 256, 3, 1),
  (0x4000, 1, 1, 1676460392448),
  (0x4000, 1, 3, 1),
  (0x4000, 1, 4, 1024),
  (0x4000, 1, 8, 3600),
  (0x4020, 24, 1, 69852516352),
  (0x4020, 24, 3, 255),
  (0x4100, 192, 6, 1),
  (0x4801, 1, 1, 8),
  (0x4801, 1, 2, 1904214016),
  (0x4801, 1, 3, 16),
  (0x4801, 1, 4, 2),
  (0x4801, 1, 5, 1000),
  (0x4801, 1, 6, 32),
  (0x4801, 1, 7, 255),
  (0x4810, 1, 5, 1065353216),
  (0x4811, 1, 1, 1065353216),
  (0x4811, 1, 2, 10000),
  (0x4811, 1, 3, 50000),
  (0x4831, 1, 1, 2000),
  (0x4831, 1, 2, 2000),
  (0x5000, 1, 2, 65535),
  (0x5000, 1, 3, 1),
  (0x5000, 1, 4, 34997),
  (0x5001, 1, 1, 20),
  (0x5001, 1, 2, 8),
  (0x5001, 1, 3, 2000),
  (0x5001, 1, 4, 1120403456),
  (0x5001, 1, 5, 1000),
  (0x5010, 8, 2, 1),
  (0x5801, 1, 4, 1),
  (0x5801, 1, 5, 500),
  (0x5801, 1, 6, 60000),
  (0x5801, 1, 7, 4),
  (0x5801, 1, 8, 1056964608),
  (0x5801, 1, 9, 1061158912),
  (0x5801, 1, 10, 1063256064),
  (0x5801, 1, 11, 10),
  (0x5801, 1, 12, 2),
  (0x5801, 1, 14, 1),
  (0x5801, 1, 15, 1),
  (0x5801, 1, 16, 64),
  (0x5814, 1, 1, 255),
  (0x6000, 1, 3, 34998),
  (0x6001, 1, 1, 1073741824),
  (0x6001, 1, 2, 600),
  (0x6001, 1, 3, 2000),
  (0x6001, 1, 4, 10),
  (0x6001, 1, 5, 2000),
  (0x6001, 1, 6, 1000),
  (0x6001, 1, 7, 3000),
  (0x6001, 1, 8, 4),
  (0x6010, 2, 2, 1),
  (0x6801, 1, 1, 256),
  (0x7000, 1, 1, 512),
  (0x7000, 1, 2, 16),
  (0x7800, 1, 5, 1),
  (0x7800, 1, 7, 31),
  (0x7801, 1, 6, 1000000)]

/-- Value of the first listed default that covers the key. -/
def Obj.dfltIn (k : Nat) : List (Nat × Nat × Nat × Nat) → Nat
  | [] => 0
  | (ix, sp, sub, v) :: r => if k % 256 = sub ∧ ix ≤ k / 256 ∧ k / 256 < ix + sp then v else Obj.dfltIn k r

/-- What an object of fixed size reads before anything is written to it. -/
def Obj.dflt (k : Nat) : Nat := Obj.dfltIn k Obj.dflts

/-- The row of an object, if Table 18-1 lists it. -/
def Obj.find (index sub : Nat) : Option ObjDef :=
  Obj.table.find? fun d => d.sub == sub && d.index ≤ index && index < d.index + d.span

/-- Highest subindex of an index (R443); 0 where the index is not listed. -/
def Obj.highest (index : Nat) : Nat :=
  Obj.table.foldl (fun m d => if d.index ≤ index ∧ index < d.index + d.span then max m d.sub else m) 0

/-- The row of an object with subindex 0x00, which reads the highest subindex of its index (R440, R443). -/
def Obj.lookup (index sub : Nat) : Option ObjDef :=
  if sub = 0 then
    let h := Obj.highest index
    if h = 0 then none else some ⟨"HIGHEST_SUBINDEX", index, 1, 0, .u8, .ro, .a, h, .any, .none⟩
  else Obj.find index sub

/-- Size of a fixed-size type in bytes (Table 0-5). -/
def ObjType.size : ObjType → Nat
  | .u8 | .bool => 1
  | .u16 => 2
  | .u32 | .i32 | .f32 => 4
  | .u64 | .i64 | .time64 => 8
  | .str | .blob | .domain => 0

/-- Type code (Table 17-4). -/
def ObjType.code : ObjType → Nat
  | .u8 => 0x01 | .u16 => 0x02 | .u32 => 0x03 | .u64 => 0x04 | .i32 => 0x05 | .i64 => 0x06 | .f32 => 0x07
  | .bool => 0x08 | .str => 0x09 | .blob => 0x0A | .time64 => 0x0B | .domain => 0x0C

/-- The type holds a number of fixed size. -/
def ObjType.fixed : ObjType → Bool
  | .str | .blob | .domain => false
  | _ => true

/-- The value lies in the range. -/
def Range.ok (r : Range) (v : Nat) : Bool :=
  match r with
  | .any => true
  | .nat lo hi => decide (lo ≤ v) && decide (v ≤ hi)
  | .natOr hi o => decide (v ≤ hi) || v == o
  | .int lo hi => decide (lo ≤ signed 32 v) && decide (signed 32 v ≤ hi)
  | .one vs => vs.contains v
  | .mask _ => true
  | .f32 lo hi => decide (lo ≤ v) && decide (v ≤ hi)
  | .fpos => decide (1 ≤ v) && decide (v < 0x7F800000)
  | .fnonneg => decide (v < 0x7F800000) || v == 0x80000000
  | .fbelowOne => decide (v < 0x3F800000) || v == 0x80000000

/-- The value as it is stored: unassigned bits read 0 (R7). -/
def Range.stored (r : Range) (v : Nat) : Nat :=
  match r with
  | .mask m => v &&& m
  | _ => v

end Sys2Proof.Machine
end

