-- ==== Sys2Proof/Machine/Shake.lean ====
section
/-! DEFINITION. Machine/Shake.lean: SHAKE256 of FIPS 202, which R166, R276, R291, R335, R474 and others take as their
digest. The state of the permutation is 25 lanes of 64 bits, lane x + 5 y at place x + 5 y. -/

namespace Sys2Proof.Machine

/-- A 64-bit lane rotated left by `n` < 64 bits. -/
def rotl64 (v n : Nat) : Nat := (v * 2 ^ n % 2 ^ 64) ||| (v / 2 ^ (64 - n))

/-- Round constants of step ι. -/
def keccakRc : List Nat :=
  [0x0000000000000001, 0x0000000000008082, 0x800000000000808A, 0x8000000080008000,
   0x000000000000808B, 0x0000000080000001, 0x8000000080008081, 0x8000000000008009,
   0x000000000000008A, 0x0000000000000088, 0x0000000080008009, 0x000000008000000A] ++
  [0x000000008000808B, 0x800000000000008B, 0x8000000000008089, 0x8000000000008003,
   0x8000000000008002, 0x8000000000000080, 0x000000000000800A, 0x800000008000000A,
   0x8000000080008081, 0x8000000000008080, 0x0000000080000001, 0x8000000080008008]

/-- Rotation of each lane in step ρ. -/
def keccakRho : List Nat :=
  [0, 1, 62, 28, 27, 36, 44, 6, 55, 20, 3, 10, 43, 25, 39, 41, 45, 15, 21, 8, 18, 2, 61, 56, 14]

/-- One round: θ, ρ and π, χ, ι. -/
def keccakRound (a : List Nat) (rc : Nat) : List Nat :=
  let g := fun i => a.getD i 0
  let c := (List.range 5).map fun x => g x ^^^ g (x + 5) ^^^ g (x + 10) ^^^ g (x + 15) ^^^ g (x + 20)
  let d := (List.range 5).map fun x => c.getD ((x + 4) % 5) 0 ^^^ rotl64 (c.getD ((x + 1) % 5) 0) 1
  let b := (List.range 25).map fun j =>
    let x := (j % 5 + 3 * (j / 5)) % 5
    let s := x + 5 * (j % 5)
    rotl64 (g s ^^^ d.getD x 0) (keccakRho.getD s 0)
  (List.range 25).map fun j =>
    let y := j / 5 * 5
    let v := b.getD j 0 ^^^ ((2 ^ 64 - 1 - b.getD (y + (j + 1) % 5) 0) &&& b.getD (y + (j + 2) % 5) 0)
    if j = 0 then v ^^^ rc else v

/-- Keccak-f[1600]. -/
def keccakF (a : List Nat) : List Nat := keccakRc.foldl keccakRound a

/-- 136 bytes exclusive-ored into the state. -/
def shakeAbsorb (a : List Nat) (block : Bytes) : List Nat :=
  (List.range 25).map fun i => a.getD i 0 ^^^ u64At block (8 * i)

/-- The message padded to whole blocks of 136 bytes, with the domain bits of SHAKE. -/
def shakePad (m : Bytes) : Bytes :=
  let n := 135 - m.length % 136
  if n = 0 then m ++ [0x9F#8] else m ++ [0x1F#8] ++ zeros (n - 1) ++ [0x80#8]

/-- The state after the whole message. -/
def shakeState (m : Bytes) : List Nat :=
  (chunks 136 (shakePad m)).foldl (fun a b => keccakF (shakeAbsorb a b)) (List.replicate 25 0)

/-- `n` output blocks. -/
def shakeSqueeze : Nat → List Nat → Bytes
  | 0, _ => []
  | n + 1, a => ((a.take 17).map (leBytes 8)).flatten ++ shakeSqueeze n (keccakF a)

/-- `n` bytes of SHAKE256 over the message. -/
def shake256 (n : Nat) (m : Bytes) : Bytes :=
  (shakeSqueeze (ceilDiv n 136) (shakeState m)).take n

/-- The 32-byte digest the manual uses throughout. -/
def digest32 (m : Bytes) : Bytes := shake256 32 m

end Sys2Proof.Machine
end

