-- ==== Sys2Proof/Machine/Ops.lean ====
section
/-! DEFINITION. Machine/Ops.lean: the named operations over the module's state that every family shares: registers,
time stamps, the sillage ring, the fault log, sticky bits, events, and the occurrence of R485, which is this
hardware's counterpart of taking an exception. -/

namespace Sys2Proof.Machine

/-! ### A meaning as an effect on the module -/

/-- The outcome of a step whose effect on the module is `f`; the waiting commands stay as they are. -/
def State.on (s : State) (f : Chip → Chip) : Host.Outcome State Fault Refusal :=
  .next { s with chip := f s.chip }

/-! ### Registers -/

/-- What the object under this key reads. -/
def Chip.reg (c : Chip) (k : Nat) : Nat := Sparse.get (Obj.dflt k) c.regs k

/-- The object under this key with a new value. -/
def Chip.setReg (c : Chip) (k v : Nat) : Chip := { c with regs := Sparse.put (Obj.dflt k) c.regs k v }

/-- A counter of `w` bits raised by `n`; arithmetic is modulo its width (Table 0-4). -/
def Chip.count (c : Chip) (k n w : Nat) : Chip := c.setReg k ((c.reg k + n) % 2 ^ w)

/-- The bytes of a STR, BLOB or DOMAIN object. -/
def Chip.blob (c : Chip) (k : Nat) : Bytes := Sparse.get [] c.blobs k

def Chip.setBlob (c : Chip) (k : Nat) (b : Bytes) : Chip := { c with blobs := Sparse.put [] c.blobs k b }

/-- The registers whose key satisfies `p` back at their defaults. -/
def Chip.dropRegs (c : Chip) (p : Nat → Bool) : Chip := { c with regs := c.regs.filter fun e => !p e.1 }

def Chip.dropBlobs (c : Chip) (p : Nat → Bool) : Chip := { c with blobs := c.blobs.filter fun e => !p e.1 }

/-- Something leaves the module at an interface. -/
def Chip.emit (c : Chip) (o : Out) : Chip := { c with out := o :: c.out }

/-- A value the spec leaves open, with the state in which it has been taken. -/
def Chip.freeNat (c : Chip) (w : Nat) : Nat × Chip :=
  ((Config.freeValue w c.free).toNat, { c with free := c.free + 1 })

/-- Bytes the spec leaves open, with the state in which they have been taken. -/
def Chip.freeBytes (c : Chip) (n : Nat) : Bytes × Chip :=
  (leBytes n (Config.freeValue (8 * n) c.free).toNat, { c with free := c.free + 1 })

/-- Run `f` on the state once for each element, first element first. -/
def Chip.each {α : Type} (c : Chip) (l : List α) (f : Chip → α → Chip) : Chip := l.foldl f c

/-! ### Time (R262, R263) -/

/-- TIME64 in ns. -/
def Chip.now (c : Chip) : Int := (c.time.mono : Int) + c.time.offset

/-- TIME64 as 64 bits. -/
def Chip.now64 (c : Chip) : Nat := unsigned 64 c.now

/-- R266 and Table 10-1: time is valid from quality code 2 up, and while a source is followed only with an estimated
offset below 1 µs. -/
def Chip.timeValid (c : Chip) : Bool :=
  let q := c.reg Obj.timeQuality
  decide (2 ≤ q) && (decide (q ≤ 3) || (decide (-1000 < c.time.slew) && decide (c.time.slew < 1000)))

/-! ### The sillage ring (R274, R276) -/

/-- A section of a record (R277), filled to an 8-byte boundary. -/
def section8 (type : Nat) (body : Bytes) : Bytes :=
  let b := leBytes 2 type ++ zeros 2 ++ leBytes 4 body.length ++ body
  b ++ zeros (alignUp 8 b.length - b.length)

/-- The 80-byte header of Table 10-3. -/
def recordHeader (c : Chip) (kind flags bytes sections : Nat) (time : Int) (mono : Nat) : Bytes :=
  leBytes 4 0x4C4C4953 ++ leBytes 2 1 ++ leBytes 1 kind ++ leBytes 1 flags ++ leBytes 4 bytes ++ leBytes 2 sections ++
  leBytes 1 (c.reg Obj.timeQuality) ++ zeros 1 ++ leBytes 8 c.sil.nextSeq ++ leBytes 8 (c.reg Obj.srRunSeed) ++
  leBytes 4 c.step.round ++ leBytes 4 (c.reg Obj.stepNumber) ++ leBytes 8 (unsigned 64 time) ++ leBytes 8 mono ++
  leBytes 2 (c.reg Obj.bzModuleNumber) ++ zeros 6 ++ c.sil.lastDigest

/-- Bytes of the sillage ring (Table 7-2). -/
def sillageRingBytes : Nat := 12 * 2 ^ 30

/-- The ring after its oldest records make room: what stays, and how many records went. -/
def trimRing (total : Nat) : List (Nat × Bytes) → List (Nat × Bytes) × Nat
  | [] => ([], 0)
  | r :: rs =>
    if total ≤ sillageRingBytes then (r :: rs, 0)
    else let (k, n) := trimRing (total - r.2.length) rs; (k, n + 1)

/-- Whole records appended to the ring; a record overwritten before it is spilled is lost (R274). The sticky bit of
a loss is set by `Chip.appendRecord`'s callers through `sil.lostFlag`. -/
def Chip.pushRecord (c : Chip) (r : Bytes) : Chip :=
  let ring := c.sil.ring ++ [(c.sil.nextSeq, r)]
  let (kept, gone) := trimRing (ring.foldl (fun n e => n + e.2.length) 0) ring
  let lost := if c.reg Obj.slSpillEnable = 1 then gone - c.sil.spilled else 0
  let c := { c with sil := { c.sil with
    ring := kept, spilled := c.sil.spilled - gone, nextSeq := c.sil.nextSeq + 1
    lastDigest := (r.drop (r.length - 32)).take 16, lostFlag := decide (0 < lost) } }
  if lost = 0 then c else c.count Obj.slRecordsLost lost 64

/-- A record of R276 built from its sections and appended: header, sections, digest. `flags` are those beside
FLAGS[2], which says that records were lost before this one. The body of KIND 4 is an accord record, no section (R347). -/
def Chip.appendRecord (c : Chip) (kind flags : Nat) (sections : List Bytes) (time : Int) (mono : Nat) : Chip :=
  let body := sections.flatten
  let n := alignUp 8 (80 + body.length)
  let fl := flags + if c.sil.lostFlag then 4 else 0
  let b := recordHeader c kind fl (n + 32) (if kind = 4 then 0 else sections.length) time mono ++ body
  let b := b ++ zeros (n - b.length)
  c.pushRecord (b ++ digest32 b)

/-- An entry of an EVENTS section (Table 10-4, R278). -/
def eventEntry (time : Int) (code unit addr detail : Nat) : Bytes :=
  leBytes 8 (unsigned 64 time) ++ leBytes 2 code ++ leBytes 2 unit ++ zeros 4 ++ leBytes 8 addr ++ leBytes 8 detail

/-- An event of R278: it enters the EVENTS section of the step in progress, or a KIND 3 record outside one. Before
the START record of a start is written, it waits for it (R275). -/
def Chip.sillageEvent (c : Chip) (code unit addr detail : Nat) : Chip :=
  let e := eventEntry c.now code unit addr detail
  if c.step.inStep || !c.board.modReady then { c with sil := { c.sil with events := c.sil.events ++ [e] } }
  else c.appendRecord 3 0 [section8 7 e] c.now c.time.mono

/-! ### Events (R436, R437) -/

def ReqState.blank : ReqState := ⟨none, [], [], 1, none⟩

def DapServer.req (d : DapServer) (n : Nat) : ReqState := Sparse.get ReqState.blank d.reqs n

def Chip.setReq (c : Chip) (n : Nat) (r : ReqState) : Chip :=
  { c with dap := { c.dap with reqs := Sparse.put ReqState.blank c.dap.reqs n r } }

/-- Code of EVENTS_LOST (Table 17-8). -/
def eventsLost : Nat := 6

/-- The first event in the list that is no EVENTS_LOST event, and the rest without it. -/
def dropOldest : List Event → Option Event × List Event
  | [] => (.none, [])
  | e :: r =>
    if e.code.toNat = eventsLost then let (d, r') := dropOldest r; (d, e :: r')
    else (.some e, r)

/-- An event message leaves where the management port is up; the cipher engine forms its tag over 72 bytes (R396, R436). -/
def Chip.emitEvent (c : Chip) (n : Nat) (e : Event) : Chip :=
  if c.dap.linkUp then ((c.count Obj.cipherRequests 1 64).count Obj.cipherBytes 72 64).emit (.event n e) else c

/-- One event more for requester `n`, with the dropping of R437 beyond 1,024 unacknowledged ones. A drop sets
DAP_EVENT_LOST and its STICKY_LAST_SET; it writes no entry, which would be an event to send again. -/
def Chip.sendEvent (c : Chip) (n : Nat) (e : Event) : Chip :=
  let r := c.dap.req n
  let held := r.events.filter fun x => x.code.toNat != eventsLost
  let c := if held.length < 1024 then c else
    let (d, rest) := dropOldest r.events
    let top := (d.map (·.seq)).getD 0
    let c := c.count (Obj.reqEventsLost n) 1 32
    let c := (c.setReg (Obj.stickyFamily 11) (c.reg (Obj.stickyFamily 11) ||| 32)).setReg (Obj.stickyLastSet 11) c.now64
    if rest.any fun x => x.code.toNat == eventsLost then
      c.setReq n { r with events := rest.map fun x =>
        if x.code.toNat = eventsLost then
          { x with detail := x.detail + 1, address := BitVec.ofNat 64 (Nat.max top x.address.toNat) } else x }
    else
      let l : Event := ⟨r.nextEvent, BitVec.ofNat 16 eventsLost, 0, 0, 0, 0, 1, BitVec.ofNat 64 top, c.now⟩
      (c.setReq n { r with events := rest ++ [l], nextEvent := r.nextEvent + 1 }).emitEvent n l
  let r := c.dap.req n
  let e := { e with seq := r.nextEvent }
  let c := c.setReq n { r with events := r.events ++ [e], nextEvent := r.nextEvent + 1 }
  (c.setReg (Obj.reqEventsPending n) (c.dap.req n).events.length).emitEvent n e

/-- An event to every requester whose mask has its bit; before the dictionary serves it waits (R437). -/
def Chip.event (c : Chip) (code key detail addr : Nat) : Chip :=
  let e : Event := ⟨0, BitVec.ofNat 16 code, 0, BitVec.ofNat 16 (key / 256), BitVec.ofNat 8 key, 0,
    BitVec.ofNat 64 detail, BitVec.ofNat 64 addr, c.now⟩
  if c.board.modReady then
    c.each c.emmc.config.requesters fun c q =>
      if bit (c.reg (Obj.reqEventMask q.n)) (code - 1) then c.sendEvent q.n e else c
  else { c with flt := { c.flt with early := c.flt.early ++ [e] } }

/-- The events that waited for the dictionary, in the order of their causes (R437). -/
def Chip.flushEarly (c : Chip) : Chip :=
  let l := c.flt.early
  let c := { c with flt := { c.flt with early := [] } }
  c.each l fun c e => c.each c.emmc.config.requesters fun c q =>
    if bit (c.reg (Obj.reqEventMask q.n)) (e.code.toNat - 1) then c.sendEvent q.n e else c

/-- The completion event of a class C write (R431): reason 0 is OK, any other is FAILED. -/
def Chip.complete (c : Chip) (o : Origin) (key reason addr : Nat) : Chip :=
  c.sendEvent o.rq ⟨0, 1, if reason = 0 then 0 else 0x30, BitVec.ofNat 16 (key / 256), BitVec.ofNat 8 key, o.xid,
    BitVec.ofNat 64 reason, BitVec.ofNat 64 addr, c.now⟩

/-- The completion event of a class C write that failed where the owning chapter defines no reason code: the DETAIL is a
free value (DESIGN CHOICE, assumption log 2). -/
def Chip.completeFailed (c : Chip) (o : Origin) (key addr : Nat) : Chip :=
  let (v, c) := c.freeNat 64
  c.sendEvent o.rq ⟨0, 1, 0x30, BitVec.ofNat 16 (key / 256), BitVec.ofNat 8 key, o.xid,
    BitVec.ofNat 64 v, BitVec.ofNat 64 addr, c.now⟩

/-- The same for a write that may have no origin. -/
def Chip.completeOpt (c : Chip) (o : Option Origin) (key reason addr : Nat) : Chip :=
  match o with
  | some o => c.complete o key reason addr
  | none => c

/-- Completion events of several writes of one object. -/
def Chip.completeAll (c : Chip) (l : List Origin) (key reason addr : Nat) : Chip :=
  c.each l fun c o => c.complete o key reason addr

/-! ### The fault log (R482 to R486) -/

/-- The units of Table 21-2. -/
inductive Unit2 where
  | board | speed | tile | cast | mem | step | upd | sl | map | bz | rnd | slk | cipher | dma | dap | rst | fw | id | svc
deriving DecidableEq, Repr, Inhabited

def Unit2.code : Unit2 → Nat
  | .board => 0x01 | .speed => 0x02 | .tile => 0x03 | .cast => 0x04 | .mem => 0x05 | .step => 0x06 | .upd => 0x07
  | .sl => 0x08 | .map => 0x09 | .bz => 0x0A | .rnd => 0x0B | .slk => 0x0C | .cipher => 0x0D | .dma => 0x0E
  | .dap => 0x0F | .rst => 0x10 | .fw => 0x11 | .id => 0x12 | .svc => 0x13

/-- REGION of an entry that concerns no region (Table 21-1). -/
def noRegion : Nat := 0xFFFF

/-- A fault-log entry as its 64 bytes (Table 21-1). -/
def FaultEntry.bytes (e : FaultEntry) : Bytes :=
  leBytes 8 e.seq ++ leBytes 8 (unsigned 64 e.time) ++ leBytes 8 e.mono ++ leBytes 2 e.unit.toNat ++
  leBytes 2 e.code.toNat ++ leBytes 2 e.region.toNat ++ leBytes 1 e.flags.toNat ++ zeros 1 ++
  leBytes 8 e.address.toNat ++ leBytes 8 e.detail.toNat ++ leBytes 4 e.round.toNat ++ leBytes 4 e.step.toNat ++ zeros 8

/-- A fault-log entry is written (R483), enters the EVENTS section (R278), and its event 0x0003 is sent (R485). -/
def Chip.logOne (c : Chip) (u : Unit2) (code region addr detail : Nat) : Chip :=
  let e : FaultEntry := ⟨c.flt.nextSeq, c.now, c.time.mono, BitVec.ofNat 16 u.code, BitVec.ofNat 16 code,
    BitVec.ofNat 16 region, BitVec.ofNat 8 ((if c.timeValid then 1 else 0) + if c.flt.first then 2 else 0),
    BitVec.ofNat 64 addr, BitVec.ofNat 64 detail, BitVec.ofNat 32 c.step.round, BitVec.ofNat 32 (c.reg Obj.stepNumber)⟩
  let full := decide (1048576 ≤ c.flt.entries.length)
  let kept := if full then c.flt.entries.drop 1 else c.flt.entries
  let c := if full then c.count Obj.faultLost 1 64 else c
  let c := { c with flt := { c.flt with entries := kept ++ [e], nextSeq := c.flt.nextSeq + 1, first := false } }
  (c.sillageEvent code u.code addr detail).event 3 0 (u.code * 65536 + code % 65536) addr

/-! ### Sticky bits and the occurrence of R485 -/

/-- Bits of family `f` set, its STICKY_LAST_SET renewed, and event 0x0002 sent where they were clear (R485). -/
def Chip.setSticky (c : Chip) (f mask : Nat) : Chip :=
  let old := c.reg (Obj.stickyFamily f)
  let c := (c.setReg (Obj.stickyFamily f) (old ||| mask)).setReg (Obj.stickyLastSet f) c.now64
  if old &&& mask = mask then c else c.event 2 (Obj.stickyFamily f) mask 0

/-- Records lost since `before` set SL_RING_OVERRUN (R274) with its entry. -/
def Chip.overrun (c : Chip) (before : Nat) : Chip :=
  if c.reg Obj.slRecordsLost = before then c else (c.setSticky 6 4).logOne .sl 0x0102 noRegion 0 0

/-- A fault-log entry, with the check of R274 on the sillage record it may write. -/
def Chip.log (c : Chip) (u : Unit2) (code region addr detail : Nat) : Chip :=
  (c.logOne u code region addr detail).overrun (c.reg Obj.slRecordsLost)

/-- A record appended (R276), with the check of R274. -/
def Chip.record (c : Chip) (kind flags : Nat) (sections : List Bytes) (time : Int) (mono : Nat) : Chip :=
  (c.appendRecord kind flags sections time mono).overrun (c.reg Obj.slRecordsLost)

/-- An occurrence of R485: bit `b` of family `f`, then an entry with CODE 0x0100 + b (R484). -/
def Chip.occur (c : Chip) (f b : Nat) (u : Unit2) (region addr detail : Nat) : Chip :=
  (c.setSticky f (2 ^ b)).log u (0x0100 + b) region addr detail

/-- The same where the rule that causes the entry defines a status or reason code (R484). -/
def Chip.occurCode (c : Chip) (f b : Nat) (u : Unit2) (code region addr detail : Nat) : Chip :=
  (c.setSticky f (2 ^ b)).log u code region addr detail

/-- A bit of the region word of `h` set; it renews STICKY_LAST_SET of family 31 (R485, R488). -/
def Chip.setRegionSticky (c : Chip) (h mask : Nat) : Chip :=
  let old := c.reg (Obj.regionSticky h)
  let c := (c.setReg (Obj.regionSticky h) (old ||| mask)).setReg (Obj.stickyLastSet 31) c.now64
  if old &&& mask = mask then c else c.event 2 (Obj.regionSticky h) mask 0

/-- An occurrence of R485 of a bit held one set per region: CODE 0x0200 + b. -/
def Chip.occurRegion (c : Chip) (h b : Nat) (u : Unit2) (addr detail : Nat) : Chip :=
  (c.setRegionSticky h (2 ^ b)).log u (0x0200 + b) h addr detail

/-- Each bit of `mask` occurs in region `h`, from the lowest up. -/
def Chip.occurRegionMask (c : Chip) (h mask : Nat) (u : Unit2) (addr : Nat) : Chip :=
  c.each (List.range 19) fun c b => if bit mask b then c.occurRegion h b u addr 0 else c

/-- STICKY_SUMMARY: bit f set while family f has a bit set; bit 31 while any region word has one (R445, R487). -/
def Chip.stickySummary (c : Chip) : Nat :=
  let fams := (List.range 14).foldl (fun m f => if c.reg (Obj.stickyFamily f) = 0 then m else m + 2 ^ f) 0
  let any := c.regs.any fun e => decide (0x8100 * 256 ≤ e.1) && decide (e.1 < 0x8200 * 256) && e.1 % 256 == 1 && e.2 != 0
  fams + if any then 2 ^ 31 else 0

/-! ### Regions and tiles in their number spaces -/

/-- Region `r` of casting slot `s` is region h = 64 s + r (Dictionary Map). -/
def regionIndex (slot region : Nat) : Nat := (64 * slot + region) % 256

end Sys2Proof.Machine
end

