-- ==== Sys2Proof/Machine/Operands.lean ====
section
/-! DEFINITION. Machine/Operands.lean: the operand forms of the vector engine and the tile (R129 to R133): vector,
mask and scalar registers, lanes and elements, the fields of an instruction word, tensor descriptors, block images. -/

namespace Sys2Proof.Machine

/-- A tile that belongs to no casting and holds nothing. -/
def Tile.blank : Tile where
  status := .idle
  region := Option.none
  mem := []
  vregs := []
  mregs := []
  sregs := []
  table := Option.none
  pc := 0
  progStart := 0
  progWords := 0
  kindMap := []
  descs := []
  queues := []
  memQueue := []
  matrix := []
  stallIn := 0
  stallOut := 0
  busy := 0
  since := 0

def Chip.tile (c : Chip) (t : Nat) : Tile := Sparse.get Tile.blank c.array.tiles t

def Chip.setTile (c : Chip) (t : Nat) (x : Tile) : Chip :=
  { c with array := { c.array with tiles := Sparse.put Tile.blank c.array.tiles t x } }

/-! ### Registers (R129) -/

def Tile.vreg (t : Tile) (n : Nat) : Nat := (Sparse.get 0#2048 t.vregs n).toNat

def Tile.setVreg (t : Tile) (n v : Nat) : Tile := { t with vregs := Sparse.put 0#2048 t.vregs n (BitVec.ofNat 2048 v) }

/-- m0 always reads as all ones. -/
def Tile.mreg (t : Tile) (k : Nat) : Nat := if k = 0 then 2 ^ 64 - 1 else (Sparse.get 0#64 t.mregs k).toNat

def Tile.setMreg (t : Tile) (k v : Nat) : Tile := { t with mregs := Sparse.put 0#64 t.mregs k (BitVec.ofNat 64 v) }

/-- s0 always reads as 0. -/
def Tile.sreg (t : Tile) (k : Nat) : Nat := if k = 0 then 0 else (Sparse.get 0#64 t.sregs k).toNat

def Tile.setSreg (t : Tile) (k v : Nat) : Tile := { t with sregs := Sparse.put 0#64 t.sregs k (BitVec.ofNat 64 v) }

/-! ### Lanes and elements (R130, R132) -/

/-- The 64 lanes of a register, lane 0 first. -/
def lanesOf (v : Nat) : List Nat := (List.range 64).map fun i => v / 2 ^ (32 * i) % 2 ^ 32

/-- The register with these lanes. -/
def ofLanes (l : List Nat) : Nat := l.foldr (fun x acc => x % 2 ^ 32 + acc * 2 ^ 32) 0

def laneOf (v i : Nat) : Nat := v / 2 ^ (32 * i) % 2 ^ 32

/-- New lanes where the mask bit is 1; elsewhere the old lane, or 0 where `mz` (R132). -/
def mergeLanes (act : Nat) (mz : Bool) (old new : List Nat) : List Nat :=
  (List.range 64).map fun i => if bit act i then new.getD i 0 else if mz then 0 else old.getD i 0

/-- Type is one of the 16-bit types. -/
def halfType (ty : Nat) : Bool := ty == 1 || ty == 2

/-- Format of a floating-point TYPE. -/
def typeFmt (ty : Nat) : Fmt := if ty = 1 then .f16 else if ty = 2 then .bf16 else .f32

/-- `fn` on every element of every active lane of the sources: result lanes and the flags raised. -/
def mapElems (ty act : Nat) (fn : List Nat → Nat × Nat) (srcs : List (List Nat)) : List Nat × Nat :=
  let lane := fun i =>
    if !bit act i then (0, 0)
    else
      let ls := srcs.map fun s => s.getD i 0
      if halfType ty then
        let lo := fn (ls.map fun l => l % 2 ^ 16)
        let hi := fn (ls.map fun l => l / 2 ^ 16)
        (lo.1 % 2 ^ 16 + hi.1 % 2 ^ 16 * 2 ^ 16, lo.2 ||| hi.2)
      else
        let r := fn ls
        (r.1 % 2 ^ 32, r.2)
  let rs := (List.range 64).map lane
  (rs.map (·.1), rs.foldl (fun a r => a ||| r.2) 0)

/-- The active elements of a register in ascending element order, as (element number, code). -/
def activeElems (ty act : Nat) (v : Nat) : List (Nat × Nat) :=
  ((List.range 64).map fun i =>
    if !bit act i then []
    else
      let l := laneOf v i
      if halfType ty then [(2 * i, l % 2 ^ 16), (2 * i + 1, l / 2 ^ 16)] else [(i, l)]).flatten

end Sys2Proof.Machine

namespace Sys2Proof

/-! ### Fields of X (Table 5-2) -/

/-- The 26-bit field, sign-extended to 64 bits. -/
def VFields.imm (f : VFields) : Nat := Machine.unsigned 64 (Machine.signed 26 f.x.toNat)

def VFields.queue (f : VFields) : Nat := Machine.bits f.x.toNat 7 0
def VFields.count (f : VFields) : Nat := Machine.bits f.x.toNat 5 0
def VFields.half (f : VFields) : Nat := Machine.bits f.x.toNat 0 0
def VFields.fmt (f : VFields) : Nat := Machine.bits f.x.toNat 25 22
def VFields.desc (f : VFields) : Nat := Machine.bits f.x.toNat 21 14
def VFields.packSb (f : VFields) : Nat := Machine.bits f.x.toNat 13 10
def VFields.part (f : VFields) : Nat := Machine.bits f.x.toNat 9 7
def VFields.pairsrc (f : VFields) : Bool := Machine.bit f.x.toNat 6
def VFields.sb (f : VFields) : Nat := Machine.bits f.x.toNat 25 22
def VFields.acc (f : VFields) : Bool := Machine.bit f.x.toNat 0
def VFields.tid (f : VFields) : Nat := Machine.bits f.x.toNat 15 0
def VFields.offset (f : VFields) : Nat := Machine.bits f.x.toNat 21 8

/-- Lanes the MASK field makes active. -/
def VFields.active (f : VFields) (t : Machine.Tile) : Nat := t.mreg f.mask.toNat

/-- Address of a memory instruction (R150): s[SB] + OFFSET × 32. -/
def VFields.address (f : VFields) (t : Machine.Tile) : Nat := t.sreg f.sb + f.offset * 32

/-- Bytes of a tile memory. -/
def Machine.tileBytes : Nat := 524288

/-- The fields of a vector instruction word (Table 5-1), with its opcode. -/
def VFields.ofWord (w : Nat) : Nat × VFields :=
  (Machine.bits w 63 56, ⟨BitVec.ofNat 5 (Machine.bits w 55 51), BitVec.ofNat 5 (Machine.bits w 50 46), BitVec.ofNat 5 (Machine.bits w 45 41),
    BitVec.ofNat 5 (Machine.bits w 40 36), BitVec.ofNat 3 (Machine.bits w 35 33), BitVec.ofNat 1 (Machine.bits w 32 32),
    BitVec.ofNat 3 (Machine.bits w 31 29), BitVec.ofNat 3 (Machine.bits w 28 26), BitVec.ofNat 26 (Machine.bits w 25 0)⟩)

end Sys2Proof

namespace Sys2Proof.Machine

/-! ### Tensor descriptors (Table 6-4) -/

def TensorDesc.zero : TensorDesc := ⟨0, 0, 0, 0, 0, 0, 0, 0⟩

def Tile.desc (t : Tile) (n : Nat) : TensorDesc := t.descs.getD n TensorDesc.zero

/-- k of a scaled tensor, as a signed number. -/
def TensorDesc.k (d : TensorDesc) : Int := Machine.signed 8 d.scaleK.toNat

/-- Element index of R89 for the element at (r, c) of a block whose first element is the descriptor's origin. -/
def TensorDesc.index (d : TensorDesc) (r c : Nat) : Nat :=
  (d.originRow.toNat + r) * d.cols.toNat + d.originCol.toNat + c

/-! ### Bit strings of elements (R67, R119) -/

/-- Element `j` of width `w` in a little-endian bit string. -/
def elemAt (w : Nat) (b : Nat) (j : Nat) : Nat := b / 2 ^ (w * j) % 2 ^ w

/-- The little-endian bit string of these elements, as a number. -/
def packElems (w : Nat) (l : List Nat) : Nat := l.foldr (fun x acc => x % 2 ^ w + acc * 2 ^ w) 0

/-- Bytes of a 32 × 32 block image of a tensor format (Table 4-4). -/
def imageBytes (code : Nat) : Nat :=
  match TFmt.ofCode code with
  | none => 0
  | some f => (128 * f.elem.width + if f.mx then 32 else 0) * if f.pair then 2 else 1

/-! ### The entry in progress -/

/-- Schedule entries of region h that have begun this step, the last one's KIND (Table 6-7); 4, other, before the
first. -/
def Chip.entryKind (c : Chip) (h : Nat) : Nat :=
  match (Sparse.get Option.none (c.array.castings.map fun e => (e.1, some e.2)) (h / 64) : Option Casting) with
  | Option.none => 4
  | some k =>
    let es := k.sched.filter fun e => e.region.toNat == h % 64
    let n := Sparse.get 0 c.step.begun h
    match es[n - 1]? with
    | some e => if n = 0 then 4 else e.kind.toNat
    | Option.none => 4

end Sys2Proof.Machine
end

