-- ==== Sys2Proof/Machine/Flags.lean ====
section
/-! DEFINITION. Machine/Flags.lean: what an instruction raises: its exception flags in the region word (R95), its
values at an assay point (R216, R217), and what those leave in the decision record of their index (R224). -/

namespace Sys2Proof.Machine

/-! ### Bits of the region word above the flags (Table 21-4) -/

def bitMxFlush : Nat := 7
def bitMxScaleRange : Nat := 8
def bitMxNanScale : Nat := 9
def bitMxSatInput : Nat := 10
def bitMxCmdInvalid : Nat := 11
def bitTileMemCorr : Nat := 12
def bitTileMemUncorr : Nat := 13
def bitTileWriteRefused : Nat := 14
def bitVecEmpty : Nat := 15
def bitVecInstrInvalid : Nat := 16
def bitVecAddr : Nat := 17
def bitVecTableFault : Nat := 18

/-! ### Assay points -/

/-- What one instruction's conversions into one tensor show the assay (R217): its bits of the assay word, and the
largest finite |v × 2^−k| as binary32 (R224). -/
structure AssayNote where
  tensorId : Nat
  fmt : Nat
  bits : Nat
  accMax : Nat
deriving DecidableEq, Repr, Inhabited

/-- Larger of two binary32 codes of numbers that are at least 0. -/
def f32Max (a b : Nat) : Nat := if f32Lt a b then b else a

/-- One value at an assay point: NONFINITE, ABSURD, GRAD_OVF (R217). -/
def assayBits (threshold : Nat) (x : Num) (ovf : Bool) : Nat :=
  (match x with
    | .fin _ m e => if (Fmt.f32.decode threshold).lt (.fin false m e) then 2 else 0
    | _ => 1) + if ovf then 4 else 0

/-- The magnitude |v × 2^−k| of a finite value as binary32, rounded to nearest; 0 otherwise. -/
def scaledMag (k : Int) (x : Num) : Nat :=
  match x with
  | .fin _ m e => (Fmt.f32.deliver .rne false m (e - k)).1
  | _ => 0

/-- The note of a list of values with their overflow verdicts. -/
def assayNote (threshold : Nat) (d : TensorDesc) (fmt : Nat) (vs : List (Num × Bool)) : AssayNote :=
  let k := if fmt = 3 ∨ fmt = 13 then d.k else 0
  ⟨d.tensorId.toNat, fmt, vs.foldl (fun a v => a ||| assayBits threshold v.1 v.2) 0,
    vs.foldl (fun a v => f32Max a (scaledMag k v.1)) 0⟩

/-- Scale index of a tensor (R215): none where it has no scale or its layer field exceeds 4,095. -/
def scaleIndex (tensorId fmt : Nat) : Option Nat :=
  let layer := bits tensorId 47 32
  if 4095 < layer then none
  else if fmt = 13 then some (2 * layer)
  else if fmt = 3 then some (2 * layer + 1)
  else none

/-- A decision record that says nothing (R224). -/
def DecisionRecord.zero : DecisionRecord := ⟨0, 0, 0, 0, 0, 0, 0, 0, 0x80⟩

/-- The module's own record of an index with one conversion's findings added: FLAGS [0] local overflow, [2]
non-finite, [3] absurd (Table 8-4). -/
def noteRecord (r : DecisionRecord) (n : AssayNote) : DecisionRecord :=
  let fl := (if bit n.bits 2 then 1 else 0) + (if bit n.bits 0 then 4 else 0) + (if bit n.bits 1 then 8 else 0)
  { r with accMax := BitVec.ofNat 32 (f32Max r.accMax.toNat n.accMax), flags := r.flags ||| BitVec.ofNat 8 fl }

/-- The assay of R216 sees a conversion made during an entry of kind 1 to 3 of region h: the assay word gathers its
bits (R218), and the record of its index its findings. -/
def Chip.assay (c : Chip) (h : Nat) (n : AssayNote) : Chip :=
  let kind := c.entryKind h
  if c.step.inStep && decide (1 ≤ kind) && decide (kind ≤ 3) then
    let c := { c with step := { c.step with word := c.step.word ||| BitVec.ofNat 32 n.bits } }
    match scaleIndex n.tensorId n.fmt with
    | none => c
    | some i =>
      let r := Sparse.get DecisionRecord.zero c.step.own i
      { c with step := { c.step with own := Sparse.put DecisionRecord.zero c.step.own i (noteRecord r n) } }
  else c

/-- The flags of an instruction in region h: those its arithmetic byte records (R95), each an occurrence of R485 with
the instruction's address. -/
def Chip.raise (c : Chip) (h mask addr : Nat) : Chip :=
  c.occurRegionMask h (recorded (bit (c.reg (Obj.regionArith h)) 4) mask) .tile addr

end Sys2Proof.Machine
end

