-- ==== Sys2Proof/Machine/VectorOps.lean ====
section
/-! DEFINITION. Machine/VectorOps.lean: what each vector instruction does to its tile's registers (Table 5-3), apart
from issue, validity and faults, which Machine/Vector.lean adds once for all. -/

namespace Sys2Proof.Machine

/-- What an instruction takes from its region and step: the arithmetic byte, the step key, ABSURD_THRESHOLD. -/
structure VIn where
  arith : Nat
  key : Nat
  threshold : Nat
deriving DecidableEq, Repr, Inhabited

def VIn.strict (i : VIn) : Bool := bit i.arith 4
def VIn.prop (i : VIn) : Bool := bit i.arith 3

/-- RND, with 7 the region's default (Table 5-1). -/
def VIn.rnd (i : VIn) (f : VFields) : Nat := if f.rnd.toNat = 7 then i.arith % 8 else f.rnd.toNat

/-- The attribute of an upper-level operation: SR acts as RNE (R84). -/
def upperRnd (code : Nat) : Rnd :=
  match code with
  | 1 => .rtz
  | 2 => .rup
  | 3 => .rdn
  | _ => .rne

/-- What an instruction leaves: the tile, flags of the region word, assay notes, and whether a reduction was empty. -/
structure VEff where
  tile : Tile
  flags : Nat
  notes : List AssayNote
  empty : Bool
deriving DecidableEq, Repr, Inhabited

def VEff.plain (t : Tile) : VEff := ⟨t, 0, [], false⟩

/-- The body of an instruction. -/
abbrev VBody := VIn → VFields → Tile → VEff

/-- Lanes of the source registers. -/
def VFields.srcs (t : Tile) (rs : List Nat) : List (List Nat) := rs.map fun r => lanesOf (t.vreg r)

/-- An element-wise instruction with sources `rs`. -/
def elementwise (fn : Nat → Rnd → List Nat → Nat × Nat) (rs : VFields → List Nat) : VBody := fun i f t =>
  let ty := f.ty.toNat
  let act := f.active t
  let (new, fl) := mapElems ty act (fn ty (upperRnd (i.rnd f))) (VFields.srcs t (rs f))
  let old := lanesOf (t.vreg f.vd.toNat)
  ⟨t.setVreg f.vd.toNat (ofLanes (mergeLanes act (f.mz = 1) old new)), fl, [], false⟩

def srcAB (f : VFields) : List Nat := [f.va.toNat, f.vb.toNat]
def srcA (f : VFields) : List Nat := [f.va.toNat]
def srcABC (f : VFields) : List Nat := [f.va.toNat, f.vb.toNat, f.vc.toNat]

def arg (l : List Nat) (n : Nat) : Nat := l.getD n 0

/-- Integer or floating-point by TYPE: 3 and 4 are I32 and U32. -/
def byType (ty : Nat) (int : Nat × Nat) (fl : Nat × Nat) : Nat × Nat := if 3 ≤ ty then int else fl

def wrap32 (v : Int) : Nat := unsigned 32 v

def elAdd (ty : Nat) (r : Rnd) (l : List Nat) : Nat × Nat :=
  byType ty ((arg l 0 + arg l 1) % 2 ^ 32, 0) ((typeFmt ty).add r (arg l 0) (arg l 1))

def elSub (ty : Nat) (r : Rnd) (l : List Nat) : Nat × Nat :=
  byType ty (wrap32 ((arg l 0 : Int) - arg l 1), 0) ((typeFmt ty).sub r (arg l 0) (arg l 1))

def elMul (ty : Nat) (r : Rnd) (l : List Nat) : Nat × Nat :=
  byType ty (arg l 0 * arg l 1 % 2 ^ 32, 0) ((typeFmt ty).mul r (arg l 0) (arg l 1))

/-- a × b ± c with one rounding; FMS reverses the sign of c unless it is a NaN. -/
def elFma (neg : Bool) (ty : Nat) (r : Rnd) (l : List Nat) : Nat × Nat :=
  let F := typeFmt ty
  let c := F.decode (arg l 2)
  F.fma r (F.decode (arg l 0)) (F.decode (arg l 1)) (if neg && !c.isNan then c.negate else c)

/-- Integer order: signed for I32. -/
def intLt (ty a b : Nat) : Bool :=
  if ty = 3 then decide (signed 32 a < signed 32 b) else decide (a < b)

def elMaxMin (wantMax : Bool) (ty : Nat) (_ : Rnd) (l : List Nat) : Nat × Nat :=
  let a := arg l 0
  let b := arg l 1
  byType ty (if intLt ty a b == wantMax then b else a, 0) ((typeFmt ty).maxMin wantMax a b)

/-- Sign bit of an element. -/
def signBit (ty : Nat) : Nat := if halfType ty then 2 ^ 15 else 2 ^ 31

def elAbs (ty : Nat) (_ : Rnd) (l : List Nat) : Nat × Nat := (arg l 0 % signBit ty, 0)
def elNeg (ty : Nat) (_ : Rnd) (l : List Nat) : Nat × Nat := (arg l 0 ^^^ signBit ty, 0)
def elAnd (_ : Nat) (_ : Rnd) (l : List Nat) : Nat × Nat := (arg l 0 &&& arg l 1, 0)
def elOr (_ : Nat) (_ : Rnd) (l : List Nat) : Nat × Nat := (arg l 0 ||| arg l 1, 0)
def elXor (_ : Nat) (_ : Rnd) (l : List Nat) : Nat × Nat := (arg l 0 ^^^ arg l 1, 0)

def vAdd : VBody := elementwise elAdd srcAB
def vSub : VBody := elementwise elSub srcAB
def vMul : VBody := elementwise elMul srcAB
def vFma : VBody := elementwise (elFma false) srcABC
def vFms : VBody := elementwise (elFma true) srcABC
def vMax : VBody := elementwise (elMaxMin true) srcAB
def vMin : VBody := elementwise (elMaxMin false) srcAB
def vAbs : VBody := elementwise elAbs srcA
def vNeg : VBody := elementwise elNeg srcA
def vAnd : VBody := elementwise elAnd srcAB
def vOr : VBody := elementwise elOr srcAB
def vXor : VBody := elementwise elXor srcAB

def vDiv : VBody := fun i f t =>
  elementwise (fun ty r l => (typeFmt ty).div (!i.strict) r (arg l 0) (arg l 1)) srcAB i f t

def vSqrt : VBody := fun i f t =>
  elementwise (fun ty r l => (typeFmt ty).sqrt (!i.strict) r (arg l 0)) srcA i f t

/-- a << X. -/
def vShl : VBody := fun i f t =>
  elementwise (fun _ _ l => (arg l 0 * 2 ^ f.count % 2 ^ 32, 0)) srcA i f t

/-- a >> X, arithmetic for I32. -/
def vShr : VBody := fun i f t =>
  elementwise (fun ty _ l =>
    (if ty = 3 then wrap32 (signed 32 (arg l 0) / (2 ^ f.count : Nat)) else arg l 0 / 2 ^ f.count, 0)) srcA i f t

/-! ### Compensated arithmetic (R138) -/

/-- The exact sum of finite codes, in units of 2^q. -/
def exactSum (F : Fmt) (l : List Nat) : Int × Int :=
  l.foldl (fun a c =>
    match F.decode c with
    | .fin n m e =>
      let q := min a.2 e
      (a.1 * (2 ^ (a.2 - q).toNat : Nat) + signedAt n m e q, q)
    | _ => a) (0, 0)

/-- An exact value rounded to nearest even, +0 for zero. -/
def rnExact (F : Fmt) (v : Int × Int) : Nat :=
  if v.1 = 0 then 0 else (F.deliver .rne (decide (v.1 < 0)) v.1.natAbs v.2).1

/-- The difference of two exact values. -/
def subExact (a b : Int × Int) : Int × Int :=
  let q := min a.2 b.2
  (a.1 * (2 ^ (a.2 - q).toNat : Nat) - b.1 * (2 ^ (b.2 - q).toNat : Nat), q)

def zeroOrNonfinite (F : Fmt) (c : Nat) : Bool :=
  match F.decode c with
  | .fin _ m _ => m == 0
  | _ => true

def twosum (F : Fmt) (a b : Nat) : Nat × Nat :=
  let hi := (F.add .rne a b).1
  (hi, if zeroOrNonfinite F hi then 0 else rnExact F (subExact (exactSum F [a, b]) (exactSum F [hi])))

/-- The exact product of two finite codes. -/
def exactProd (F : Fmt) (a b : Nat) : Int × Int :=
  match F.decode a, F.decode b with
  | .fin na ma ea, .fin nb mb eb => (if na != nb then -((ma * mb : Nat) : Int) else (ma * mb : Nat), ea + eb)
  | _, _ => (0, 0)

def twoprod (F : Fmt) (a b : Nat) : Nat × Nat :=
  let hi := (F.mul .rne a b).1
  (hi, if zeroOrNonfinite F hi then 0 else rnExact F (subExact (exactProd F a b) (exactSum F [hi])))

/-- PAIRADD as R138 gives it: the pseudocode for finite operands; a non-finite pair adds at the value of R69. -/
def pairadd (F : Fmt) (h l b : Nat) : Nat × Nat :=
  if (F.decode h).isFinite && (F.decode l).isFinite then
    let (s, e) := twosum F h b
    let t := (F.add .rne l e).1
    let hi := (F.add .rne s t).1
    let lo := (F.sub .rne t (F.sub .rne hi s).1).1
    (hi, if zeroOrNonfinite F hi then 0 else lo)
  else
    let v := (F.deliverNum .rne (pairValue (F.decode h) (F.decode l))).1
    ((F.add .rne v b).1, 0)

/-- The flags of a compensated instruction, taken for its whole result (R138). `exact` is the exact result where
every operand is finite. -/
def compFlags (F : Fmt) (ops : List Nat) (r : Nat × Nat) (exact : Int × Int) : Nat :=
  let ns := ops.map F.decode
  let h := F.decode r.1
  let allFin := ns.all Num.isFinite
  let inv := if (h.isNan && !ns.any Num.isNan) || ns.any Num.isSnan then fInvalid else 0
  let infd := !h.isNan && !h.isFinite
  let differs := allFin && (infd || (subExact exact (exactSum F [r.1, r.2])).1 != 0)
  let small := match h with
    | .fin _ m e => m != 0 && decide (Num.binade m e < 1 - (F.bias : Int))
    | _ => false
  inv ||| (if infd && allFin then fOverflow else 0) ||| (if differs then fInexact else 0) |||
    (if differs && small then fUnderflow else 0)

/-- An instruction that writes the pair (vd, vd + 1). -/
def pairwiseOp (fn : Fmt → List Nat → Nat × Nat) (exact : Fmt → List Nat → Int × Int) (rs : VFields → List Nat) :
    VBody := fun _ f t =>
  let ty := f.ty.toNat
  let F := typeFmt ty
  let act := f.active t
  let srcs := VFields.srcs t (rs f)
  let (hi, fl) := mapElems ty act (fun l => let r := fn F l; (r.1, compFlags F l r (exact F l))) srcs
  let (lo, _) := mapElems ty act (fun l => ((fn F l).2, 0)) srcs
  let d := f.vd.toNat
  let mz : Bool := f.mz = 1
  let t' := t.setVreg d (ofLanes (mergeLanes act mz (lanesOf (t.vreg d)) hi))
  ⟨t'.setVreg (d + 1) (ofLanes (mergeLanes act mz (lanesOf (t.vreg (d + 1))) lo)), fl, [], false⟩

def vTwosum : VBody := pairwiseOp (fun F l => twosum F (arg l 0) (arg l 1)) (fun F l => exactSum F l) srcAB
def vTwoprod : VBody :=
  pairwiseOp (fun F l => twoprod F (arg l 0) (arg l 1)) (fun F l => exactProd F (arg l 0) (arg l 1)) srcAB
def vPairadd : VBody :=
  pairwiseOp (fun F l => pairadd F (arg l 0) (arg l 1) (arg l 2)) (fun F l => exactSum F l)
    fun f => [f.va.toNat, f.va.toNat + 1, f.vb.toNat]

/-! ### Compare, class, select (R139) -/

/-- Order of integer elements by predicate. -/
def intCmp (p : Cmp) (ty a b : Nat) : Bool :=
  match p with
  | .eq => a == b
  | .ne => a != b
  | .lt => intLt ty a b
  | .le => !intLt ty b a
  | .gt => intLt ty b a
  | .ge => !intLt ty a b

/-- Bits of a mask from a list of truth values, lane 0 first. -/
def maskOf (l : List Bool) : Nat := l.foldr (fun b a => (if b then 1 else 0) + 2 * a) 0

/-- A mask destination: new bits where active, elsewhere left or cleared (R139). -/
def mergeMask (act : Nat) (mz : Bool) (old new : Nat) : Nat :=
  (new &&& act) ||| if mz then 0 else old &&& (2 ^ 64 - 1 - act)

def vCompare (p : Cmp) : VBody := fun _ f t =>
  let ty := f.ty.toNat
  let act := f.active t
  let a := lanesOf (t.vreg f.va.toNat)
  let b := lanesOf (t.vreg f.vb.toNat)
  let one := fun i =>
    if !bit act i then (false, 0)
    else if 3 ≤ ty then (intCmp p ty (a.getD i 0) (b.getD i 0), 0)
    else Fmt.f32.compare p (a.getD i 0) (b.getD i 0)
  let rs := (List.range 64).map one
  ⟨t.setMreg f.vd.toNat (mergeMask act (f.mz = 1) (t.mreg f.vd.toNat) (maskOf (rs.map (·.1)))),
    rs.foldl (fun a r => a ||| r.2) 0, [], false⟩

/-- SEL: vd = mk ? va : vb in every lane; MASK is the selector and MZ is ignored. -/
def vSel : VBody := fun _ f t =>
  let a := lanesOf (t.vreg f.va.toNat)
  let b := lanesOf (t.vreg f.vb.toNat)
  VEff.plain (t.setVreg f.vd.toNat (ofLanes (mergeLanes (f.active t) false b a)))

/-- The 10-bit class of a binary32 code (R139). -/
def classOf (c : Nat) : Nat :=
  match Fmt.f32.decode c with
  | .nan _ fr => if bit fr 22 then 2 else 1
  | .inf n => if n then 4 else 512
  | .fin n m e =>
    if m = 0 then (if n then 32 else 64)
    else if Num.binade m e < -126 then (if n then 16 else 128)
    else if n then 8 else 256

def vClass : VBody := elementwise (fun _ _ l => (classOf (arg l 0), 0)) srcA

/-- Mask operations act on the lanes MASK makes active, as compares do. -/
def maskOp (fn : Nat → Nat → Nat) : VBody := fun _ f t =>
  let v := fn (t.mreg f.va.toNat) (t.mreg f.vb.toNat) % 2 ^ 64
  VEff.plain (t.setMreg f.vd.toNat (mergeMask (f.active t) (f.mz = 1) (t.mreg f.vd.toNat) v))

def vMand : VBody := maskOp fun a b => a &&& b
def vMor : VBody := maskOp fun a b => a ||| b
def vMnot : VBody := maskOp fun a _ => 2 ^ 64 - 1 - a

/-! ### Lane movement -/

/-- A destination given lane by lane. -/
def laneMove (fn : VFields → Tile → List Nat → List Nat → Nat → Nat) : VBody := fun _ f t =>
  let a := lanesOf (t.vreg f.va.toNat)
  let b := lanesOf (t.vreg f.vb.toNat)
  let new := (List.range 64).map (fn f t a b)
  VEff.plain (t.setVreg f.vd.toNat
    (ofLanes (mergeLanes (f.active t) (f.mz = 1) (lanesOf (t.vreg f.vd.toNat)) new)))

def vPerm : VBody := laneMove fun _ _ a b i => a.getD (b.getD i 0 % 64) 0
def vRot : VBody := laneMove fun f _ a _ i => a.getD ((i + f.count) % 64) 0
def vBfly : VBody := laneMove fun f _ a _ i => a.getD (i ^^^ f.count) 0
def vBcast : VBody := laneMove fun f _ a _ _ => a.getD f.count 0
def vSplat : VBody := laneMove fun f t _ _ _ => t.sreg f.va.toNat % 2 ^ 32
def vIota : VBody := laneMove fun f t _ _ i => (t.sreg f.va.toNat + i) % 2 ^ 32
def vZip : VBody := laneMove fun f _ a b i =>
  if i % 2 = 0 then a.getD (32 * f.half + i / 2) 0 else b.getD (32 * f.half + i / 2) 0
def vUnzip : VBody := laneMove fun f _ a b i =>
  if i < 32 then a.getD (2 * i + f.half) 0 else b.getD (2 * (i - 32) + f.half) 0

/-! ### PACK and UNPACK (R140, R141) -/

/-- Conversion of a value into a pair of the format (R113, Table 3-9): hi, lo and flags. -/
def narrowPair (F : Fmt) (prop : Bool) (x : Num) : Nat × Nat × Nat :=
  let (hi, fl, _) := F.narrow prop false .rne x
  match F.decode hi, x with
  | .fin _ mh _, .fin n m e =>
    if fl &&& fCvtOverflow != 0 || mh == 0 then (hi, 0, fl)
    else
      let v := (signedAt n m e e, e)
      let lo := rnExact F (subExact v (exactSum F [hi]))
      let exact := (subExact v (exactSum F [hi, lo])).1 == 0
      (hi, lo, if exact then 0 else fl ||| fInexact)
  | _, _ => (hi, 0, fl)

/-- Part `p` of a register replaced by 64 elements of width `w`. -/
def putPart (v w p : Nat) (codes : List Nat) : Nat :=
  let s := 64 * w
  let low := v % 2 ^ (s * p)
  let high := v / 2 ^ (s * (p + 1))
  low + packElems w codes * 2 ^ (s * p) + high * 2 ^ (s * (p + 1))

/-- Byte `n` of a register. -/
def byteOf (v n : Nat) : Nat := v / 2 ^ (8 * n) % 256

/-- A register with byte `n` replaced. -/
def setByte (v n b : Nat) : Nat := v % 2 ^ (8 * n) + b % 256 * 2 ^ (8 * n) + v / 2 ^ (8 * (n + 1)) * 2 ^ (8 * (n + 1))

/-- The 64 values PACK converts. -/
def packValues (f : VFields) (t : Tile) : List Num :=
  let hi := (lanesOf (t.vreg f.va.toNat)).map Fmt.f32.decode
  if f.pairsrc then List.zipWith pairValue hi ((lanesOf (t.vreg (f.va.toNat + 1))).map Fmt.f32.decode) else hi

/-- The rounding of each lane: under SR, element index s[SB] + vb[i], tensor id of DESC (R88, R140). -/
def packRnds (i : VIn) (f : VFields) (t : Tile) : List Rnd :=
  let idx := lanesOf (t.vreg f.vb.toNat)
  let base := t.sreg f.packSb
  let tid := (t.desc f.desc).tensorId.toNat
  idx.map fun n => rndOf (i.rnd f) i.key tid (base + n)

def vPack : VBody := fun i f t =>
  match TFmt.ofCode f.fmt with
  | none => VEff.plain t
  | some tf =>
    let d := t.desc f.desc
    let vals := packValues f t
    let w := tf.elem.width
    let dst := f.vd.toNat
    if tf.mx then
      let both := List.zip vals (packRnds i f t)
      let (s0, c0, f0) := blockConvert tf.elem i.prop (both.take 32)
      let (s1, c1, f1) := blockConvert tf.elem i.prop (both.drop 32)
      let ovf := fun (blk : List (Num × Rnd)) =>
        let x := blockX tf.elem (blk.map (·.1))
        blk.map fun v => (v.1, (tf.elem.narrow i.prop true v.2 (v.1.scale (-x))).2.1 &&& fCvtOverflow != 0)
      let codes := fun (x : Tile) => x.setVreg dst (putPart (x.vreg dst) w f.part (c0 ++ c1))
      let scales := fun (x : Tile) =>
        x.setVreg f.vc.toNat (setByte (setByte (x.vreg f.vc.toNat) (2 * f.part) s0) (2 * f.part + 1) s1)
      let t' := if Config.packScalesStand then scales (codes t) else codes (scales t)
      ⟨t', f0 ||| f1, [assayNote i.threshold d f.fmt (ovf (both.take 32) ++ ovf (both.drop 32))], false⟩
    else if tf.pair then
      let rs := vals.map fun v => narrowPair .f16 i.prop (v.scale (-d.k))
      let t' := t.setVreg dst (putPart (t.vreg dst) w f.part (rs.map (·.1)))
      let t' := t'.setVreg (dst + 1) (putPart (t'.vreg (dst + 1)) w f.part (rs.map (·.2.1)))
      ⟨t', rs.foldl (fun a r => a ||| r.2.2) 0,
        [assayNote i.threshold d f.fmt (List.zipWith (fun v r => (v, r.2.2 &&& fCvtOverflow != 0)) vals rs)], false⟩
    else
      let k := if tf.scaled then d.k else 0
      let rs := List.zipWith (fun v r => tf.elem.narrow i.prop false r (v.scale (-k))) vals (packRnds i f t)
      ⟨t.setVreg dst (putPart (t.vreg dst) w f.part (rs.map (·.1))), rs.foldl (fun a r => a ||| r.2.1) 0,
        [assayNote i.threshold d f.fmt (List.zipWith (fun v r => (v, r.2.1 &&& fCvtOverflow != 0)) vals rs)], false⟩

/-- The 64 elements of part `p` of a register as binary32 codes, with flags. -/
def unpackPart (tf : TFmt) (v p : Nat) (s0 s1 : Nat) (k : Int) : List Nat × Nat :=
  let w := tf.elem.width
  let b := v / 2 ^ (64 * w * p)
  let one := fun j =>
    let c := elemAt w b j
    let x := if tf.mx then mxDecode tf.elem (if j < 32 then s0 else s1) c
      else if tf.scaled then (tf.elem.decode c).scale k else tf.elem.decode c
    let (r, fl) := Fmt.f32.deliverNum .rne x.quiet
    (r, fl ||| if x.isSnan then fInvalid else 0)
  let rs := (List.range 64).map one
  (rs.map (·.1), rs.foldl (fun a r => a ||| r.2) 0)

def vUnpack : VBody := fun _ f t =>
  match TFmt.ofCode f.fmt with
  | none => VEff.plain t
  | some tf =>
    let k := (t.desc f.desc).k
    let sc := t.vreg f.vc.toNat
    let (hi, fl) := unpackPart tf (t.vreg f.va.toNat) f.part (byteOf sc (2 * f.part)) (byteOf sc (2 * f.part + 1)) k
    let t' := t.setVreg f.vd.toNat (ofLanes hi)
    if tf.pair then
      let (lo, fl') := unpackPart tf (t.vreg (f.va.toNat + 1)) f.part 0 0 k
      ⟨t'.setVreg (f.vd.toNat + 1) (ofLanes lo), fl ||| fl', [], false⟩
    else ⟨t', fl, [], false⟩

/-! ### Reductions (R142 to R144) -/

/-- One level of the tree: neighbours combined, an unpaired last element passed up. -/
def treeLevel (op : Nat → Nat → Nat × Nat) : List Nat → List Nat × Nat
  | a :: b :: r =>
    let (v, fl) := op a b
    let (vs, fl') := treeLevel op r
    (v :: vs, fl ||| fl')
  | l => (l, 0)

/-- Levels until one value remains; 7 suffice for 128 elements. -/
def treeReduce (op : Nat → Nat → Nat × Nat) : Nat → List Nat → Nat × Nat
  | 0, l => (l.headD 0, 0)
  | n + 1, l =>
    let (l', fl) := treeLevel op l
    let (v, fl') := treeReduce op n l'
    (v, fl ||| fl')

/-- Lanes 0 and 1 of a reduction's destination; lanes 2 to 63 receive +0. -/
def reduceDest (t : Tile) (f : VFields) (v idx : Nat) : Tile :=
  t.setVreg f.vd.toNat (ofLanes (v :: idx :: List.replicate 62 0))

/-- The active elements converted to binary32 (R142), with the flags of converting signalling NaNs. -/
def reduceElems (f : VFields) (t : Tile) : List (Nat × Nat) × Nat :=
  let ty := f.ty.toNat
  let es := activeElems ty (f.active t) (t.vreg f.va.toNat)
  if halfType ty then
    (es.map fun e => (e.1, (Fmt.f32.deliverNum .rne ((typeFmt ty).decode e.2).quiet).1),
      if es.any fun e => ((typeFmt ty).decode e.2).isSnan then fInvalid else 0)
  else (es, 0)

/-- RSUM, RPROD, RMAX, RMIN. -/
def reduce (op : Rnd → Nat → Nat → Nat × Nat) (identity : Nat) : VBody := fun i f t =>
  let (es, fl) := reduceElems f t
  let old := t.vreg f.vd.toNat
  if es.isEmpty then
    ⟨if f.acc then reduceDest t f (laneOf old 0) (laneOf old 1) else reduceDest t f identity 0, 0, [], true⟩
  else
    let r := upperRnd (i.rnd f)
    let (v, fl') := treeReduce (op r) 7 (es.map (·.2))
    let (v, fl'') := if f.acc then op r (laneOf old 0) v else (v, 0)
    ⟨reduceDest t f v 0, fl ||| fl' ||| fl'', [], false⟩

def vRsum : VBody := reduce (fun r a b => Fmt.f32.add r a b) 0
def vRprod : VBody := reduce (fun r a b => Fmt.f32.mul r a b) 0x3F800000
def vRmax : VBody := reduce (fun _ a b => Fmt.f32.maxMin true a b) 0xFF800000
def vRmin : VBody := reduce (fun _ a b => Fmt.f32.maxMin false a b) 0x7F800000

/-- `a` orders strictly beyond `b` under R82, upward or downward. -/
def beyond (up : Bool) (a b : Nat) : Bool :=
  let x := Fmt.f32.decode a
  let y := Fmt.f32.decode b
  let less := fun (p q : Num) => p.lt q || (p.eqv q && p.isNeg && !q.isNeg)
  if up then less y x else less x y

/-- The pair (value, index) held after one more element (R144). -/
def argStep (up : Bool) (held : Option (Nat × Nat)) (v j : Nat) : Option (Nat × Nat) :=
  match held with
  | none => some (v, j)
  | some (hv, hj) =>
    let vn := (Fmt.f32.decode v).isNan
    let hn := (Fmt.f32.decode hv).isNan
    if (vn && !hn) || (!vn && !hn && beyond up v hv) || (v == hv && decide (j < hj)) then some (v, j) else held

def reduceArg (up : Bool) (identity : Nat) : VBody := fun _ f t =>
  let (es, fl) := reduceElems f t
  let old := t.vreg f.vd.toNat
  if es.isEmpty then
    ⟨if f.acc then reduceDest t f (laneOf old 0) (laneOf old 1) else reduceDest t f identity 0xFFFFFF, 0, [], true⟩
  else
    let base := t.sreg f.sb % 2 ^ 24
    let start := if f.acc then some (laneOf old 0, laneOf old 1) else none
    match es.foldl (fun h e => argStep up h e.2 (base + e.1)) start with
    | none => VEff.plain t
    | some (v, j) =>
      let x := Fmt.f32.decode v
      let sn := es.any (fun e => (Fmt.f32.decode e.2).isSnan) || (f.acc && (Fmt.f32.decode (laneOf old 0)).isSnan)
      ⟨reduceDest t f (if x.isNan then v ||| 0x400000 else v) j, fl ||| if sn then fInvalid else 0, [], false⟩

def vRargmax : VBody := reduceArg true 0xFF800000
def vRargmin : VBody := reduceArg false 0x7F800000

/-! ### Tables (R145 to R147) -/

/-- A binary32 word of the table pair held. -/
def tableWord (tab : Bytes) (o : Nat) : Nat := u32At tab o

/-- floor(u) of a binary32 in 0 to 255. -/
def f32Floor (c : Nat) : Nat :=
  match Fmt.f32.decode c with
  | .fin _ m e => if 0 ≤ e then m * 2 ^ e.toNat else m / 2 ^ (-e).toNat
  | _ => 0

/-- The evaluation of R146; every operation rounds to nearest even. -/
def tableEval (tab : Bytes) (deriv : Bool) (x : Nat) : Nat × Nat :=
  let F := Fmt.f32
  let xn := F.decode x
  if xn.isNan then ((F.deliverNum .rne xn.quiet).1, if xn.isSnan then fInvalid else 0) else
  let o := if deriv then 28 else 12
  let (d, f0) := F.sub .rne x (tableWord tab 0)
  let (u, f1) := F.mul .rne d (tableWord tab 8)
  let un := F.decode u
  let tail := fun (bound v s : Nat) =>
    if (F.decode s).isZero then (v, f0 ||| f1)
    else
      let (y, f2) := F.sub .rne x bound
      let (r, f3) := F.fma .rne (F.decode s) (F.decode y) (F.decode v)
      (r, f0 ||| f1 ||| f2 ||| f3)
  if un.lt (.fin false 0 0) then tail (tableWord tab 0) (tableWord tab o) (tableWord tab (o + 4))
  else if !un.lt (.fin false 256 0) then tail (tableWord tab 4) (tableWord tab (o + 8)) (tableWord tab (o + 12))
  else
    let i := f32Floor u
    let (t, _) := F.sub .rne u (f32OfNat i)
    let p := (if deriv then 3136 else 64) + 12 * i
    let (y, f2) := F.fma .rne (F.decode (tableWord tab (p + 8))) (F.decode t) (F.decode (tableWord tab (p + 4)))
    let (r, f3) := F.fma .rne (F.decode y) (F.decode t) (F.decode (tableWord tab p))
    (r, f0 ||| f1 ||| f2 ||| f3)

def vTable (deriv : Bool) : VBody := fun i f t =>
  elementwise (fun _ _ l => tableEval (t.table.getD []) deriv (arg l 0)) srcA i f t

def vTfn : VBody := vTable false
def vTder : VBody := vTable true

/-- The checks of R148 on a pair's domain. -/
def tableOk (tab : Bytes) : Bool :=
  let lo := Fmt.f32.decode (tableWord tab 0)
  let hi := Fmt.f32.decode (tableWord tab 4)
  let w := Fmt.f32.decode (tableWord tab 8)
  lo.isFinite && hi.isFinite && w.isFinite && lo.lt hi && (Num.fin false 0 0).lt w

def tablePairBytes : Nat := 6208

/-! ### Scalars and control -/

def vNop : VBody := fun _ _ t => VEff.plain t
def vSli : VBody := fun _ f t => VEff.plain (t.setSreg f.vd.toNat f.imm)
def vSadd : VBody := fun _ f t => VEff.plain (t.setSreg f.vd.toNat ((t.sreg f.va.toNat + f.imm) % 2 ^ 64))
def vLoop : VBody := fun _ f t => VEff.plain (t.setSreg f.vd.toNat ((t.sreg f.vd.toNat + (2 ^ 64 - 1)) % 2 ^ 64))

end Sys2Proof.Machine
end

