-- ==== Sys2Proof/Machine/MatrixOps.lean ====
section
/-! DEFINITION. Machine/MatrixOps.lean: the matrix unit's arithmetic (R93, R109 to R123): the command word, its
validity, the block sums in strict and fast mode, block scales, and the D image. -/

namespace Sys2Proof.Machine

/-- A matrix command (Table 4-3). -/
structure MxCmd where
  opcode : Nat
  fmtA : Nat
  fmtB : Nat
  fmtC : Nat
  fmtD : Nat
  ta : Bool
  tb : Bool
  accIn : Bool
  reserved : Nat
  descD : Nat
  kb : Nat
  descA : Nat
  descB : Nat
  addrA : Nat
  addrB : Nat
  addrC : Nat
  addrD : Nat
deriving DecidableEq, Repr, Inhabited

/-- The fields of a 128-bit command word; addresses in bytes. -/
def MxCmd.ofWord (w : Nat) : MxCmd where
  opcode := bits w 127 124
  fmtA := bits w 123 120
  fmtB := bits w 119 116
  fmtC := bits w 115 112
  fmtD := bits w 111 108
  ta := bit w 107
  tb := bit w 106
  accIn := bit w 105
  reserved := bits w 104 104 + bits w 67 64
  descD := bits w 103 96
  kb := bits w 95 84
  descA := bits w 83 76
  descB := bits w 75 68
  addrA := bits w 63 48 * 8
  addrB := bits w 47 32 * 8
  addrC := bits w 31 16 * 8
  addrD := bits w 15 0 * 8

def scaledCode (f : Nat) : Bool := f == 3 || f == 13
def mxCode (f : Nat) : Bool := decide (6 ≤ f) && decide (f ≤ 11)

/-- Rate class of a format code (Table 4-4): 0 4-bit, 1 8-bit, 2 16-bit, 3 binary32. -/
def rateClass (f : Nat) : Nat :=
  if f = 10 then 0
  else if (4 ≤ f ∧ f ≤ 9) ∨ f = 11 then 1
  else if f = 0 ∨ f = 12 then 3
  else 2

/-- Bytes of an operand's image that the command reads: a pair's hi plane alone (R112). -/
def operandBytes (f : Nat) : Nat := if f = 12 then 4096 else if f = 13 then 2048 else imageBytes f

/-- From one block image to the next along k: image size (Table 4-3). -/
def MxCmd.spanA (m : MxCmd) : Nat := imageBytes m.fmtA
def MxCmd.spanB (m : MxCmd) : Nat := imageBytes m.fmtB

/-- Validity of R110; `arith` is the region arithmetic byte, `descs` DESC_COUNT. -/
def MxCmd.valid (m : MxCmd) (arith descs : Nat) : Bool :=
  let fmts := [m.fmtA, m.fmtB, m.fmtD] ++ if m.accIn then [m.fmtC] else []
  let scaledC := m.accIn && scaledCode m.fmtC
  let readsD := scaledCode m.fmtD || scaledC || (arith % 8 == 4 && m.fmtD != 0 && m.fmtD != 12)
  m.opcode == 1 && fmts.all (fun f => decide (f ≤ 13)) && m.kb != 0 && m.reserved == 0 &&
  !(m.accIn && mxCode m.fmtC) &&
  (!scaledCode m.fmtA || decide (m.descA < descs)) && (!scaledCode m.fmtB || decide (m.descB < descs)) &&
  (!readsD || decide (m.descD < descs)) &&
  !(mxCode m.fmtA && m.ta) && !(mxCode m.fmtB && !m.tb) &&
  decide (m.addrA + m.kb * m.spanA ≤ tileBytes) && decide (m.addrB + m.kb * m.spanB ≤ tileBytes) &&
  (!m.accIn || decide (m.addrC + imageBytes m.fmtC ≤ tileBytes)) &&
  decide (m.addrD + imageBytes m.fmtD ≤ tileBytes)

/-- Byte ranges the command reads, as (first, length). -/
def MxCmd.reads (m : MxCmd) : List (Nat × Nat) :=
  [(m.addrA, m.kb * m.spanA), (m.addrB, m.kb * m.spanB)] ++ if m.accIn then [(m.addrC, imageBytes m.fmtC)] else []

/-! ### Operand blocks -/

/-- A block ready for the lanes: its 1,024 element codes as a bit string, element format, and per line along k its
scale exponent X, `none` for a scale code of 0xFF. -/
structure Block where
  elem : Elem
  string : Nat
  scales : List (Option Int)
deriving DecidableEq, Repr, Inhabited

/-- A block image read from tile memory. -/
def readBlock (mem : List Host.Cell) (code addr : Nat) (k : Int) : Block :=
  match TFmt.ofCode code with
  | none => ⟨.int8, 0, []⟩
  | some f =>
    let n := 128 * f.elem.width
    let scales := if f.mx then
        (Memory.readBytes mem (addr + n) 32).map fun b => if b = 0xFF then none else some ((b.toNat : Int) - 127)
      else List.replicate 32 (some (if f.scaled then k else 0))
    ⟨f.elem, leNat (Memory.readBytes mem addr n), scales⟩

/-- Element (r, c) of a block image. -/
def Block.el (b : Block) (r c : Nat) : Num := b.elem.decode (elemAt b.elem.width b.string (32 * r + c))

/-- The format's NaN carries no payload: the canonical NaN of R115. -/
def Block.canonNan (b : Block) : Bool :=
  match b.elem with
  | .fmt f => f.specials == .e5m2 || f.specials == .e4m3
  | .int8 => false

/-- The element is E5M2: an infinity is lowest-level (R114). -/
def Block.narrowInf (b : Block) : Bool :=
  match b.elem with
  | .fmt f => f.specials == .e5m2
  | .int8 => false

/-- An element as the lanes take it: SATURATE turns an E5M2 infinity into ±57,344 and sets MX_SAT_INPUT (R114); a
NaN without payload is the canonical one (R115). -/
def Block.lane (b : Block) (prop : Bool) (r c : Nat) : Num × Nat :=
  match b.el r c with
  | .inf n => if b.narrowInf && !prop then (.fin n 7 13, 2 ^ bitMxSatInput) else (.inf n, 0)
  | .nan n f => if b.canonNan then (Num.qnan, 0) else (.nan n f, 0)
  | x => (x, 0)

/-! ### Contributions -/

/-- A number with the sticky bit of the wide form (Table 3-8). -/
structure Wide where
  x : Num
  sticky : Bool
deriving DecidableEq, Repr, Inhabited

/-- Truncation to a 36-bit significand. -/
def Wide.trunc (x : Num) (sticky : Bool) : Wide :=
  match x with
  | .fin n m e =>
    let d := bitLen m - 36
    ⟨.fin n (m / 2 ^ d) (e + d), sticky || m % 2 ^ d != 0⟩
  | _ => ⟨x, sticky⟩

/-- Exact sum of two numbers with its invalid flag; the first NaN met is kept, quiet (R115). -/
def sumNum (rnd : Rnd) (a b : Num) : Num × Nat :=
  match a, b with
  | .nan _ _, _ => (a.quiet, snanFlag [a, b])
  | _, .nan _ _ => (b.quiet, snanFlag [a, b])
  | .inf p, .inf q => if p == q then (a, 0) else (Num.qnan, fInvalid)
  | .inf _, _ => (a, 0)
  | _, .inf _ => (b, 0)
  | .fin na ma ea, .fin nb mb eb =>
    let (v, q) := exactAdd na ma ea nb mb eb
    if v = 0 then (.fin (if ma = 0 ∧ mb = 0 then zeroSign rnd na nb else rnd == .rdn) 0 q, 0)
    else (.fin (decide (v < 0)) v.natAbs q, 0)

/-- Sum of two numbers in the wide form. -/
def wideAdd (rnd : Rnd) (a b : Wide) : Wide × Nat :=
  let (s, fl) := sumNum rnd a.x b.x
  (Wide.trunc s (a.sticky || b.sticky), fl)

/-- Product of two elements with its flags; the first NaN is kept, quiet; ∞ × 0 is invalid (R114, R115). -/
def productNum (a b : Num) : Num × Nat :=
  match a, b with
  | .nan _ _, _ => (a.quiet, snanFlag [a, b])
  | _, .nan _ _ => (b.quiet, snanFlag [a, b])
  | _, _ =>
    match mulNum a b with
    | some p => (p, 0)
    | none => (Num.qnan, fInvalid)

/-- Exact sum of a list in index order. -/
def exactBlockSum : List Num → Num × Nat
  | [] => (.fin false 0 0, 0)
  | p :: ps => ps.foldl (fun a x => let r := sumNum .rne a.1 x; (r.1, a.2 ||| r.2)) (p, 0)

/-- One level of pairwise sums in the wide form. -/
def wideLevel (rnd : Rnd) : List Wide → List Wide × Nat
  | a :: b :: r =>
    let (s, fl) := wideAdd rnd a b
    let (ss, fl') := wideLevel rnd r
    (s :: ss, fl ||| fl')
  | l => (l, 0)

/-- The 32 products added pairwise in index order, in the wide form. -/
def wideTree (rnd : Rnd) : Nat → List Wide → Wide × Nat
  | 0, l => (l.headD ⟨.fin false 0 0, false⟩, 0)
  | n + 1, l =>
    let (l', fl) := wideLevel rnd l
    let (v, fl') := wideTree rnd n l'
    (v, fl ||| fl')

/-- What one output has gathered: flags of the region word, contributions replaced for range and for a NaN scale. -/
structure MxTally where
  flags : Nat
  range : Nat
  nanScale : Nat
deriving DecidableEq, Repr, Inhabited

/-- Contribution of one k-block to one output: its products, the combined exponent (none for a scale of 0xFF). -/
structure MxTerm where
  products : List Num
  flags : Nat
  e : Option Int
deriving DecidableEq, Repr, Inhabited

/-- ±3.40282347 × 10^38. -/
def f32Largest (neg : Bool) : Num := .fin neg 0xFFFFFF 104

/-- Table 4-5: the replacement of an out-of-range or NaN-scale contribution, with its tally; none where E is in range.
`S` is computed first, so that a NaN product makes the contribution a NaN in every row. -/
def mxReplace (prop wide : Bool) (t : MxTerm) : Option (Num × MxTally) :=
  let s := if wide then (wideTree .rne 5 (t.products.map fun p => ⟨p, false⟩)).1.x else (exactBlockSum t.products).1
  match t.e with
  | none => some (if s.isNan then s else Num.qnan, ⟨2 ^ bitMxNanScale, 0, 1⟩)
  | some e =>
    if -149 ≤ e ∧ e ≤ 127 then none
    else
      let r : Num :=
        if s.isNan then s
        else if e < -149 ∨ s.isZero then .fin false 0 0
        else if prop then .inf s.isNeg
        else f32Largest s.isNeg
      some (r, ⟨2 ^ bitMxScaleRange, 1, 0⟩)

def MxTally.add (a b : MxTally) : MxTally := ⟨a.flags ||| b.flags, a.range + b.range, a.nanScale + b.nanScale⟩

/-- One strict step: acc + x, correctly rounded to binary32; without an accumulator x is rounded alone. -/
def strictStep (rnd : Rnd) (acc : Option Nat) (x : Num) : Nat × Nat :=
  match acc with
  | none => Fmt.f32.deliverNum rnd x.quiet
  | some a =>
    let y := Fmt.f32.decode a
    (firstNan .f32 [y, x]).getD (Fmt.f32.addNum rnd y x)

/-- Strict accumulation (Table 3-8): the accumulator input first, then the products in ascending k. -/
def strictOutput (prop : Bool) (rnd : Rnd) (cin : List Num) (ts : List MxTerm) : Nat × MxTally :=
  let step := fun (a : Option Nat × Nat) x => let r := strictStep rnd a.1 x; (some r.1, a.2 ||| r.2)
  let a0 : Option Nat × Nat := cin.foldl step (none, 0)
  let term := fun (a : (Option Nat × Nat) × MxTally) (t : MxTerm) =>
    match mxReplace prop false t with
    | some (r, n) => (step a.1 r, a.2.add ⟨n.flags ||| t.flags, n.range, n.nanScale⟩)
    | none => ((t.products.map (Num.scale (t.e.getD 0))).foldl step a.1, a.2.add ⟨t.flags, 0, 0⟩)
  let (a, n) := ts.foldl term (a0, ⟨0, 0, 0⟩)
  (a.1.getD 0, n.add ⟨a.2, 0, 0⟩)

/-- One rounding of a wide value to binary32, a set sticky bit standing below its last bit. -/
def wideRound (rnd : Rnd) (w : Wide) : Nat × Nat :=
  match w.x with
  | .fin n m e =>
    if m = 0 then Fmt.f32.deliverNum rnd w.x
    else Fmt.f32.deliver rnd n (4 * m + if w.sticky then 1 else 0) (e - 2)
  | x => Fmt.f32.deliverNum rnd x.quiet

/-- Fast accumulation (Table 3-8): block sums in ascending k, the accumulator input last, one rounding. -/
def fastOutput (prop wideClass : Bool) (rnd : Rnd) (cin : List Num) (ts : List MxTerm) : Nat × MxTally :=
  let addW := fun (a : Option Wide × Nat) (w : Wide) =>
    match a.1 with
    | none => (some w, a.2)
    | some x => let r := wideAdd rnd x w; (some r.1, a.2 ||| r.2)
  let term := fun (a : (Option Wide × Nat) × MxTally) (t : MxTerm) =>
    match mxReplace prop wideClass t with
    | some (r, n) => (addW a.1 ⟨r, false⟩, a.2.add ⟨n.flags ||| t.flags, n.range, n.nanScale⟩)
    | none =>
      let e := t.e.getD 0
      if wideClass then
        let (w, fl) := wideTree rnd 5 (t.products.map fun p => ⟨p, false⟩)
        (addW a.1 ⟨w.x.scale e, w.sticky⟩, a.2.add ⟨t.flags ||| fl, 0, 0⟩)
      else
        let (s, fl) := exactBlockSum t.products
        (addW a.1 (Wide.trunc (s.scale e) false), a.2.add ⟨t.flags ||| fl, 0, 0⟩)
  let (a, n) := ts.foldl term ((none, 0), ⟨0, 0, 0⟩)
  let a := cin.foldl (fun a x => addW a ⟨x, false⟩) a
  let (r, fl) := wideRound rnd (a.1.getD ⟨.fin false 0 0, false⟩)
  (r, n.add ⟨a.2 ||| fl, 0, 0⟩)

/-- Fast mode delivers a subnormal binary32 output as zero with its sign (Table 3-8). -/
def flushOutput (c : Nat) : Nat × Bool :=
  if bits c 30 23 = 0 ∧ c % 2 ^ 23 ≠ 0 then (c / 2 ^ 31 * 2 ^ 31, true) else (c, false)

/-! ### A whole command -/

/-- The D image with everything its formation raises. -/
structure MxResult where
  image : Bytes
  tally : MxTally
  flushed : Nat
  notes : List AssayNote
deriving DecidableEq, Repr, Inhabited

/-- The term of output (m, n) for k-block (A, B). -/
def mxTerm (prop : Bool) (c : MxCmd) (ab : Block × Block) (m n : Nat) : MxTerm :=
  let (a, b) := ab
  let one := fun k =>
    let (x, fx) := if c.ta then a.lane prop k m else a.lane prop m k
    let (y, fy) := if c.tb then b.lane prop n k else b.lane prop k n
    let (p, fp) := productNum x y
    (p, fx ||| fy ||| fp)
  let ps := (List.range 32).map one
  let e := match a.scales.getD (if c.ta then 0 else m) none, b.scales.getD (if c.tb then n else 0) none with
    | some x, some y => some (x + y)
    | _, _ => none
  ⟨ps.map (·.1), ps.foldl (fun f p => f ||| p.2) 0, e⟩

/-- The accumulator inputs of output (m, n): hi, then lo for a pair, each times 2^k exact (R112). -/
def mxInputs (mem : List Host.Cell) (c : MxCmd) (k : Int) : List Block :=
  if !c.accIn then []
  else
    let hi := readBlock mem c.fmtC c.addrC k
    if c.fmtC = 12 ∨ c.fmtC = 13 then [hi, readBlock mem c.fmtC (c.addrC + imageBytes c.fmtC / 2) k] else [hi]

/-- One accumulator input of output (m, n); a NaN without payload is the canonical one (R115). -/
def Block.input (b : Block) (m n : Nat) : Num :=
  match b.el m n with
  | .nan g f => if b.canonNan then Num.qnan else .nan g f
  | x => x.scale ((b.scales.getD 0 none).getD 0)

/-- binary32 outputs stored in the format of D (R113): image bytes, flags, notes. -/
def storeD (i : VIn) (c : MxCmd) (d : TensorDesc) (outs : List Nat) : Bytes × Nat × List AssayNote :=
  match TFmt.ofCode c.fmtD with
  | none => ([], 0, [])
  | some tf =>
    let w := tf.elem.width
    let n := 128 * w
    let vals := outs.map Fmt.f32.decode
    let rnd := fun j => rndOf (i.arith % 8) i.key d.tensorId.toNat (d.index (j / 32) (j % 32))
    let rnds := (List.range 1024).map rnd
    if tf.mx then
      let rows := (List.range 32).map fun r => (List.zip vals rnds).drop (32 * r) |>.take 32
      let bs := rows.map (blockConvert tf.elem i.prop)
      let ovf := (rows.map fun row =>
        let x := blockX tf.elem (row.map (·.1))
        row.map fun v => (v.1, (tf.elem.narrow i.prop true v.2 (v.1.scale (-x))).2.1 &&& fCvtOverflow != 0)).flatten
      (leBytes n (packElems w (bs.map (·.2.1)).flatten) ++ bs.map (fun b => BitVec.ofNat 8 b.1),
        bs.foldl (fun a b => a ||| b.2.2) 0, [assayNote i.threshold d c.fmtD ovf])
    else if c.fmtD = 0 then (leBytes n (packElems w outs), 0, [])
    else if c.fmtD = 12 then (leBytes n (packElems w outs) ++ zeros n, 0, [])
    else if tf.pair then
      let rs := vals.map fun v => narrowPair .f16 i.prop (v.scale (-d.k))
      (leBytes n (packElems w (rs.map (·.1))) ++ leBytes n (packElems w (rs.map (·.2.1))),
        rs.foldl (fun a r => a ||| r.2.2) 0,
        [assayNote i.threshold d c.fmtD (List.zipWith (fun v r => (v, r.2.2 &&& fCvtOverflow != 0)) vals rs)])
    else
      let k := if tf.scaled then d.k else 0
      let rs := List.zipWith (fun v r => tf.elem.narrow i.prop false r (v.scale (-k))) vals rnds
      (leBytes n (packElems w (rs.map (·.1))), rs.foldl (fun a r => a ||| r.2.1) 0,
        [assayNote i.threshold d c.fmtD (List.zipWith (fun v r => (v, r.2.1 &&& fCvtOverflow != 0)) vals rs)])

/-- D = A × B + C for one 32 × 32 block (R109 to R118). A format that D stores as it is (binary32, binary32 pair) is
no lowest-level conversion, so nothing of it reaches the assay. -/
def mxCompute (i : VIn) (t : Tile) (c : MxCmd) : MxResult :=
  let rnd := upperRnd (i.arith % 8)
  let kA := (t.desc c.descA).k
  let kB := (t.desc c.descB).k
  let dd := t.desc c.descD
  let blocks := (List.range c.kb).map fun b =>
    (readBlock t.mem c.fmtA (c.addrA + b * c.spanA) kA, readBlock t.mem c.fmtB (c.addrB + b * c.spanB) kB)
  let cins := mxInputs t.mem c dd.k
  let wide := decide (2 ≤ max (rateClass c.fmtA) (rateClass c.fmtB))
  let outputs := (List.range 1024).map fun j =>
    let m := j / 32
    let n := j % 32
    let ts := blocks.map fun ab => mxTerm i.prop c ab m n
    let cin := cins.map fun b => b.input m n
    if i.strict then let (r, y) := strictOutput i.prop rnd cin ts; (r, y, false)
    else
      let (r, y) := fastOutput i.prop wide rnd cin ts
      let (r, fl) := flushOutput r
      (r, y, fl)
  let tally : MxTally := outputs.foldl (fun (a : MxTally) o => a.add o.2.1) ⟨0, 0, 0⟩
  let flushed := (outputs.filter fun o => o.2.2).length
  let (img, fl, notes) := storeD i c dd (outputs.map (·.1))
  ⟨img, ⟨tally.flags ||| fl ||| (if flushed = 0 then 0 else 2 ^ bitMxFlush), tally.range, tally.nanScale⟩, flushed,
    notes⟩

end Sys2Proof.Machine
end

