-- ==== Sys2Proof/Machine/BzOps.lean ====
section
/-! DEFINITION. Machine/BzOps.lean: sending on the Braze fabric (R310 to R312) and the tree of the assay OR and the norm
sum (R318, R323), which the step sequencer and every abort need. -/

namespace Sys2Proof.Machine

/-! ### Ports and numbers -/

def Chip.bzUp (c : Chip) (p : Nat) : Bool := c.reg (Obj.bzPortState p) == 2

/-- Ports that are up, in order. -/
def Chip.bzUpPorts (c : Chip) : List Nat := (List.range 8).filter c.bzUp

/-- Unnumbered (R317). -/
def noModule : Nat := 0xFFFF

/-- Next up port after `p`, in rotation (R312). -/
def Chip.bzNextPort (c : Chip) (p : Nat) : Option Nat :=
  ((List.range 8).map fun i => (p + 1 + i) % 8).find? c.bzUp

/-- BZ_STATE of Table 12-6: 0 no port up; 1 unnumbered; 2 in service; 3 number conflict. -/
def Chip.bzRefreshState (c : Chip) : Chip :=
  let v := if c.bzUpPorts.isEmpty then 0
    else if c.reg Obj.bzModuleNumber = noModule then 1
    else if c.bz.conflict then 3 else 2
  c.setReg Obj.bzState v

/-! ### Flows -/

def BzFlow.start : BzFlow := ⟨0, 0, 7, [], [], 0, 0, [], false⟩

def Chip.bzFlow (c : Chip) (peer : Nat) : BzFlow := Sparse.get BzFlow.start c.bz.flows peer

def Chip.setBzFlow (c : Chip) (peer : Nat) (f : BzFlow) : Chip :=
  { c with bz := { c.bz with flows := Sparse.put BzFlow.start c.bz.flows peer f } }

/-- Bytes in the transmit store: header and payload of every unacknowledged frame. -/
def Chip.bzStoreBytes (c : Chip) : Nat :=
  c.bz.flows.foldl (fun n f => n + f.2.unacked.foldl (fun m s => m + 32 + s.frame.payload.length) 0) 0

def bzStoreLimit : Nat := 33554432
def bzWindow : Nat := 256

def bzFrame (vt flags epoch src dst seq ack channel msg offset k fmt : Nat) (payload : Bytes) : BzFrame :=
  ⟨true, true, ⟨BitVec.ofNat 8 vt, BitVec.ofNat 8 flags, BitVec.ofNat 8 epoch, 0, BitVec.ofNat 16 src,
    BitVec.ofNat 16 dst, BitVec.ofNat 32 seq, BitVec.ofNat 32 ack, BitVec.ofNat 32 channel, BitVec.ofNat 32 msg,
    BitVec.ofNat 32 offset, BitVec.ofNat 16 payload.length, BitVec.ofNat 8 k, BitVec.ofNat 8 fmt⟩, payload⟩

def bzClass (f : BzFrame) : Nat := f.hdr.vt.toNat % 16

/-- The MAC header of a Braze frame (R310). -/
def Chip.bzMac (c : Chip) (h : BzHeader) : MacHeader :=
  let addr (n : Nat) := BitVec.ofNat 48 (0x0254 * 2 ^ 32 + c.reg Obj.bzSiteId * 2 ^ 16 + n)
  ⟨addr h.dst.toNat, addr h.src.toNat, BitVec.ofNat 16 (c.reg Obj.bzEthertype)⟩

/-- A frame leaves on one port: payload bytes are counted (Table 12-6). -/
def Chip.bzEmit (c : Chip) (p : Nat) (f : BzFrame) : Chip :=
  (c.count (Obj.bzPortBytesTx p) f.payload.length 64).emit (.braze p (c.bzMac f.hdr) f)

/-- A frame leaves on the next up port of its flow, or on every up port where FLAGS[2] is set (R312, R318). With no
port up it stays in the store, from which R313 sends it again. -/
def Chip.bzTransmit (c : Chip) (peer : Nat) (f : BzFrame) : Chip :=
  if bit f.hdr.flags.toNat 2 then c.each c.bzUpPorts fun c p => c.bzEmit p f
  else
    match c.bzNextPort (c.bzFlow peer).port with
    | none => c
    | some p => (c.bzEmit p f).setBzFlow peer { c.bzFlow peer with port := p }

/-- An unsequenced frame of class 1, 2 or 6: SEQ 0, never stored (R312). -/
def Chip.bzSendLoose (c : Chip) (cls peer channel msg offset : Nat) (payload : Bytes) : Chip :=
  let fl := c.bzFlow peer
  c.bzTransmit peer (bzFrame (16 + cls) 0 fl.epoch.toNat (c.reg Obj.bzModuleNumber) peer 0 fl.rxNext.toNat channel msg
    offset 0 0 payload)

/-- Frames of class 0, 3, 4 and 5 may leave: the module is numbered, without a conflict, and the peer not lost. -/
def Chip.bzMaySend (c : Chip) (peer : Nat) : Bool :=
  c.reg Obj.bzModuleNumber != noModule && !c.bz.conflict && !(c.bzFlow peer).lost

/-- A waiting frame takes the flow's next SEQ, enters the store and leaves. -/
def Chip.bzLaunch (c : Chip) (peer : Nat) (f : BzFrame) : Chip :=
  let fl := c.bzFlow peer
  let f := { f with hdr := { f.hdr with
    seq := fl.nextSeq, epoch := fl.epoch, ack := fl.rxNext } }
  let c := c.setBzFlow peer { fl with nextSeq := fl.nextSeq + 1, unacked := fl.unacked ++ [⟨f, 0⟩] }
  c.bzTransmit peer f

/-- Room for one more frame of the flow (R312). -/
def Chip.bzRoom (c : Chip) (peer bytes : Nat) : Bool :=
  decide ((c.bzFlow peer).unacked.length < bzWindow) && decide (c.bzStoreBytes + 32 + bytes ≤ bzStoreLimit)

/-- Waiting frames of a flow leave while there is room; `n` bounds their number. -/
def Chip.bzDrain (c : Chip) (peer : Nat) : Nat → Chip
  | 0 => c
  | n + 1 =>
    match (c.bzFlow peer).waiting with
    | [] => c
    | f :: r =>
      if c.bzRoom peer f.payload.length then
        Chip.bzDrain ((c.setBzFlow peer { c.bzFlow peer with waiting := r }).bzLaunch peer f) peer n
      else c

/-- A sequenced frame is handed to its flow. Frames for a lost peer are discarded (R315). -/
def Chip.bzSend (c : Chip) (peer : Nat) (f : BzFrame) : Chip :=
  if !c.bzMaySend peer then c
  else
    let fl := c.bzFlow peer
    (c.setBzFlow peer { fl with waiting := fl.waiting ++ [f] }).bzDrain peer (fl.waiting.length + 1)

/-- Bytes from offset `off` of a message or operand sent in frames of at most 8,192 bytes; the last of them is marked
where they end it (R310). -/
def Chip.bzSendFrom (c : Chip) (cls flags peer channel msg off k fmt : Nat) (ends : Bool) (data : Bytes) : Chip :=
  let ps := if data.isEmpty then [[]] else chunks 8192 data
  c.each ((List.range ps.length).zip ps) fun c ip =>
    c.bzSend peer (bzFrame (16 + cls) (flags + if ends && ip.1 + 1 == ps.length then 2 else 0) 0 (c.reg Obj.bzModuleNumber)
      peer 0 0 channel msg (off + 8192 * ip.1) k fmt ip.2)

/-- A whole message or operand. -/
def Chip.bzSendBytes (c : Chip) (cls flags peer channel msg k fmt : Nat) (data : Bytes) : Chip :=
  c.bzSendFrom cls flags peer channel msg 0 k fmt true data

/-! ### Bindings and credits (R294, R316) -/

def BzCredit.zero : BzCredit := ⟨0, 0, 0, 0⟩

def Chip.bzCredit (c : Chip) (n : Nat) : BzCredit := Sparse.get BzCredit.zero c.bz.credits n

def Chip.setBzCredit (c : Chip) (n : Nat) (x : BzCredit) : Chip :=
  { c with bz := { c.bz with credits := Sparse.put BzCredit.zero c.bz.credits n x } }

/-- Site map in force for a casting slot. -/
def Chip.mapOf (c : Chip) (slot : Nat) : Option MapData := Sparse.get none c.map.maps slot

def Chip.bindings (c : Chip) (slot : Nat) : List MapBinding := ((c.mapOf slot).map (·.bindings)).getD []

/-- Ordinal of the binding entry for a route of a module. -/
def bindingOrdinal (l : List MapBinding) (module route : Nat) : Option Nat :=
  (List.range l.length).find? fun i =>
    match l[i]? with
    | some b => b.module.toNat == module && b.route.toNat == route
    | none => false

def Chip.bindingOf (c : Chip) (slot module route : Nat) : Option Nat := bindingOrdinal (c.bindings slot) module route

/-- CHANNEL of a binding: its ordinal in the map of casting slot 0, and 2^26 more for each slot (DESIGN CHOICE, assumption log 32). -/
def bindingChannel (slot ordinal : Nat) : Nat := slot * 2 ^ 26 + ordinal

/-- Slot and binding entry that a CHANNEL names. -/
def Chip.bindingAt (c : Chip) (channel : Nat) : Option (Nat × MapBinding) :=
  ((c.bindings (channel / 2 ^ 26))[channel % 2 ^ 26]?).map fun b => (channel / 2 ^ 26, b)

/-- `n` receive slots of this module's route were released: the sender's binding is granted that many credits more,
in a credit frame with the cumulative count (R316). CHANNEL names the sending end's binding entry. -/
def Chip.grantCredits (c : Chip) (slot route n : Nat) : Chip :=
  let l := c.bindings slot
  match (bindingOrdinal l (c.reg Obj.bzModuleNumber) route).bind fun i => l[i]? with
  | none => c
  | some b =>
    if b.transfer != 0 then c
    else
      match bindingOrdinal l b.peerModule.toNat b.peerRoute.toNat with
      | none => c
      | some k =>
        let ch := bindingChannel slot k
        let x := c.bzCredit ch
        (c.setBzCredit ch { x with given := x.given + n }).bzSendLoose 2 b.peerModule.toNat ch 0 (x.given + n) []

/-! ### The tree (R318, R323) -/

/-- Children of a module in the tree, where they exist. -/
def treeChildren (m modules : Nat) : List Nat :=
  ((List.range 8).map fun i => 8 * m + 1 + i).filter fun n => decide (n < modules)

def treeParent (m : Nat) : Nat := (m - 1) / 8

/-- Collective number of kinds 5 and 6: no slot, no route, instance 0 of its step (R319). -/
def treeNumber (kind : Nat) : Nat := kind * 2 ^ 28

/-- A decision record as the 32 bytes of Table 8-4; multi-byte fields big-endian, as everything in a Braze frame is
(R310). -/
def recordBytes (r : DecisionRecord) : Bytes :=
  beBytes 4 r.sumsqHi.toNat ++ beBytes 4 r.sumsqLo.toNat ++ beBytes 4 r.redMax.toNat ++ beBytes 4 r.accMax.toNat ++
  beBytes 8 r.nonzero.toNat ++ beBytes 4 r.dropped.toNat ++ [r.maxOcc, r.flags, r.k, 0#8]

def recordOfBytes (b : Bytes) : DecisionRecord :=
  ⟨BitVec.ofNat 32 (beAt b 0 4), BitVec.ofNat 32 (beAt b 4 4), BitVec.ofNat 32 (beAt b 8 4),
    BitVec.ofNat 32 (beAt b 12 4), BitVec.ofNat 64 (beAt b 16 8), BitVec.ofNat 32 (beAt b 24 4),
    BitVec.ofNat 8 (beAt b 28 1), BitVec.ofNat 8 (beAt b 29 1), BitVec.ofNat 8 (beAt b 30 1)⟩

/-- (SUMSQ_HI, SUMSQ_LO) added to a pair (h, l) (R323). -/
def sumsqAdd (h l hi lo : Nat) : Nat × Nat :=
  let F := Fmt.f32
  let (s, e) := twosum F h hi
  let t := (F.add .rne (F.add .rne l lo).1 e).1
  let h' := (F.add .rne s t).1
  (h', (F.sub .rne t (F.sub .rne h' s).1).1)

/-- Sum that stays at the largest value of its width. -/
def satAdd (w a b : Nat) : Nat := min (2 ^ w - 1) (a + b)

/-- Two decision records combined field by field (Table 8-4, R323). -/
def combineRecords (a b : DecisionRecord) : DecisionRecord :=
  let (h, l) := sumsqAdd a.sumsqHi.toNat a.sumsqLo.toNat b.sumsqHi.toNat b.sumsqLo.toNat
  let mx := fun (x y : F32) => BitVec.ofNat 32 (Fmt.f32.maxMin true x.toNat y.toNat).1
  ⟨BitVec.ofNat 32 h, BitVec.ofNat 32 l, mx a.redMax b.redMax, mx a.accMax b.accMax,
    BitVec.ofNat 64 (satAdd 64 a.nonzero.toNat b.nonzero.toNat),
    BitVec.ofNat 32 (satAdd 32 a.dropped.toNat b.dropped.toNat),
    if a.maxOcc < b.maxOcc then b.maxOcc else a.maxOcc, a.flags ||| b.flags,
    if a.k.slt b.k then b.k else a.k⟩

/-- The contribution of the norm sum: records 0 to 8,191 in order (R224). -/
def recordsBytes (m : Sparse DecisionRecord) : Bytes :=
  ((List.range 8192).map fun i => recordBytes (Sparse.get DecisionRecord.zero m i)).flatten

def recordsOfBytes (b : Bytes) : Sparse DecisionRecord :=
  ((List.range 8192).zip (chunks 32 b)).foldl
    (fun m ib => Sparse.put DecisionRecord.zero m ib.1 (recordOfBytes ib.2)) []

/-- Combination of two contributions of a tree collective of this kind. -/
def treeCombine (kind : Nat) (a b : Bytes) : Bytes :=
  if kind = 5 then beBytes 4 (beNat a ||| beNat b)
  else
    let x := recordsOfBytes a
    let y := recordsOfBytes b
    ((List.range 8192).map fun i =>
      recordBytes (combineRecords (Sparse.get DecisionRecord.zero x i) (Sparse.get DecisionRecord.zero y i))).flatten

/-- Bytes of a whole contribution. -/
def treeBytes (kind : Nat) : Nat := if kind = 5 then 4 else 262144

def Chip.treeNode (c : Chip) (number step : Nat) : TreeNode :=
  (c.bz.trees.find? fun t => t.number.toNat == number && t.step.toNat == step).getD
    ⟨BitVec.ofNat 32 number, BitVec.ofNat 32 step, none, [], false, none⟩

def Chip.setTreeNode (c : Chip) (t : TreeNode) : Chip :=
  { c with bz := { c.bz with
    trees := t :: c.bz.trees.filter fun u => !(u.number == t.number && u.step == t.step) } }

/-- The result goes down the tree unchanged. -/
def Chip.treeDown (c : Chip) (t : TreeNode) (r : Bytes) : Chip :=
  let kids := treeChildren (c.reg Obj.bzModuleNumber) (c.reg Obj.bzSiteModules)
  let c := c.each kids fun c m => c.bzSendBytes 5 4 m t.number.toNat t.step.toNat 0 0 r
  c.setTreeNode { t with result := some r }

/-- A node that holds its own contribution and every child's combines them, own first, children in ascending module
number, and passes the result up, or down from the root (R323). -/
def Chip.treeAdvance (c : Chip) (number step : Nat) : Chip :=
  let t := c.treeNode number step
  let kind := number / 2 ^ 28
  let me := c.reg Obj.bzModuleNumber
  let kids := treeChildren me (c.reg Obj.bzSiteModules)
  let parts := kids.map fun k => (t.children.find? fun e => e.1.toNat == k && e.2.length == treeBytes kind).map (·.2)
  match t.own with
  | none => c
  | some own =>
    if t.sentUp || parts.any Option.isNone then c
    else
      let r := parts.foldl (fun a p => treeCombine kind a (p.getD [])) own
      let t := { t with sentUp := true }
      if me = 0 ∨ me = noModule then (c.setTreeNode t).treeDown t r
      else (c.setTreeNode t).bzSendBytes 5 4 (treeParent me) number step 0 0 r

/-- Abort bits of an assay word (Table 8-3, R219). -/
def abortMask : Nat := 0x1F0

/-- A word with an abort bit travels at once, up and down (R323). -/
def Chip.treeAbort (c : Chip) (number step word : Nat) : Chip :=
  let me := c.reg Obj.bzModuleNumber
  let b := beBytes 4 word
  let c := if me = 0 ∨ me = noModule then c else c.bzSendBytes 5 4 (treeParent me) number step 0 0 b
  c.each (treeChildren me (c.reg Obj.bzSiteModules)) fun c m => c.bzSendBytes 5 4 m number step 0 0 b

/-- This module contributes to instance `n` of a tree collective of the step. A word of the assay OR itself that carries
an abort bit travels at once; the vote words of R342 have no such bits. -/
def Chip.treeContributeAt (c : Chip) (n step : Nat) (own : Bytes) : Chip :=
  let c := c.setTreeNode { c.treeNode n step with own := some own }
  if n = treeNumber 5 ∧ beNat own &&& abortMask ≠ 0 then c.treeAbort n step (beNat own) else c.treeAdvance n step

/-- This module contributes to the assay OR or the norm sum of the step. -/
def Chip.treeContribute (c : Chip) (kind step : Nat) (own : Bytes) : Chip := c.treeContributeAt (treeNumber kind) step own

end Sys2Proof.Machine
end

