-- ==== Sys2Proof/Machine/StepOps.lean ====
section
/-! DEFINITION. Machine/StepOps.lean: what other families need of the training step: the abort of R219, this module's
contribution to the assay OR, the next step's number and key, and the stop that R491 and R254 cause. -/

namespace Sys2Proof.Machine

/-- Bits of the assay word (Table 8-3). -/
def abNonfinite : Nat := 0
def abAbsurd : Nat := 1
def abGradOvf : Nat := 2
def abRedOvf : Nat := 3
def abTile : Nat := 4
def abMem : Nat := 5
def abDma : Nat := 6
def abDeadline : Nat := 7
def abStateLost : Nat := 8

def Chip.setWordBits (c : Chip) (mask : Nat) : Chip :=
  { c with step := { c.step with word := c.step.word ||| BitVec.ofNat 32 mask } }

/-! ### Holds (R249, R297) -/

def holdKey (shard slot : Nat) : Nat := 2 * shard + slot

def Chip.holdsOn (c : Chip) (shard slot : Nat) : Nat := Sparse.get 0 c.upd.holds (holdKey shard slot)

/-- HOLDS_OUTSTANDING follows the counts. -/
def Chip.setHolds (c : Chip) (shard slot n : Nat) : Chip :=
  let c := { c with upd := { c.upd with holds := Sparse.put 0 c.upd.holds (holdKey shard slot) n } }
  c.setReg Obj.holdsOutstanding (c.upd.holds.foldl (fun a e => a + e.2) 0)

/-- The hold of a gather is released: counted here for an own shard, told to the owner otherwise. -/
def Chip.releaseHold (c : Chip) (g : Gather) : Chip :=
  if !g.held then c
  else
    match g.ownSlot, g.served with
    | some n, _ => c.setHolds g.shard.toNat n (c.holdsOn g.shard.toNat n - 1)
    | none, some v => c.emit (.holdRelease none g.shard v)
    | none, none => c

/-- Every hold still held is released: the step is committed, skipped or abandoned (R297). -/
def Chip.releaseHolds (c : Chip) : Chip :=
  let c := c.each c.map.gathers Chip.releaseHold
  { c with map := { c.map with gathers := c.map.gathers.map fun g => { g with held := false } } }

/-- The module contributes its assay word (R218, R220); phase 3 begins (Table 8-1). -/
def Chip.contribute (c : Chip) : Chip :=
  let c := { c with step := { c.step with contributed := true, contributeMono := c.time.mono } }
  (c.setReg Obj.stepState 3).treeContribute 5 (c.reg Obj.stepNumber) (beBytes 4 c.step.word.toNat)

/-- An event of R219 sets abort bit `b` with the address it reported. The first one of a step contributes the word at
once, abandons the module's part in the step, and sets STEP_ABORT with its entry. Outside a step, or once the step is
decided, nothing is left to abort. -/
def Chip.abort (c : Chip) (b addr : Nat) : Chip :=
  if !c.step.inStep || c.step.committing then c
  else
    let first := !c.step.abandoned
    let c := c.setWordBits (2 ^ b)
    if !first then c
    else
      let c := { c with step := { c.step with abandoned := true, abortAddr := BitVec.ofNat 64 addr } }
      (c.releaseHolds.occur 4 1 .step noRegion addr 0).contribute

/-- R90: the step key for a round and a step number under the run seed. -/
def stepKey (seed round step : Nat) : Nat :=
  leNat (shake256 8 (leBytes 8 seed ++ leBytes 4 round ++ leBytes 4 step))

/-- A skipped, abandoned or committed step is over: the tiles of every casting stop where they stand. -/
def Chip.tilesToIdle (c : Chip) : Chip :=
  { c with array := { c.array with tiles := c.array.tiles.map fun e =>
    (e.1, if e.2.status == .faulted then e.2 else
      { e.2 with status := .idle, memQueue := [], matrix := [] }) } }

/-- Stepping stops as after a write of 1 to STEP_CONTROL whose step is over: STEP_STATE reads `state`. -/
def Chip.haltStepping (c : Chip) (state : Nat) : Chip :=
  ({ c with step := { c.step with on := false } }).setReg Obj.stepState state

end Sys2Proof.Machine
end

