-- ==== Sys2Proof/Machine/TileOps.lean ====
section
/-! DEFINITION. Machine/TileOps.lean: a tile as part of the module: tile faults and their consequences (R105 to R108),
retirement (R177), accesses of the memory queue (R135, R150), matrix results (R109), queues and messages (R156). -/

namespace Sys2Proof.Machine

/-! ### Where a tile stands -/

/-- Address of a fault-log entry of a tile (R108). -/
def tileAddress (tile addr : Nat) : Nat := tile * 2 ^ 19 + addr

/-- Tile-memory address of the next program word. -/
def Tile.here (t : Tile) : Nat := t.progStart + 8 * t.pc

def Tile.running (t : Tile) : Bool := t.status == .running

/-- Use of a physical tile: unlisted, bound below 512 and a free spare from there (R155). -/
def TileArray.useOf (a : TileArray) (p : Nat) : TileUse :=
  Sparse.get (if p < 512 then TileUse.bound else .spare) a.uses p

def TileArray.setUse (a : TileArray) (p : Nat) (u : TileUse) : TileArray :=
  { a with uses := Sparse.put (if p < 512 then TileUse.bound else .spare) a.uses p u }

/-- Physical tile of a logical tile: unlisted, the tile of the same number (R155). -/
def TileArray.physical (a : TileArray) (l : Nat) : Nat := Sparse.get l a.binding l

/-- Logical tile bound to a physical tile. -/
def TileArray.logical (a : TileArray) (p : Nat) : Option Nat :=
  (List.range 512).find? fun l => a.physical l == p

/-- Casting in slot `s`. -/
def TileArray.casting (a : TileArray) (s : Nat) : Option Casting :=
  (a.castings.find? fun e => e.1 == s).map (·.2)

def TileArray.setCasting (a : TileArray) (s : Nat) (k : Casting) : TileArray :=
  { a with castings := Sparse.insert a.castings s k }

/-- Region h of a loaded casting. -/
def TileArray.regionOf (a : TileArray) (h : Nat) : Option Region :=
  (a.casting (h / 64)).bind fun k => k.regions.find? fun r => r.region == h % 64

/-! ### Retirement (R177 to R180) -/

/-- Free spares in service (Table 4-8). -/
def TileArray.spares (a : TileArray) : List Nat := (List.range 544).filter fun p => a.useOf p == .spare

/-- The tile is marked failed and entered in the retirement record; a remap of its logical tile goes ahead of the
requests that wait at the loader (R176, R179). -/
def Chip.retireTile (c : Chip) (p : Nat) : Chip :=
  if c.array.useOf p == .failed then c
  else
    let wasBound := c.array.useOf p == .bound
    let l := c.array.logical p
    let c := { c with
      array := c.array.setUse p .failed
      emmc := { c.emmc with tilesRetired := if c.emmc.tilesRetired.contains p then c.emmc.tilesRetired
        else c.emmc.tilesRetired ++ [p] } }
    let c := c.count Obj.tilesFailed 1 16
    match l with
    | none => c
    | some l =>
      if wasBound && (c.tile p).region.isSome && c.reg Obj.remapAuto == 1 then
        let q := match c.array.loader with
          | [] => [LoaderOp.remap l]
          | h :: r => h :: LoaderOp.remap l :: r
        { c with array := { c.array with loader := q } }
      else c

/-! ### Tile faults (R108) -/

/-- Position in family 2 of a tile-memory bit where the tile belongs to no loaded region (R488). -/
def tileFamilyBit (b : Nat) : Nat := if b = bitTileMemCorr then 5 else 6

/-- A bit of the region word occurs on a tile, with the tile's address in the entry (R108, R485, R488). -/
def Chip.tileOccur (c : Chip) (tile b addr detail : Nat) : Chip :=
  match (c.tile tile).region with
  | some h => c.occurRegion h b .tile (tileAddress tile addr) detail
  | none => c.occur 2 (tileFamilyBit b) .tile noRegion (tileAddress tile addr) detail

/-- A tile fault: the bit and its entry, the tile stops issuing, its region is stopped by tile fault, and the step in
progress does not commit (R108, R218, R219). -/
def Chip.tileFault (c : Chip) (tile b addr detail : Nat) : Chip :=
  let c := c.tileOccur tile b addr detail
  let c := c.setTile tile { c.tile tile with status := .faulted }
  match (c.tile tile).region with
  | none => c
  | some h =>
    let st := c.reg (Obj.regionState h)
    let c := if st = 4 then c else
      ({ c with array := { c.array with before := Sparse.put 0 c.array.before h st } }).setReg (Obj.regionState h) 4
    let c := (c.setReg (Obj.castingState (h / 64)) 1)
    if st = 2 ∨ st = 3 then c.abort abTile (tileAddress tile addr) else c

/-- What the error correction found in the lines of one access (R106, R107): counts, bits, and whether the data is
delivered. An uncorrectable error faults and retires the tile (R177). -/
def Chip.eccCheck (c : Chip) (tile addr : Nat) (e : EccRead) : Bool × Chip :=
  let c := if e.corrected = 0 then c
    else (c.count Obj.tileMemCorrected e.corrected 64).tileOccur tile bitTileMemCorr addr 0
  if e.uncorrectable then
    (false, ((c.count Obj.tileMemUncorrectable 1 32).tileFault tile bitTileMemUncorr addr 0).retireTile tile)
  else (true, c)

/-! ### Matrix results (R109, R113, R126) -/

/-- The oldest matrix command's D is written, and what it raised takes effect. -/
def Chip.writeD (c : Chip) (tile : Nat) : Chip :=
  let t := c.tile tile
  match t.matrix with
  | [] => c
  | j :: r =>
    let c := c.setTile tile { t with mem := Memory.writeBytes t.mem j.addrD j.image, matrix := r }
    let c := c.count Obj.mxScaleRangeCount j.range 64
    let c := c.count Obj.mxNanScaleCount j.nanScale 64
    let c := c.count Obj.mxFlushCount j.flushed 64
    match t.region with
    | none => c
    | some h =>
      let c := c.raise h j.flags (tileAddress tile j.addr)
      c.each j.notes fun c n => c.assay h ⟨n.1, n.2.1, n.2.2.1, n.2.2.2⟩

/-- Every matrix command in flight completes its write, oldest first. -/
def Chip.writeAllD (c : Chip) (tile : Nat) : Chip :=
  c.each (c.tile tile).matrix fun c _ => c.writeD tile

/-- Byte ranges [a, a + n) and [b, b + m) share a byte. -/
def overlap (a n b m : Nat) : Bool := decide (a < b + m) && decide (b < a + n)

/-- R104: an operation on these bytes waits for every D in flight that shares one; the wait ends with the writes. -/
def Chip.awaitD (c : Chip) (tile addr n : Nat) : Chip :=
  if (c.tile tile).matrix.any fun j => overlap addr n j.addrD j.image.length then c.writeAllD tile else c

/-! ### The memory queue (R135, R150) -/

/-- Lanes of a load in place: bytes of inactive lanes are not read (R132). -/
def loadLanes (mem : List Host.Cell) (addr : Nat) (mask : BitVec 64) (zero : Bool) (old : Nat) : Nat :=
  let new := (List.range 64).map fun i => leNat (Memory.readBytes mem (addr + 4 * i) 4)
  ofLanes (mergeLanes mask.toNat zero (lanesOf old) new)

/-- Bytes of a store: those of inactive lanes are not written (R132). -/
def storeLanes (mem : List Host.Cell) (addr : Nat) (lanes : BitVec 64) (data : Bytes) : List Host.Cell :=
  (List.range (data.length / 4)).foldl (fun m i =>
    if bit lanes.toNat (i % 64) then Memory.writeBytes m (addr + 4 * i) (slice data (4 * i) 4) else m) mem

/-- First byte and length of a queued access. -/
def MemOp.extent : MemOp → Nat × Nat
  | .load _ pair addr _ _ => (addr, if pair then 512 else 256)
  | .store data _ addr => (addr, data.length)
  | .loadScalar _ addr => (addr, 8)
  | .storeScalar _ addr => (addr, 8)

def MemOp.isRead : MemOp → Bool
  | .load .. => true
  | .loadScalar .. => true
  | _ => false

/-- The effect of an access whose data is delivered. -/
def MemOp.apply (o : MemOp) (t : Tile) : Tile :=
  match o with
  | .load vd pair addr mask zero =>
    let t := t.setVreg vd (loadLanes t.mem addr mask zero (t.vreg vd))
    if pair then t.setVreg (vd + 1) (loadLanes t.mem (addr + 256) mask zero (t.vreg (vd + 1))) else t
  | .store data lanes addr => { t with mem := storeLanes t.mem addr lanes data }
  | .loadScalar sd addr => t.setSreg sd (leNat (Memory.readBytes t.mem addr 8))
  | .storeScalar data addr => { t with mem := Memory.writeBytes t.mem addr (leBytes 8 data.toNat) }

/-- The access at the front of the queue takes place. -/
def Chip.accessFront (c : Chip) (tile : Nat) (e : EccRead) : Chip :=
  match (c.tile tile).memQueue with
  | [] => c
  | o :: r =>
    let (a, n) := o.extent
    let c := c.setTile tile { c.tile tile with memQueue := r }
    let c := c.awaitD tile a n
    let (ok, c) := if o.isRead then c.eccCheck tile a e else (true, c)
    if ok then c.setTile tile (o.apply (c.tile tile)) else c

def eccClean : EccRead := ⟨0, false⟩

/-- The queue's first `n` accesses take place. -/
def Chip.accessN (c : Chip) (tile : Nat) : Nat → Chip
  | 0 => c
  | n + 1 => Chip.accessN (c.accessFront tile eccClean) tile n

/-- A load still in the queue writes one of these registers. -/
def MemOp.writes (o : MemOp) (rs : List Nat) : Bool :=
  match o with
  | .load vd pair _ _ _ => rs.contains vd || (pair && rs.contains (vd + 1))
  | .loadScalar sd _ => rs.contains sd
  | _ => false

/-- Length of the shortest queue prefix that holds every load of these registers. -/
def hazardDepth (rs : List Nat) : List MemOp → Nat
  | [] => 0
  | o :: r =>
    let n := hazardDepth rs r
    if n = 0 then (if o.writes rs then 1 else 0) else n + 1

/-- Register numbers an instruction's fields can name. -/
def fieldRegs (f : VFields) : List Nat :=
  [f.vd.toNat, f.vd.toNat + 1, f.va.toNat, f.va.toNat + 1, f.vb.toNat, f.vc.toNat, f.sb, f.packSb]

/-- R134: an instruction issues only when its registers hold every earlier result; the wait ends with the accesses of
the loads concerned. -/
def Chip.settle (c : Chip) (tile : Nat) (f : VFields) : Chip :=
  c.accessN tile (hazardDepth (fieldRegs f) (c.tile tile).memQueue)

/-! ### Queues (R156) -/

def Tile.queue? (t : Tile) (q : Nat) : Option TileQueue := t.queues.find? fun x => x.queue.toNat == q

def Tile.setQueue (t : Tile) (x : TileQueue) : Tile :=
  { t with queues := t.queues.map fun y => if y.queue == x.queue then x else y }

def TileQueue.inbound (q : TileQueue) : Bool := decide (q.queue.toNat < 128)

def TileQueue.slot (q : TileQueue) (i : Nat) : SlotState := q.slots.getD i .free

def TileQueue.setSlot (q : TileQueue) (i : Nat) (s : SlotState) : TileQueue :=
  { q with slots := q.slots.set i s }

def TileQueue.next (q : TileQueue) (i : Nat) : Nat := if q.depth ≤ i + 1 then 0 else i + 1

/-- WAITQ can complete: the oldest slot not yet waited on holds a complete message, or the oldest not yet claimed is
free. -/
def TileQueue.waitReady (q : TileQueue) : Bool :=
  if q.inbound then q.slot q.nextWait == .full else q.slot q.nextWait == .free

/-- The slot is waited on, or claimed. -/
def TileQueue.takeWait (q : TileQueue) : TileQueue :=
  { q.setSlot q.nextWait .held with nextWait := q.next q.nextWait }

/-- RELEASE: the oldest waited slot returns to the router; the oldest claimed slot is handed to it. Without one there
is nothing to release. -/
def TileQueue.release (q : TileQueue) : TileQueue :=
  if q.slot q.nextRelease == .held then
    { q.setSlot q.nextRelease (if q.inbound then .free else .full) with nextRelease := q.next q.nextRelease }
  else q

/-- A message delivered whole into the slot that comes next, where it is free (R157). -/
def Tile.receive (t : Tile) (q : TileQueue) (data : Bytes) : Tile :=
  let t := { t with mem := Memory.writeBytes t.mem (q.base + q.nextMove * q.slotBytes) (padTo q.slotBytes data) }
  t.setQueue { q.setSlot q.nextMove .full with nextMove := q.next q.nextMove }

/-- A message arrives for a queue of a tile; false where no receive slot is free. -/
def Chip.deliver (c : Chip) (tile queue : Nat) (data : Bytes) : Bool × Chip :=
  let t := c.tile tile
  match t.queue? queue with
  | none => (false, c)
  | some q => if q.slot q.nextMove == .free then (true, c.setTile tile (t.receive q data)) else (false, c)

/-- Time since the tile's present stall or work began is added to one of its three times (R172). -/
def Tile.account (t : Tile) (mono : Nat) : Tile :=
  let d := mono - t.since
  match t.status with
  | .waitingQueue q => if q.toNat < 128 then { t with stallIn := t.stallIn + d, since := mono }
      else { t with stallOut := t.stallOut + d, since := mono }
  | .halted => { t with stallOut := t.stallOut + d, since := mono }
  | .idle => { t with since := mono }
  | _ => { t with busy := t.busy + d, since := mono }

end Sys2Proof.Machine
end

