-- ==== Sys2Proof/Machine/DapOps.lean ====
section
/-! DEFINITION. Machine/DapOps.lean: what every dictionary write goes through (R9, R10, R423, R425, R430, R438, R442):
rights, access code, type, length, range, presence, lock and the owning chapter's own conditions; then its effect or its
refusal. A command that is one requester's write of one object goes through `Chip.write`; a request datagram goes
through the same checks item by item (Machine/Dap.lean). -/

namespace Sys2Proof.Machine

/-! ### Status codes (Table 17-7) -/

def stOk : Nat := 0x00
def stAccepted : Nat := 0x01
def stNoObject : Nat := 0x10
def stReadRefused : Nat := 0x11
def stWriteRefused : Nat := 0x12
def stLocked : Nat := 0x13
def stTypeMismatch : Nat := 0x14
def stLength : Nat := 0x15
def stOutOfRange : Nat := 0x16
def stState : Nat := 0x17
def stRights : Nat := 0x18
def stSegment : Nat := 0x19
def stTooBig : Nat := 0x1A
def stAborted : Nat := 0x1B
def stFormat : Nat := 0x20
def stStale : Nat := 0x21
def stXidMismatch : Nat := 0x22
def stBusy : Nat := 0x23

/-! ### Requesters and rights (R425, R426) -/

def Chip.requester (c : Chip) (n : Nat) : Option Requester := c.emmc.config.requesters.find? fun r => r.n.val == n

/-- Access level; none for a requester that is not in the table. -/
def Chip.level (c : Chip) (n : Nat) : Option Nat :=
  if n = 0 then some 0 else (c.requester n).map fun r => r.level.toNat

/-- Objects of the service row of Table 17-5 that stand outside its two ranges: TILES_RETIRED_CLEAR and
MEM_RETIRED_CLEAR. -/
def serviceOnly (key : Nat) : Bool :=
  let ix := key / 256
  (decide (0x6800 ≤ ix) && decide (ix < 0x7000)) || (decide (0x9000 ≤ ix) && decide (ix < 0xA000)) ||
  key == Obj.tilesRetiredClear || key == Obj.memRetiredClear

def mayRead (level key : Nat) : Bool :=
  if level = 0 then key / 256 == 0x1000 && decide (key % 256 ≤ 6) else true

def isEventMask (key : Nat) : Bool := decide (0x1020 ≤ key / 256) && decide (key / 256 ≤ 0x1030) && key % 256 == 3

def mayWrite (level rq key : Nat) : Bool :=
  if level ≤ 1 then false
  else if level = 2 then !serviceOnly key && (!isEventMask key || key / 256 - 0x1020 == rq)
  else true

/-! ### Owning functions (Table 0-6) -/

/-- Stepping runs: a step is in a phase of Table 8-1, or slots are still to open. -/
def Chip.stepping (c : Chip) : Bool :=
  c.step.on || (decide (1 ≤ c.reg Obj.stepState) && decide (c.reg Obj.stepState ≤ 4))

/-- A firmware install is open: its image comes in as segments, or the slot waits to be read back (R469). -/
def Chip.installOpen (c : Chip) : Bool :=
  c.ident.install.isSome || c.dap.transfers.any fun t => t.write && t.key == Obj.fwInstall

/-- A rwl object's owning function runs. R469 itself refuses FW_INSTALL, with STATE. The functions that never stop while
the dictionary serves (the time servo, Braze link management, site-link control, the dictionary server) have no lock
(DESIGN CHOICE, assumption log 12). -/
def Chip.locked (c : Chip) (o : Owner) (index : Nat) : Bool :=
  match o with
  | .stepSequencer => c.stepping
  | .rounds => c.stepping || c.reg Obj.rndState == 4
  | .sillage => c.stepping
  | .replay => c.sil.replay.running
  | .region => let s := c.reg (Obj.regionState (index - 0x3100)); s == 2 || s == 3
  | .dmaChannel => let s := c.reg (Obj.dmaState (index - 0x7100)); s == 1 || s == 2
  | .firmwareInstall => c.installOpen && index != 0x9010
  | _ => false

/-! ### Presence (R442) -/

/-- Families of Table 21-3 with bits. -/
def families : Nat := 14

/-- The element an object belongs to is present. -/
def Chip.present (c : Chip) (key : Nat) : Bool :=
  let ix := key / 256
  if 0x3100 ≤ ix ∧ ix < 0x3200 then (c.array.regionOf (ix - 0x3100)).isSome
  else if 0x8100 ≤ ix ∧ ix < 0x8200 then (c.array.regionOf (ix - 0x8100)).isSome
  else if 0x1020 ≤ ix ∧ ix ≤ 0x1030 then ix == 0x1020 || (c.requester (ix - 0x1020)).isSome
  else if 0x8010 ≤ ix ∧ ix < 0x8030 then decide (ix - 0x8010 < families)
  else if 0x3010 ≤ ix ∧ ix < 0x3014 then (c.array.casting (ix - 0x3010)).isSome
  else true

/-! ### The checks of one write -/

/-- Length of a value against its type (R423). -/
def lengthOk (t : ObjType) (n : Nat) : Bool :=
  match t with
  | .str => decide (n ≤ 255)
  | .blob => decide (n ≤ 1024)
  | .domain => decide (n < 2 ^ 32)
  | _ => n == t.size

/-- Value against type and range (R8, R9). -/
def valueOk (d : ObjDef) (b : Bytes) : Bool :=
  match d.ty with
  | .bool => decide (leNat b ≤ 1)
  | .str => utf8Ok b
  | .blob => true
  | .domain => true
  | _ => d.range.ok (leNat b)

/-- A chapter's own conditions and effect for writes of an object. `cond` answers a status, 0 where it permits the write;
it sees the other writes of the request (R430). -/
structure WriteRule where
  cond : Chip → Nat → Nat → Bytes → List (Nat × Bytes) → Nat
  eff : Chip → Origin → Nat → Bytes → Chip
  /-- Conditions on the state alone that are checked when a DOMAIN write opens too (R434). -/
  opens : Chip → Nat → Nat := fun _ _ => stOk
  /-- What the opening of a DOMAIN write does besides holding its segments. -/
  began : Chip → Chip := id
  /-- What the chapter's own refusal leaves behind besides the entry of R9: key, value and status. -/
  note : Chip → Nat → Bytes → Nat → Chip := fun c _ _ _ => c

def noCond : Chip → Nat → Nat → Bytes → List (Nat × Bytes) → Nat := fun _ _ _ _ _ => 0

/-- The value takes its place in the register file; w1c clears. -/
def Chip.store (c : Chip) (d : ObjDef) (key : Nat) (b : Bytes) : Chip :=
  if d.ty.fixed then
    let v := leNat b
    if d.access = .w1c then c.setReg key (c.reg key - (c.reg key &&& v))
    else if d.access = .wo then c
    else c.setReg key (d.range.stored v)
  else if d.access = .wo then c
  else c.setBlob key b

/-- An object whose write is stored and has no condition of its own. -/
def WriteRule.plain (d : ObjDef) : WriteRule where
  cond := noCond
  eff := fun c _ key b => c.store d key b

/-- The checks that every write of a listed object passes first: level, access, type, length, value, presence, lock
(DESIGN CHOICE, assumption log 13). -/
def Chip.generalStatus (c : Chip) (rq : Nat) (d : ObjDef) (key type : Nat) (b : Bytes) : Nat :=
  match c.level rq with
  | none => stRights
  | some l =>
    if !mayWrite l rq key then stRights
    else if d.access = .ro then stWriteRefused
    else if type ≠ d.ty.code then stTypeMismatch
    else if !lengthOk d.ty b.length then stLength
    else if !valueOk d b then stOutOfRange
    else if !c.present key then stState
    else if d.access = .rwl ∧ c.locked d.owner (key / 256) then stLocked
    else stOk

/-- The status of one write and what a refusal by the owning chapter leaves behind. -/
def Chip.writeStatus (c : Chip) (rq : Nat) (d : ObjDef) (key type : Nat) (b : Bytes) (rule : WriteRule)
    (others : List (Nat × Bytes)) : Nat × Chip :=
  let g := c.generalStatus rq d key type b
  if g ≠ stOk then (g, c)
  else
    let st := rule.cond c rq key b others
    if st = stOk then (st, c) else (st, rule.note c key b st)

/-- The status of one read (R425, R442): an absent element reads a defined value, so only level and access refuse. -/
def Chip.readStatus (c : Chip) (rq : Nat) (d : ObjDef) (key : Nat) : Nat :=
  match c.level rq with
  | none => stRights
  | some l => if !mayRead l key then stRights else if d.access = .wo then stReadRefused else stOk

/-- A refused item writes the entry of R9 and R438. -/
def Chip.refuse (c : Chip) (key status : Nat) : Chip :=
  if status = stOk ∨ status = stAccepted ∨ status = stAborted then c
  else c.log .dap status noRegion key 0

/-- The item's answer. -/
def Chip.answer (c : Chip) (rq key status : Nat) (value : Bytes) : Chip :=
  c.emit (.item rq key (BitVec.ofNat 8 status) value)

/-- Write items answered with ACCEPTED: those of class C. -/
def ObjDef.doneStatus (d : ObjDef) : Nat := if d.cls = .c then stAccepted else stOk

/-- Highest transaction id of a requester (R427): the id under which a write made by a command stands. -/
def Chip.origin (c : Chip) (rq : Nat) : Origin := ⟨Fin.ofNat 17 rq, BitVec.ofNat 32 (c.reg (Obj.reqXidHigh rq))⟩

/-- One requester's write of one object as a command: checked in full, then it takes effect, or it is refused and
changes nothing but the fault log (R9, R430). Before MOD_READY the dictionary does not serve (Table 1-5). -/
def Chip.writeAs (c : Chip) (rq key type : Nat) (b : Bytes) (rule : ObjDef → WriteRule) : Chip :=
  if !c.board.modReady then c
  else
    match Obj.lookup (key / 256) (key % 256) with
    | none => (c.refuse key stNoObject).answer rq key stNoObject []
    | some d =>
      let (st, c) := c.writeStatus rq d key type b (rule d) []
      if st = stOk then (rule d).eff (c.answer rq key d.doneStatus []) (c.origin rq) key b
      else (c.refuse key st).answer rq key st []

/-- The same with the object's own type. -/
def Chip.write (c : Chip) (rq key : Nat) (b : Bytes) (rule : WriteRule) : Chip :=
  c.writeAs rq key (((Obj.find (key / 256) (key % 256)).map fun d => d.ty.code).getD 0) b fun _ => rule

end Sys2Proof.Machine
end

