-- ==== Sys2Proof/Machine/Time.lean ====
section
/-! DEFINITION. Machine/Time.lean: the time unit (R262 to R272): sources and their selection, quality, holdover, slewing
and stepping, PTP, and the period of the reference clock that passes while no command waits. -/

namespace Sys2Proof.Machine

/-! ### Steering (R268) -/

/-- PPS OUT is driven only while time is valid, 10M OUT while the oscillator runs (R36). -/
def Chip.refreshPps (c : Chip) : Chip :=
  { c with board := { c.board with ppsOut := c.time.running && c.timeValid, tenMOut := c.time.running } }

/-- TIME64 moved by `d` ns in one step, with what R268 and R278 record of it. -/
def Chip.stepTime (c : Chip) (d : Int) : Chip :=
  let c := { c with time := { c.time with offset := c.time.offset + d, slew := 0 } }
  (c.occur 6 1 .sl noRegion 0 (unsigned 64 d)).sillageEvent 0xF001 Unit2.sl.code 0 (unsigned 64 d)

/-- An offset of `d` ns toward the source is slewed out, or stepped above 1 ms. -/
def Chip.steer (c : Chip) (d : Int) : Chip :=
  if -1000000 ≤ d ∧ d ≤ 1000000 then ({ c with time := { c.time with slew := d } }).refreshPps
  else (c.stepTime d).refreshPps

/-- 50 µs per s: 1 ns in every 20 µs. -/
def slewPeriod : Nat := 20000

/-- One period of the 500 MHz reference clock: MONO and TIME64 advance by 2 ns, and a slew proceeds. -/
def Chip.tick (c : Chip) : Chip :=
  if !c.time.running then c
  else
    let m := c.time.mono + 2
    let d : Int := if m % slewPeriod = 0 then (if 0 < c.time.slew then 1 else if c.time.slew < 0 then -1 else 0) else 0
    ({ c with time := { c.time with mono := m, offset := c.time.offset + d, slew := c.time.slew - d } }).refreshPps

/-- The block with no command waiting (DESIGN CHOICE, assumption log 5). -/
def tickIdle (s : State) : Host.Outcome State Fault Refusal := s.on Chip.tick

/-! ### The phase source (R265, R266) -/

/-- PTP as a phase source: TIME_SOURCE code of the first port in the slave state, 0 without one (R264). -/
def TimeUnit.ptpSource (t : TimeUnit) : Nat :=
  match (List.range 9).find? fun p => (t.ports[p]?.map fun x => x.state == .slave).getD false with
  | some p => 3 + p
  | none => 0

/-- The source that TIME_REF_SELECT leads to. -/
def TimeUnit.pick (t : TimeUnit) (select : Nat) : Nat :=
  let sma := if t.sma.live then 1 else 0
  let tray := if t.tray.live then 2 else 0
  match select with
  | 1 => sma
  | 2 => tray
  | 3 => t.ptpSource
  | _ => if t.sma.live then 1 else if t.tray.live then 2 else t.ptpSource

/-- Quality code of Table 10-1. -/
def TimeUnit.quality (t : TimeUnit) (src : Nat) : Nat :=
  if !t.set then 0
  else if src = 1 ∨ src = 2 then 6
  else if src = 3 then 4
  else if 3 < src then 5
  else if t.holdoverExpired then 1
  else if t.holdover.isSome then 3
  else if t.byOperator then 2 else 0

/-- Following and holdover after the source became `src`. -/
def TimeUnit.follow (t : TimeUnit) (src : Nat) : TimeUnit :=
  if src ≠ 0 then { t with followed := true, holdover := none, holdoverExpired := false }
  else if t.followed && t.holdover.isNone && !t.holdoverExpired then { t with holdover := some t.mono } else t

/-- The source and the quality code are settled anew; a change is recorded (R278) and reported (event 0x0005). -/
def Chip.retime (c : Chip) : Chip :=
  let src := c.time.pick (c.reg Obj.timeRefSelect)
  let c := { c with time := c.time.follow src }
  let q := c.time.quality src
  let oldS := c.reg Obj.timeSource
  let oldQ := c.reg Obj.timeQuality
  let c := (c.setReg Obj.timeSource src).setReg Obj.timeQuality q
  let c := if oldS = src ∧ oldQ = q then c else c.sillageEvent 0xF002 Unit2.sl.code 0 (q * 256 + src)
  let c := if oldQ = q then c else c.event 5 Obj.timeQuality q 0
  c.refreshPps

/-! ### PPS inputs (R264) -/

def TimeUnit.pps (t : TimeUnit) : PpsInput → PpsState
  | .sma => t.sma
  | .tray => t.tray

def TimeUnit.setPps (t : TimeUnit) (i : PpsInput) (p : PpsState) : TimeUnit :=
  match i with
  | .sma => { t with sma := p }
  | .tray => { t with tray := p }

def PpsInput.source : PpsInput → Nat
  | .sma => 1
  | .tray => 2

/-- What must be added to a TIME64 so that it falls on a whole second, to the nearest. -/
def toSecond (t : Int) : Int :=
  let r := t % 1000000000
  if r < 500000000 then -r else 1000000000 - r

/-- A rising edge at MONO `m`: four in a row at 1 s ± 1 µs make the input live. -/
def PpsState.edge (p : PpsState) (m : Nat) (off : Int) : PpsState :=
  let inTime := match p.lastEdge with
    | some l => decide (999999000 ≤ m - l) && decide (m - l ≤ 1000001000)
    | none => false
  let run := if inTime then p.run + 1 else 1
  { run := run, lastEdge := some m, live := p.live || decide (4 ≤ run), offset := off }

/-- The last edges of two live inputs lie more than 1 µs apart within their second. -/
def ppsDisagree (a b : PpsState) : Bool :=
  match a.live, b.live, a.lastEdge, b.lastEdge with
  | true, true, some x, some y =>
    let d := (if x ≤ y then y - x else x - y) % 1000000000
    decide (1000 < min d (1000000000 - d))
  | _, _, _, _ => false

def Chip.ppsEdge (c : Chip) (i : PpsInput) : Chip :=
  if !c.time.running then c
  else
    let off := toSecond c.now
    let c := { c with time := c.time.setPps i ((c.time.pps i).edge c.time.mono off) }
    let c := c.retime
    let c := if ppsDisagree c.time.sma c.time.tray then c.occur 6 0 .sl noRegion 0 0 else c
    if c.reg Obj.timeSource = PpsInput.source i ∧ c.time.set then c.steer off else c

/-- PPS_EDGE. -/
def execPpsEdge (input : PpsInput) (s : State) : Host.Outcome State Fault Refusal :=
  s.on fun c => c.ppsEdge input

def Chip.ppsLoss (c : Chip) (i : PpsInput) : Chip :=
  if !c.time.running then c
  else ({ c with time := c.time.setPps i { c.time.pps i with run := 0, live := false } }).retime

/-- PPS_LOSS_EXPIRY: 1.5 s without an edge. -/
def execPpsLossExpiry (input : PpsInput) (s : State) : Host.Outcome State Fault Refusal :=
  s.on fun c => c.ppsLoss input

/-- TEN_MHZ_IN_CHANGE: 10M IN comes within or leaves ±5 ppm; frequency comes from it while it is live. -/
def execTenMhzInChange (live : Bool) (s : State) : Host.Outcome State Fault Refusal :=
  s.on fun c => { c with time := { c.time with tenMhz := live } }

def Chip.holdoverEnd (c : Chip) : Chip :=
  if c.time.holdover.isSome then
    ({ c with time := { c.time with holdover := none, holdoverExpired := true } }).retime
  else c

/-- HOLDOVER_EXPIRY: TIME_HOLDOVER_LIMIT has passed since the source was lost. -/
def execHoldoverExpiry (s : State) : Host.Outcome State Fault Refusal :=
  s.on fun c => c.holdoverEnd

/-! ### TIME_SET (R269) -/

/-- Refused while a PTP port is a phase source; otherwise TIME64 is set at once, and the operation has ended. -/
def timeSetRule : WriteRule where
  cond := fun c _ _ _ _ => if c.time.ptpSource = 0 then stOk else stState
  eff := fun c o key b =>
    let v := signed 64 (leNat b)
    let c := { c with time := { c.time with
      offset := v - (c.time.mono : Int), slew := 0, set := true, byOperator := true, followed := false
      holdover := none, holdoverExpired := false } }
    c.retime.complete o key 0 0

/-- TIME_SET. -/
def execTimeSet (rq : Fin 17) (v : BitVec 64) (s : State) : Host.Outcome State Fault Refusal :=
  s.on fun c => c.write rq Obj.timeSet (leBytes 8 v.toNat) timeSetRule

/-- TIME_REF_SELECT: the source is settled anew; following begins anew under the new selection. -/
def timeRefSelectRule (d : ObjDef) : WriteRule where
  cond := noCond
  eff := fun c _ key b =>
    let c := c.store d key b
    ({ c with time := { c.time with followed := false, holdover := none, holdoverExpired := false } }).retime

/-! ### PTP (R270) -/

/-- clockIdentity: EUI-64 from the MAC address with 0xFFFE inserted. -/
def ownClock : BitVec 64 :=
  BitVec.ofNat 64 (beNat (Config.mgmtMac.take 3 ++ [0xFF#8, 0xFE#8] ++ Config.mgmtMac.drop 3))

/-- The module's own data set. -/
def Chip.ownPtp (c : Chip) : PtpAnnounce :=
  let q := c.reg Obj.timeQuality
  let cls := if c.reg Obj.ptpGmCapable = 0 then 255 else if q = 6 then 6 else if q = 3 then 7 else 248
  ⟨BitVec.ofNat 8 (c.reg Obj.ptpPriority1), BitVec.ofNat 8 cls, if q = 6 then 0x21 else 0xFE, Config.ptpVariance,
    BitVec.ofNat 8 (c.reg Obj.ptpPriority2), ownClock, 0, ownClock⟩

/-- Data sets in the order in which IEEE 1588-2019 compares them. -/
def announceOrder (a : PtpAnnounce) : List Nat :=
  [a.priority1.toNat, a.clockClass.toNat, a.clockAccuracy.toNat, a.variance.toNat, a.priority2.toNat,
    a.gmIdentity.toNat, a.stepsRemoved.toNat, a.sender.toNat]

def lexLt : List Nat → List Nat → Bool
  | x :: xs, y :: ys => decide (x < y) || (x == y && lexLt xs ys)
  | _, _ => false

def announceBetter (a b : PtpAnnounce) : Bool := lexLt (announceOrder a) (announceOrder b)

/-- The best announce heard, with its port. -/
def TimeUnit.ptpBest (t : TimeUnit) : Option (Nat × PtpAnnounce) :=
  (List.range 9).foldl (fun best p =>
    match best, (t.ports[p]?).bind fun x => x.best with
    | none, some a => some (p, a)
    | some (q, b), some a => if announceBetter a b then some (p, a) else some (q, b)
    | b, none => b) none

/-- Port p of PTP is enabled and its link is up: 0 is the management port, p + 1 Braze port p. -/
def Chip.ptpLive (c : Chip) (p : Nat) : Bool :=
  c.time.running && bit (c.reg Obj.ptpPortEnable) p && (if p = 0 then c.dap.linkUp else c.bzUp (p - 1))

/-- Port state by the best master clock algorithm. -/
def portDecision (own : PtpAnnounce) (best : Option (Nat × PtpAnnounce)) (p : Nat) (x : PtpPort) : PtpState :=
  match x.best with
  | none => if x.state == .listening || x.state == .disabled then .listening else .master
  | some a =>
    if own.clockClass.toNat ≤ 127 then (if announceBetter own a then .master else .passive)
    else
      match best with
      | none => .master
      | some (q, b) =>
        if announceBetter own b then .master
        else if q = p then .slave
        else if a.gmIdentity = b.gmIdentity then .passive
        else .master

def PtpState.code : PtpState → Nat
  | .disabled => 3
  | .listening => 4
  | .master => 6
  | .passive => 7
  | .slave => 9

/-- Port states, grandmaster and steps removed are settled anew, then the phase source. -/
def Chip.ptpDecide (c : Chip) : Chip :=
  let ports := ((List.range 9).zip c.time.ports).map fun px =>
    if c.ptpLive px.1 then px.2 else { PtpPort.reset with state := .disabled }
  let t := { c.time with ports := ports }
  let best := t.ptpBest
  let own := c.ownPtp
  let ports := ((List.range 9).zip ports).map fun px =>
    if c.ptpLive px.1 then { px.2 with state := portDecision own best px.1 px.2 } else px.2
  let t := { t with ports := ports }
  let c := { c with time := t }
  let c := c.setBlob Obj.ptpPortState (ports.map fun x => BitVec.ofNat 8 x.state.code)
  let gm := match best with
    | some (_, a) => if t.ptpSource = 0 then (own.gmIdentity, 0) else (a.gmIdentity, a.stepsRemoved.toNat + 1)
    | none => (own.gmIdentity, 0)
  ((c.setBlob Obj.ptpGmIdentity (beBytes 8 gm.1.toNat)).setReg Obj.ptpStepsRemoved gm.2).retime

/-- A PTP configuration object. -/
def ptpRule (d : ObjDef) : WriteRule where
  cond := noCond
  eff := fun c _ key b => (c.store d key b).ptpDecide

def Chip.setPort (c : Chip) (p : Nat) (x : PtpPort) : Chip :=
  { c with time := { c.time with ports := c.time.ports.set p x } }

/-- Time of day taken from PTP: set for the first time, steered while PTP is the phase source, or moved by whole
seconds under another one. -/
def Chip.ptpTime (c : Chip) (p : Nat) (d : Int) : Chip :=
  let c1 := { c with time := { c.time with set := true, byOperator := false } }
  if !c.time.set then (c1.steer d).retime
  else if c.reg Obj.timeSource = 3 + p then c1.steer d
  else
    let whole := d + toSecond d
    if whole = 0 then c1 else c1.stepTime whole

/-- A message at PTP port p. -/
def Chip.ptpMessage (c : Chip) (p : Nat) (m : PtpMessage) : Chip :=
  if !c.ptpLive p then c
  else
    let x := c.time.ports.getD p PtpPort.reset
    match m with
    | .announce a =>
      let take := match x.best with
        | none => true
        | some b => a.sender == b.sender || announceBetter a b
      if take then (c.setPort p { x with best := some a }).ptpDecide else c
    | .sync rx => c.setPort p { x with syncRx := some rx }
    | .followUp origin =>
      match x.state, x.syncRx with
      | .slave, some rx =>
        (c.setPort p { x with syncRx := none, lastSync := some (rx, origin) }).ptpTime p (origin + x.pathDelay - rx)
      | _, _ => c.setPort p { x with syncRx := none }
    | .delayReq rx => if x.state == .master then c.emit (.ptp p .delayResp rx) else c
    | .delayResp rx =>
      match x.lastSync, x.reqTx with
      | some (t2, t1), some t3 => c.setPort p { x with reqTx := none, pathDelay := ((t2 - t1) + (rx - t3)) / 2 }
      | _, _ => c
    | .pdelayReq rx =>
      if p = 0 then c else (c.emit (.ptp p .pdelayResp rx)).emit (.ptp p .pdelayRespFollowUp c.now)
    | .pdelayResp rxAtPeer rx => if p = 0 then c else c.setPort p { x with respAt := some (rxAtPeer, rx) }
    | .pdelayRespFollowUp txAtPeer =>
      match x.reqTx, x.respAt with
      | some t1, some (t2, t4) =>
        c.setPort p { x with reqTx := none, respAt := none, pathDelay := ((t4 - t1) - (txAtPeer - t2)) / 2 }
      | _, _ => c

/-- PTP_MESSAGE. -/
def execPtpMessage (port : Fin 9) (m : PtpMessage) (s : State) : Host.Outcome State Fault Refusal :=
  s.on fun c => c.ptpMessage port m

/-- No announce for 3 intervals: the port has no best master. -/
def Chip.announceTimeout (c : Chip) (p : Nat) : Chip :=
  if !c.ptpLive p then c
  else
    let x := c.time.ports.getD p PtpPort.reset
    (c.setPort p { x with best := none, state := .master, lastSync := none }).ptpDecide

/-- PTP_ANNOUNCE_TIMEOUT. -/
def execPtpAnnounceTimeout (port : Fin 9) (s : State) : Host.Outcome State Fault Refusal :=
  s.on fun c => c.announceTimeout port

/-- An interval of Table 10-2 ends: the port sends what its state and delay mechanism call for. -/
def Chip.ptpTransmit (c : Chip) (p : Nat) (w : PtpSend) : Chip :=
  if !c.ptpLive p then c
  else
    let x := c.time.ports.getD p PtpPort.reset
    match w with
    | .sync =>
      if x.state == .master then (c.emit (.ptp p (.timed .sync) c.now)).emit (.ptp p .followUp c.now) else c
    | .announce => if x.state == .master then c.emit (.ptp p (.timed .announce) c.now) else c
    | .delayReq =>
      if p = 0 && x.state == .slave then
        (c.setPort p { x with reqTx := some c.now }).emit (.ptp p (.timed .delayReq) c.now)
      else c
    | .pdelayReq =>
      if p = 0 then c
      else (c.setPort p { x with reqTx := some c.now, respAt := none }).emit (.ptp p (.timed .pdelayReq) c.now)

/-- PTP_TRANSMIT_TIMER. -/
def execPtpTransmitTimer (port : Fin 9) (what : PtpSend) (s : State) : Host.Outcome State Fault Refusal :=
  s.on fun c => c.ptpTransmit port what

end Sys2Proof.Machine
end

