-- ==== Sys2Proof/Machine/Sillage.lean ====
section
/-! DEFINITION. Machine/Sillage.lean: the sillage record (R273 to R283): start, step and event records, the spill,
fingerprints, and the comparison of two step records. -/

namespace Sys2Proof.Machine

/-! ### Start and step records -/

/-- Last sequence number in the spill area; all ones where it is empty. -/
def Emmc.lastSpilled (e : Emmc) : Nat :=
  match e.spill.getLast? with
  | some r => r.1
  | none => 2 ^ 64 - 1

/-- The START record of R275: reset kind, last spilled sequence number, version of the last committed step. Events that
waited for it follow in a record of their own (R278). -/
def Chip.startRecord (c : Chip) : Chip :=
  let body := leBytes 1 (c.reg Obj.resetLastKind) ++ zeros 7 ++ leBytes 8 c.emmc.lastSpilled ++
    leBytes 4 (c.reg Obj.shardVersionRound) ++ leBytes 4 (c.reg Obj.shardVersionStep)
  let evs := c.sil.events
  let c := ({ c with sil := { c.sil with events := [] } }).record 2 0 [section8 1 body] c.now c.time.mono
  if evs.isEmpty then c else c.record 3 0 [section8 7 evs.flatten] c.now c.time.mono

/-- A decision record in the layout of Table 8-4, little-endian as in every sillage layout (R6). -/
def recordBytesLe (r : DecisionRecord) : Bytes :=
  leBytes 4 r.sumsqHi.toNat ++ leBytes 4 r.sumsqLo.toNat ++ leBytes 4 r.redMax.toNat ++ leBytes 4 r.accMax.toNat ++
  leBytes 8 r.nonzero.toNat ++ leBytes 4 r.dropped.toNat ++ [r.maxOcc, r.flags, r.k, 0#8]

/-- binary32 code of a ratio of sums, 0 without samples. -/
def meanCode (sum : Rat) (n : Nat) (now : Rat) : Nat :=
  let v := if n = 0 then now else sum / n
  if v = 0 then 0 else f32OfRatio (decide (v < 0)) v.num.natAbs v.den

/-- binary32 of a rational number, rounded to nearest. -/
def f32OfRat (v : Rat) : Nat := meanCode v 1 v

/-- Value of a finite binary32 code as a rational; 0 otherwise. -/
def ratOf (F : Fmt) (code : Nat) : Rat :=
  match F.decode code with
  | .fin n m e =>
    let v : Rat := if 0 ≤ e then ((m * 2 ^ e.toNat : Nat) : Rat) else (m : Rat) / ((2 ^ (-e).toNat : Nat) : Rat)
    if n then -v else v
  | _ => 0

/-- Body of STEP_SUMMARY (Table 10-5). -/
def Chip.summaryBody (c : Chip) (outcome combined : Nat) : Bytes :=
  let m := c.step.means
  leBytes 8 c.step.key.toNat ++
  ((List.range 4).map fun s => leBytes 8 (((c.array.casting s).map fun k => k.id.toNat).getD 0)).flatten ++
  leBytes 1 outcome ++ leBytes 1 (if c.step.warm then 1 else 0) ++ leBytes 1 c.step.pacingMax ++ zeros 1 ++
  leBytes 4 c.step.word.toNat ++ leBytes 4 combined ++
  leBytes 4 (if outcome = 1 then c.upd.g.toNat else 0) ++ leBytes 4 c.upd.lr.toNat ++ leBytes 4 c.upd.clip.toNat ++
  leBytes 8 (c.reg Obj.updatesApplied) ++ leBytes 4 c.step.patinaAtOpen ++ zeros 4 ++ leBytes 8 c.now64 ++
  leBytes 8 (c.reg Obj.stepTimeNs) ++ leBytes 8 (c.reg Obj.slotsTimeNs) ++ leBytes 8 (c.reg Obj.reduceTimeNs) ++
  leBytes 8 (c.reg Obj.decideTimeNs) ++ leBytes 8 (c.reg Obj.updateTimeNs) ++
  leBytes 4 (meanCode m.hcWacor m.hcN c.gov.hcWacor) ++ leBytes 4 (meanCode m.hcLink m.hcN c.gov.hcLink) ++
  leBytes 4 (meanCode m.vcore m.govN (ratOf .f32 (c.reg Obj.vcoreWacor))) ++
  leBytes 4 (meanCode m.power m.govN (ratOf .f32 (c.reg Obj.inputPower)))

/-- Body of REGIONS: every running region of every casting (Table 10-4). -/
def Chip.regionsBody (c : Chip) : Bytes :=
  (c.array.castings.map fun e =>
    (e.2.regions.map fun r =>
      let h := regionIndex e.1 r.region
      if c.reg (Obj.regionState h) = 2 ∨ c.reg (Obj.regionState h) = 3 then
        leBytes 1 e.1 ++ leBytes 1 r.region ++ leBytes 1 (c.reg (Obj.regionArith h)) ++ zeros 1 ++
        leBytes 2 r.stage.toNat ++ zeros 2 ++ leBytes 8 (c.reg (Obj.stallInNs h)) ++
        leBytes 8 (c.reg (Obj.stallOutNs h)) ++ leBytes 8 (c.reg (Obj.busyNs h))
      else []).flatten).flatten

/-- Reduction form recorded for a scale index: that of its layer, 0xFF for the input-gradient class. -/
def Chip.formOf (c : Chip) (i : Nat) : Nat := if i % 2 = 1 then 0xFF else Sparse.get 0 c.step.forms (i / 2)

def Chip.scalesBody (c : Chip) : Bytes :=
  (c.step.held.map fun i =>
    leBytes 2 i ++ leBytes 1 (Sparse.get 0#8 c.step.scaleK i).toNat ++ leBytes 1 (c.formOf i)).flatten

def Chip.decisionsBody (c : Chip) : Bytes :=
  match c.step.records with
  | none => []
  | some m => (m.map fun e => if e.2.k = 0x80 then [] else leBytes 2 e.1 ++ zeros 2 ++ recordBytesLe e.2).flatten

def Chip.dropsBody (c : Chip) : Bytes :=
  (c.step.deltaDrops.map fun e => leBytes 8 e.1 ++ leBytes 4 e.2.1 ++ leBytes 4 e.2.2.toNat).flatten

/-- The step's record (R276, R277): sections in type order, empty ones left out. `compare` is the COMPARE body of a
replay, `flags` FLAGS[1:0]. -/
def Chip.stepRecord (c : Chip) (outcome combined flags : Nat) (compare : Bytes) : Chip :=
  let bodies := [(1, c.summaryBody outcome combined), (2, c.regionsBody), (3, c.scalesBody), (4, c.decisionsBody),
    (5, c.sil.prints.flatten), (6, c.dropsBody), (7, c.sil.events.flatten), (8, compare)]
  let secs := (bodies.filter fun b => !b.2.isEmpty).map fun b => section8 b.1 b.2
  let c := { c with sil := { c.sil with events := [], prints := [], afterReplay := false } }
  c.record 1 flags secs c.step.openTime c.step.openMono

/-! ### Spill (R274) -/

/-- Bytes of the spill area in the eMMC. -/
def spillBytes : Nat := 48 * 2 ^ 30

/-- The spill area with one record more, its oldest overwritten where it is full. -/
def spillPush (l : List (Nat × Bytes)) (r : Nat × Bytes) : List (Nat × Bytes) :=
  let l := l ++ [r]
  if spillBytes < l.foldl (fun n e => n + e.2.length) 0 then l.drop 1 else l

/-- The oldest record not yet copied is written to the spill area, or the write fails and spilling stops. -/
def Chip.spill (c : Chip) (written : Outcome1) : Chip :=
  if c.reg Obj.slSpillEnable = 0 || c.sil.spillStopped || !c.board.emmcOpen then c
  else
    match c.sil.ring[c.sil.spilled]? with
    | none => c
    | some r =>
      match written with
      | .failed => ({ c with sil := { c.sil with spillStopped := true } }).occur 6 3 .sl noRegion 0 0
      | .ok => { c with
          sil := { c.sil with spilled := c.sil.spilled + 1 }
          emmc := { c.emmc with spill := spillPush c.emmc.spill r } }

/-- SILLAGE_SPILL. -/
def execSillageSpill (written : Outcome1) (s : State) : Host.Outcome State Fault Refusal :=
  s.on fun c => c.spill written

/-- Records held in spill area or ring from a sequence number on, in order, each once. -/
def Chip.heldRecords (c : Chip) : List (Nat × Bytes) :=
  let first := match c.sil.ring with
    | [] => c.sil.nextSeq
    | r :: _ => r.1
  (c.emmc.spill.filter fun r => decide (r.1 < first)) ++ c.sil.ring

/-! ### Fingerprints (R279 to R281) -/

/-- State of the sums of R280: (hi, lo), (qh, ql), mx, nf, z. -/
structure FpSums where
  hi : Nat
  lo : Nat
  qh : Nat
  ql : Nat
  mx : Nat
  nf : Nat
  z : Nat

/-- One value; `counts` says whether a zero of it counts. -/
def FpSums.add (s : FpSums) (x : Num) (counts : Bool) : FpSums :=
  match x with
  | .fin n m e =>
    let F := Fmt.f64
    let v := (F.deliver .rne n m e).1
    let (hi, lo) := pairadd F s.hi s.lo v
    let (qh, ql) := pairadd F s.qh s.ql (F.deliver .rne false (m * m) (2 * e)).1
    let a := (F.deliver .rne false m e).1
    { s with hi := hi, lo := lo, qh := qh, ql := ql, mx := (F.maxMin true s.mx a).1
             z := if m = 0 ∧ counts then s.z + 1 else s.z }
  | _ => { s with nf := s.nf + 1 }

/-- Elements, each a value or the two of a pair. -/
def fpSums (els : List (List Num)) : FpSums :=
  els.foldl (fun s el =>
    match el with
    | [] => s
    | x :: r => r.foldl (fun s y => s.add y false) (s.add x true)) ⟨0, 0, 0, 0, 0, 0, 0⟩

/-- An entry of Table 10-6. -/
def fpEntry (key shard point fmt rate count : Nat) (s : FpSums) (stored : Bytes) : Bytes :=
  leBytes 8 key ++ leBytes 4 shard ++ leBytes 1 point ++ leBytes 1 fmt ++ leBytes 1 rate ++ zeros 1 ++ leBytes 8 count ++
  leBytes 8 s.hi ++ leBytes 8 s.lo ++ leBytes 8 (Fmt.f64.add .rne s.qh s.ql).1 ++ leBytes 8 s.mx ++ leBytes 8 s.nf ++
  leBytes 8 s.z ++ shake256 8 stored

/-- A fingerprint joins the step's record where its point is enabled. -/
def Chip.fingerprint (c : Chip) (key shard point fmt rate : Nat) (els : List (List Num)) (stored : Bytes) : Chip :=
  if bit (c.reg Obj.slFpPoints) (point - 1) then
    { c with sil := { c.sil with prints := c.sil.prints ++
      [fpEntry key shard point fmt rate els.length (fpSums els) stored] } }
  else c

/-- Format watched for a route of a casting slot (SL_FP_WATCH: slot U8, route U16, FORMAT U8). -/
def Chip.watched (c : Chip) (slot route : Nat) : Option Nat :=
  ((chunks 4 (c.blob Obj.slFpWatch)).find? fun e => u8At e 0 == slot && u16At e 1 == route && e.length == 4).map
    fun e => u8At e 3

/-- Values of a message in a plain or scaled format; 0x3 without a descriptor has no scale of its own. -/
def plainValues (fmt : Nat) (b : Bytes) : List (List Num) :=
  match TFmt.ofCode fmt with
  | none => []
  | some f =>
    let w := f.elem.width
    let v := leNat b
    (List.range (8 * b.length / w)).map fun i => [f.elem.decode (elemAt w v i)]

/-- Point 5: a message on a watched route (R279, R280). -/
def Chip.watchMessage (c : Chip) (slot route : Nat) (b : Bytes) : Chip :=
  if !c.step.inStep then c
  else
    match c.watched slot route with
    | none => c
    | some fmt =>
      if !bit (c.reg Obj.slFpPoints) 4 then c
      else
        let key := slot * 65536 + route
        let e := if fmt ≤ 5 then
            let els := plainValues fmt b
            fpEntry key 0xFFFFFFFF 5 fmt 0 els.length (fpSums els) b
          else fpEntry key 0xFFFFFFFF 5 fmt 0 b.length (fpSums []) b
        { c with sil := { c.sil with prints := c.sil.prints ++ [e] } }

/-- SL_FP_WATCH: up to 64 whole entries of 4 bytes. -/
def fpWatchRule (d : ObjDef) : WriteRule where
  cond := fun _ _ _ b _ => if b.length % 4 = 0 ∧ b.length ≤ 256 then stOk else stLength
  eff := fun c _ key b => c.store d key b

/-! ### Reading a record (R276, R277) -/

/-- Sections of a record from offset `o`: type and body. -/
def sectionsFrom (r : Bytes) : Nat → Nat → List (Nat × Bytes)
  | _, 0 => []
  | o, n + 1 =>
    let len := u32At r (o + 4)
    (u16At r o, slice r (o + 8) len) :: sectionsFrom r (alignUp 8 (o + 8 + len)) n

/-- Body of a record's section of this type; empty where it has none. -/
def sectionOf (r : Bytes) (type : Nat) : Bytes :=
  (((sectionsFrom r 80 (u16At r 0x0C)).find? fun s => s.1 == type).map (·.2)).getD []

/-- A byte string cut into records by RECORD_BYTES; none where the lengths do not fit. -/
def splitRecords : Nat → Bytes → Option (List Bytes)
  | 0, b => if b.isEmpty then some [] else none
  | f + 1, b =>
    if b.isEmpty then some []
    else
      let n := u32At b 8
      if n < 112 ∨ b.length < n then none else (splitRecords f (b.drop n)).map fun l => b.take n :: l

/-- DIGEST of a record covers every earlier byte. -/
def digestOk (r : Bytes) : Bool := r.drop (r.length - 32) == digest32 (r.take (r.length - 32))

/-- PREV_DIGEST of each record names the one before it. -/
def chainOk : List Bytes → Bool
  | a :: b :: r => slice b 0x40 16 == (a.drop (a.length - 32)).take 16 && chainOk (b :: r)
  | _ => true

/-! ### Comparing two step records (R282, R283) -/

/-- |a − b| ≤ ε |a|, for finite numbers; equal codes always agree. -/
def relClose (F : Fmt) (eps : Rat) (a b : Nat) : Bool :=
  a == b || ((F.decode a).isFinite && (F.decode b).isFinite &&
    (let x := ratOf F a
     let y := ratOf F b
     let d := if x ≤ y then y - x else x - y
     decide (d ≤ eps * (if 0 ≤ x then x else -x))))

def natClose (eps : Rat) (a b : Nat) : Bool :=
  decide (((if a ≤ b then b - a else a - b : Nat) : Rat) ≤ eps * (a : Rat))

/-- ε of a point, 1 to 5, and ε_z as the sixth (REPLAY_TOLERANCES; its defaults where it is empty). -/
def Chip.tolerance (c : Chip) (p : Nat) : Rat :=
  let b := c.blob Obj.replayTolerances
  if b.length = 24 then ratOf .f32 (u32At b (4 * (p - 1)))
  else if p = 3 then 1 / 1048576 else if p = 6 then 1 / 256 else 1 / 64

/-- Six finite binary32 values, none below 0. -/
def tolerancesRule (d : ObjDef) : WriteRule where
  cond := fun _ _ _ b _ =>
    if b.length ≠ 24 then stLength
    else if (chunks 4 b).all fun e => decide (leNat e < 0x7F800000) || leNat e == 0x80000000 then stOk
    else stOutOfRange
  eff := fun c _ key b => c.store d key b

/-- Offsets in a fingerprint entry whose fields disagree. -/
def printDiffs (eps epsZ : Rat) (a b : Bytes) : List Nat :=
  let F := Fmt.f64
  let s := fun (e : Bytes) => ratOf F (u64At e 0x18) + ratOf F (u64At e 0x20)
  let sq := ratOf F (u64At a 0x28)
  let d := s a - s b
  let exact := ([0x10, 0x0D, 0x0E].zip [8, 1, 1]).filterMap fun on =>
    if leAt a on.1 on.2 = leAt b on.1 on.2 then none else some on.1
  let nonf := if (u64At a 0x38 == 0) == (u64At b 0x38 == 0) then [] else [0x38]
  let sum := if d * d ≤ eps * eps * sq then [] else [0x18]
  let sumsq := if relClose F eps (u64At a 0x28) (u64At b 0x28) then [] else [0x28]
  let mx := if relClose F eps (u64At a 0x30) (u64At b 0x30) then [] else [0x30]
  let za := u64At a 0x40
  let zb := u64At b 0x40
  let z := if ((if za ≤ zb then zb - za else za - zb : Nat) : Rat) ≤ epsZ * ((u64At a 0x10 : Nat) : Rat) then [] else [0x40]
  exact ++ nonf ++ sum ++ sumsq ++ mx ++ z

/-- An entry of the COMPARE section. -/
def compareEntry (type offset key : Nat) : Bytes := leBytes 2 type ++ leBytes 2 offset ++ zeros 4 ++ leBytes 8 key

/-- Fields of these (offset, length) that differ, as COMPARE entries. -/
def exactDiffs (type key : Nat) (fields : List (Nat × Nat)) (a b : Bytes) : List Bytes :=
  fields.filterMap fun f => if slice a f.1 f.2 = slice b f.1 f.2 then none else some (compareEntry type f.1 key)

/-- Entries of a section matched by key; an entry of `a` without its counterpart disagrees at offset 0. -/
def matched (type : Nat) (keyOf : Bytes → Nat) (diff : Bytes → Bytes → List Nat) (a b : List Bytes) : List Bytes :=
  ((a.map fun x =>
    match b.find? fun y => keyOf y == keyOf x with
    | none => [compareEntry type 0 (keyOf x)]
    | some y => (diff x y).map fun o => compareEntry type o (keyOf x)).flatten) ++
  (b.filter fun y => !(a.any fun x => keyOf x == keyOf y)).map fun y => compareEntry type 0 (keyOf y)

/-- Key of a fingerprint in matching: point, shard and key together. -/
def printKey (e : Bytes) : Nat := u64At e 0 + 2 ^ 64 * (u32At e 8 + 2 ^ 32 * u8At e 0x0C)

/-- Numeric fields of a DECISIONS entry that lie apart: offsets in the combined record. -/
def decisionDiffs (eps : Rat) (a b : Bytes) : List Nat :=
  ([4, 8, 12, 16].filterMap fun o => if relClose .f32 eps (u32At a o) (u32At b o) then none else some (o - 4)) ++
  (if natClose eps (u64At a 20) (u64At b 20) then [] else [0x10]) ++
  (if natClose eps (u32At a 28) (u32At b 28) then [] else [0x18]) ++
  (if natClose eps (u8At a 32) (u8At b 32) then [] else [0x1C])

/-- COMPARE body of a replayed step: every field of Table 10-7 in which the records disagree. Header fields carry
section type 0 (DESIGN CHOICE, assumption log 24). LR and CLIP are exact in a replay. -/
def Chip.compareRecords (c : Chip) (a b : Bytes) : Bytes :=
  let sa := sectionOf a 1
  let sb := sectionOf b 1
  let e2 := c.tolerance 2
  let hdr := exactDiffs 0 0 [(0x18, 8), (0x20, 4), (0x24, 4)] a b
  let sum := exactDiffs 1 0 [(0, 8), (8, 32), (0x28, 1), (0x29, 1), (0x30, 4), (0x38, 4), (0x3C, 4), (0x40, 8), (0x48, 4)]
    sa sb
  let g := if relClose .f32 e2 (u32At sa 0x34) (u32At sb 0x34) then [] else [compareEntry 1 0x34 0]
  let regs := matched 2 (fun e => u8At e 0 * 64 + u8At e 1)
    (fun x y => [(2, 1), (4, 2)].filterMap fun f => if slice x f.1 f.2 = slice y f.1 f.2 then none else some f.1)
    (chunks 32 (sectionOf a 2)) (chunks 32 (sectionOf b 2))
  let scs := matched 3 (fun e => u16At e 0) (fun x y => [2, 3].filterMap fun o => if u8At x o = u8At y o then none else some o)
    (chunks 4 (sectionOf a 3)) (chunks 4 (sectionOf b 3))
  let decs := matched 4 (fun e => u16At e 0) (decisionDiffs e2) (chunks 36 (sectionOf a 4)) (chunks 36 (sectionOf b 4))
  let fps := matched 5 printKey (fun x y => printDiffs (c.tolerance (u8At x 0x0C)) (c.tolerance 6) x y)
    (chunks 80 (sectionOf a 5)) (chunks 80 (sectionOf b 5))
  (hdr ++ sum ++ g ++ regs ++ scs ++ decs ++ fps).flatten

end Sys2Proof.Machine
end

