-- ==== Sys2Proof/Machine/ResetOps.lean ====
section
/-! DEFINITION. Machine/ResetOps.lean: what a reset leaves (R446 to R457, Table 19-5), shared by every command that
takes one, and the removal of power. -/

namespace Sys2Proof.Machine

/-- Clearing kinds (R446). -/
def ResetKind.clearing : ResetKind → Bool
  | .warm => false
  | .watchdog => false
  | _ => true

/-- Kinds that restart the time unit (Table 19-1). -/
def ResetKind.restartsTime : ResetKind → Bool
  | .power => true
  | .cold => true
  | _ => false

def ResetKind.code : ResetKind → Nat
  | .power => 1
  | .cold => 2
  | .warm => 3
  | .watchdog => 4
  | .escalated => 5

/-- Place in the order of R451; the higher one clears more. -/
def ResetKind.rank : ResetKind → Nat
  | .power => 5
  | .cold => 4
  | .escalated => 3
  | .warm => 2
  | .watchdog => 1

def ResetKind.stronger (a b : ResetKind) : ResetKind := if a.rank < b.rank then b else a

/-- The object is configuration that DAP writes (Table 19-5). -/
def isConfig (key : Nat) : Bool :=
  match Obj.find (key / 256) (key % 256) with
  | some d => d.access == .rw || d.access == .rwl
  | none => false

def isSticky (key : Nat) : Bool :=
  let ix := key / 256
  (decide (0x8010 ≤ ix) && decide (ix < 0x8030)) || (decide (0x8100 ≤ ix) && decide (ix < 0x8200))

def isTimeObject (key : Nat) : Bool := let ix := key / 256; ix == 0x2400 || ix == 0x2401

/-- Read-only objects that a keeping reset leaves as they are: readings and time, tile and memory capacity, versions,
round numbers, firmware and identity. They are no counters (Table 19-5). -/
def keptStatus (key : Nat) : Bool :=
  let ix := key / 256
  let sub := key % 256
  (decide (0x2000 ≤ ix) && decide (ix ≤ 0x2070)) || isTimeObject key || ix == 0x3040 ||
  (ix == 0x4000 && (sub == 1 || sub == 2 || sub == 6 || sub == 7)) ||
  (decide (0x4020 ≤ ix) && decide (ix < 0x4038) && decide (sub ≤ 3)) ||
  (decide (0x4100 ≤ ix) && decide (ix < 0x41C0) && (sub == 1 || sub == 5 || sub == 6)) ||
  key == Obj.stepNumber || key == Obj.stepCommitted || key == Obj.updatesApplied || key == Obj.shardVersionRound ||
  key == Obj.shardVersionStep || key == Obj.shardCount || key == Obj.rndRoundClosed || key == Obj.rndRoundMerged ||
  key == Obj.rndStepsInRound || key == Obj.bzSiteId || (decide (0x9000 ≤ ix) && decide (ix < 0x9060))

/-- Objects that stay at a reset of this kind. -/
def ResetKind.keeps (k : ResetKind) (key : Nat) : Bool :=
  if k.clearing then !k.restartsTime && isTimeObject key && !isConfig key
  else isConfig key || isSticky key || keptStatus key

/-- A flow context's configuration with its messages gone. -/
def FlowContext.fresh (f : FlowContext) : FlowContext := { f with rx := [], tx := [], completed := [], toAck := [], unackedRx := 0, ready := [] }

def TileArray.afterReset (a : TileArray) (keep : Bool) : TileArray :=
  { TileArray.reset with kept := if !keep then [] else if a.castings.isEmpty then a.kept else a.castings }

/-- A keeping reset leaves the memory with its footprints (R452). A retirement cut short by a reset that was to keep the
memory leaves its sub-channel a candidate (R452). -/
def Lpddr6.afterReset (m : Lpddr6) (k : ResetKind) : Lpddr6 :=
  if !k.clearing then { m with candidates := [], copying := none }
  else if k = .escalated then { Lpddr6.reset with candidates := (m.copying.map fun x => (x.1, none)).toList }
  else Lpddr6.reset

def StepSeq.afterReset (s : StepSeq) (keep : Bool) : StepSeq :=
  if keep then { StepSeq.reset with round := s.round, scaleK := s.scaleK, grow := s.grow, nextK := s.nextK, latest := s.latest } else StepSeq.reset

def UpdateUnit.afterReset (u : UpdateUnit) (keep : Bool) : UpdateUnit :=
  if keep then { u with holds := [], running := false, waiting := [], fetched := [], exportOrigin := none, exportBytes := [] }
  else UpdateUnit.reset

/-- Where the sillage sequence and chain go on after the ring is lost: after the last spilled record (R275). -/
def Sillage.afterReset (s : Sillage) (e : Emmc) (keep : Bool) : Sillage :=
  if keep then { s with
    spillStopped := false, events := [], prints := [], replay := Sillage.reset.replay }
  else { Sillage.reset with
    nextSeq := match e.spill.getLast? with | some r => r.1 + 1 | none => 0
    lastDigest := match e.spill.getLast? with
      | some r => (r.2.drop (r.2.length - 32)).take 16
      | none => zeros 16 }

def SiteMap.afterReset (m : SiteMap) (keep : Bool) : SiteMap :=
  if keep then { m with agreed := [], gathers := [], uses := [] } else SiteMap.reset

def Rounds.afterReset (r : Rounds) (keep : Bool) : Rounds :=
  if keep then { r with ingot := Rounds.reset.ingot, partners := [] } else Rounds.reset

def SiteLinks.afterReset (s : SiteLinks) (keep : Bool) : SiteLinks :=
  { SiteLinks.reset with contexts := if keep then s.contexts.map fun e => (e.1, e.2.fresh) else [] }

/-- Sequence numbers of the fault log go on after the highest one in the eMMC copy (R482). -/
def FaultLog.afterReset (f : FaultLog) (e : Emmc) (keep : Bool) : FaultLog :=
  if keep then { f with copyStopped := false, first := true, early := [] }
  else
    let n := match e.faultCopy.getLast? with | some x => x.seq + 1 | none => 0
    { FaultLog.reset with nextSeq := n, uncopied := n, first := true }

/-- Tiles of the retirement record are failed (R180); the binding is that of R155 until the start settles it. -/
def usesOfRecord (l : List Nat) : Sparse TileUse :=
  l.foldl (fun m p => Sparse.put (if p < 512 then TileUse.bound else .spare) m p .failed) []

/-- Every function in the state of Table 19-5; the start then goes on from here. -/
def Chip.afterReset (c : Chip) (k : ResetKind) : Chip :=
  let keep := !k.clearing
  { c with
    regs := c.regs.filter fun e => k.keeps e.1
    blobs := c.blobs.filter fun e => k.keeps e.1
    board := { c.board with modReady := false, inletHigh := keep && c.board.inletHigh, flowLow := c.board.flowLow && keep }
    time := if k.restartsTime then TimeUnit.reset else c.time
    gov := { Governor.reset with vWacor := c.gov.vWacor, vLink := c.gov.vLink }
    array := { c.array.afterReset keep with uses := usesOfRecord c.emmc.tilesRetired }
    mem := c.mem.afterReset k
    step := c.step.afterReset keep
    upd := c.upd.afterReset keep
    sil := c.sil.afterReset c.emmc keep
    map := c.map.afterReset keep
    bz := Braze.reset
    rnd := c.rnd.afterReset keep
    slk := c.slk.afterReset keep
    cipher := Cipher.reset
    dma := []
    linkMem := []
    dap := { DapServer.reset with linkUp := c.dap.linkUp && keep }
    flt := c.flt.afterReset c.emmc keep
    ident := Identity.reset
    svc := Service.reset }

/-- A start is in progress: a reset has been taken and MOD_READY not yet asserted. -/
def StartSeq.underway (s : StartSeq) : Bool :=
  match s.stage with
  | .none => false
  | .ready => false
  | _ => true

/-- Core 0 has left reset in the start in progress or last completed. -/
def StartSeq.core0Out (s : StartSeq) : Bool :=
  match s.stage with
  | .none => false
  | .reset => false
  | .timeUnit => false
  | _ => true

/-- WATCHDOG resets of the last 600 s of MONO. -/
def recentWatchdogs (l : List Nat) (mono : Nat) : List Nat := l.filter fun m => decide (mono < m + 600000000000)

/-- The kind a reset is carried out as (R450 to R452). -/
def Chip.resetKind (c : Chip) (k : ResetKind) : ResetKind :=
  let k := if k = .watchdog ∧ 3 ≤ (recentWatchdogs c.start.watchdogs c.time.mono).length then .escalated else k
  let k := if !k.clearing && c.mem.copying.isSome then .escalated else k
  if c.start.underway then k.stronger c.start.kind else k

/-- RESET_LAST_KIND (Table 19-2). -/
def kindCode (k : ResetKind) (unplanned : Bool) : Nat := k.code + if unplanned then 128 else 0

/-- Records that a write asked to empty at the next start are emptied (R180, R207). -/
def Emmc.cleared (e : Emmc) : Emmc :=
  { e with
    tilesRetired := if e.clearTiles then [] else e.tilesRetired
    memRetired := if e.clearMem then [] else e.memRetired
    clearTiles := false, clearMem := false }

/-- A reset is taken (R446 to R452): what it leaves, the start that follows it, and the first entry of that start
(R484). -/
def Chip.takeReset (c : Chip) (asked : ResetKind) : Chip :=
  let k := c.resetKind asked
  let dogs := if k.restartsTime then []
    else
      let l := recentWatchdogs c.start.watchdogs c.time.mono
      if asked = .watchdog then l ++ [c.time.mono] else l
  let unplanned := c.emmc.runMark || (c.start.underway && c.start.unplanned)
  let start := { StartSeq.reset with
    stage := if k.restartsTime then .reset else .timeUnit
    kind := k, unplanned := unplanned, held := c.start.held, requested := c.start.requested, watchdogs := dogs
    bootedSlot := c.start.bootedSlot, fwVersion := c.start.fwVersion }
  let c := { c with emmc := { c.emmc.cleared with runMark := false } }.afterReset k
  let c := ({ c with start := start }).setReg Obj.resetLastKind (kindCode k unplanned)
  c.log .rst (kindCode k unplanned) noRegion 0 0

/-- The run mark of R456 is written as the functions named there begin and stop. -/
def Chip.runMark (c : Chip) (v : Bool) : Chip := { c with emmc := { c.emmc with runMark := v } }

/-- Stepping, a round, a checkpoint transfer or a firmware install is in progress (R456). -/
def Chip.anyRunning (c : Chip) : Bool :=
  c.stepping || c.sil.replay.running || c.upd.exportOrigin.isSome || c.installOpen ||
  c.reg Obj.rndState == 4

/-- The run mark follows what runs. -/
def Chip.refreshMark (c : Chip) : Chip := c.runMark c.anyRunning

/-- The locate indicator (R20). -/
def Chip.refreshLocate (c : Chip) : Chip :=
  { c with board := { c.board with
    indicator := c.board.phase == .on && c.time.running && (c.board.locateLow || c.reg Obj.locate == 1) } }

/-- Every die supply is removed (R23): MOD_READY released, no further eMMC command, and all that the dies and the LPDDR6
held is gone, as a POWER start will find it. The run mark stays for that start to report. -/
def Chip.powerDown (c : Chip) : Chip :=
  let c := c.afterReset .power
  let c := { c with
    start := StartSeq.reset
    gov := Governor.reset
    board := { c.board with phase := .off, emmcOpen := false, below15 := false, below10 := false, ppsOut := false, tenMOut := false } }
  c.refreshLocate

end Sys2Proof.Machine
end

