-- ==== Sys2Proof/Machine/Board.lean ====
section
/-! DEFINITION. Machine/Board.lean: pins and power entry (R14, R20 to R25), power limit and coolant derating (R27 to
R31). The cages stand with the site links (Machine/SlkPorts.lean). -/

namespace Sys2Proof.Machine

/-! ### Power entry -/

/-- PWR_EN reaches the sequencer with input in range, and no thermal stop holds it off (R14, R24, R31). -/
def Board.mayPower (b : Board) : Bool :=
  b.seated && b.pwrEn && b.inputOk && !b.thermalLatch && b.phase == .off

/-- The sequencer begins the coolant check where it may. -/
def Chip.tryPower (c : Chip) : Chip :=
  if c.board.mayPower then { c with board := { c.board with phase := .checking } } else c

/-- SEATED_N_ASSERT: the seat gate begins passing PWR_EN. The tray's straps reach the module with the same contacts. -/
def execSeatedNAssert (slotId : BitVec 6) (s : State) : Host.Outcome State Fault Refusal :=
  s.on fun c => { c with board := { c.board with seated := true, slotPins := slotId } }.tryPower

/-- PWR_EN_ASSERT: the tray raises PWR_EN with input in range. -/
def execPwrEnAssert (s : State) : Host.Outcome State Fault Refusal :=
  s.on fun c => { c with board := { c.board with pwrEn := true, inputOk := true } }.tryPower

/-- The module powers down where it is not off already. FAULT_N is released (R25, R31). -/
def Chip.inputLost (c : Chip) : Chip :=
  let c := { c with board := { c.board with faultLow := false } }
  if c.board.phase = .off then c else c.powerDown

/-- PWR_EN_DEASSERT. A thermal stop's latch ends with PWR_EN (R31). -/
def execPwrEnDeassert (s : State) : Host.Outcome State Fault Refusal :=
  s.on fun c => { c with board := { c.board with pwrEn := false, thermalLatch := false } }.inputLost

/-- POWER_FAIL: the input has stayed below 47.0 V for 100 µs. -/
def execPowerFail (s : State) : Host.Outcome State Fault Refusal :=
  s.on fun c => { c with board := { c.board with inputOk := false } }.inputLost

/-- POWER_RESTART: the input holds at or above 50.0 V for 100 ms (R24). -/
def execPowerRestart (s : State) : Host.Outcome State Fault Refusal :=
  s.on fun c => { c with board := { c.board with inputOk := true } }.tryPower

/-- SEATED_N_RELEASE: withdrawn under power, the module treats it as a loss of input power (R15). -/
def execSeatedNRelease (s : State) : Host.Outcome State Fault Refusal :=
  s.on fun c => { c with board := { c.board with seated := false } }.inputLost

/-! Thresholds as binary32. -/

def f32At1 : Nat := 0x3F800000
def f32At1_5 : Nat := 0x3FC00000
def f32At18 : Nat := 0x41900000
def f32At40 : Nat := 0x42200000
def f32At45 : Nat := 0x42340000
def f32At110 : Nat := 0x42DC0000
def f32At1000 : Nat := 0x447A0000
def f32At1450 : Nat := 0x44B54000

/-- The coolant check of R25 finds a flow below 1.0 L/min or an inlet above 45 °C. -/
def coolantBad (inlet flow : F32) : Bool := f32Lt flow.toNat f32At1 || f32Lt f32At45 inlet.toNat

/-- COOLANT_CHECK_COMPLETE. -/
def execCoolantCheckComplete (inlet flow : F32) (s : State) : Host.Outcome State Fault Refusal :=
  s.on fun c =>
    if c.board.phase ≠ .checking then c
    else if coolantBad inlet flow then { c with board := { c.board with phase := .waiting, faultLow := true } }
    else { c with board := { c.board with phase := .softStart, faultLow := false } }

/-- COOLANT_RECHECK_TIMER: the check is repeated every 1 s; FAULT_N stays low meanwhile. -/
def execCoolantRecheckTimer (s : State) : Host.Outcome State Fault Refusal :=
  s.on fun c => if c.board.phase = .waiting then { c with board := { c.board with phase := .checking } } else c

/-- SUPPLIES_IN_REGULATION: the start of a POWER reset begins (R446, Table 19-3). -/
def execSuppliesInRegulation (s : State) : Host.Outcome State Fault Refusal :=
  s.on fun c =>
    if c.board.phase = .softStart then
      { c with board := { c.board with phase := .on, emmcOpen := true } }.takeReset .power
    else c

/-! ### The active power limit (R27) and the coolant (R30, R31) -/

/-- Coolant derating limit of the rows of Table 1-9 in force, as binary32. -/
def Board.derating (b : Board) : Nat :=
  let inlet := if b.inletHigh then f32OfRat (1450 - 70 * (ratOf .f32 b.inletNow.toNat - 40)) else f32At1450
  if b.flowLow then (if f32Lt f32At1000 inlet then f32At1000 else inlet) else inlet

def f32Min (a b : Nat) : Nat := if f32Lt b a then b else a

/-- POWER_LIMIT_ACTIVE: the least of POWER_LIMIT, the coolant derating limit and 1,450 W. -/
def Chip.refreshLimit (c : Chip) : Chip :=
  c.setReg Obj.powerLimitActive (f32Min (f32Min (c.reg Obj.powerLimit) c.board.derating) f32At1450)

/-- POWER_LIMIT (R28): its range stands in the object table; a valid write changes the active limit. -/
def powerLimitRule : WriteRule where
  cond := noCond
  eff := fun c _ _ b => (c.setReg Obj.powerLimit (leNat b)).refreshLimit

/-- POWER_LIMIT_WRITE. -/
def execPowerLimitWrite (rq : Fin 17) (v : F32) (s : State) : Host.Outcome State Fault Refusal :=
  s.on fun c => c.write rq Obj.powerLimit (leBytes 4 v.toNat) powerLimitRule

/-- A thermal stop (R31): COOL_STOP with its entry, then every die supply off, FAULT_N held low, and no restart until
PWR_EN has fallen. -/
def Chip.thermalStop (c : Chip) : Chip :=
  let c := (c.occur 0 2 .board noRegion 0 0).powerDown
  { c with board := { c.board with thermalLatch := true, faultLow := true } }

/-- The objects of Tables 1-13 and 2-8 that a reading renews. -/
def Chip.takeTelemetry (c : Chip) (r : Telemetry) : Chip :=
  c.each [(Obj.inputVoltage, r.inputVoltage), (Obj.inputCurrent, r.inputCurrent), (Obj.inputPower, r.inputPower),
    (Obj.coolantInletTemp, r.inlet), (Obj.coolantOutletTemp, r.outlet), (Obj.coolantFlow, r.flow),
    (Obj.coolantDiffPressure, r.diffPressure), (Obj.powerWacor, r.powerWacor), (Obj.powerLinkDie, r.powerLink),
    (Obj.powerLpddr6, r.powerLpddr6), (Obj.powerCages, r.powerCages), (Obj.powerOther, r.powerOther),
    (Obj.cage0Power, r.cage0Power), (Obj.cage1Power, r.cage1Power), (Obj.tjWacorMax, r.tjWacor),
    (Obj.tjLinkDieMax, r.tjLink)] fun c e => c.setReg e.1 e.2.toNat

/-- FAULT_N is low while a row of Table 1-9 other than the first applies. -/
def Chip.refreshFaultN (c : Chip) : Chip :=
  { c with board := { c.board with faultLow := c.board.inletHigh || c.board.flowLow } }

/-- The inlet row and the flow row after a reading; a row that begins to apply is an occurrence. -/
def Chip.coolantRows (c : Chip) (r : Telemetry) : Chip :=
  let high := f32Lt f32At40 r.inlet.toNat
  let was := c.board.inletHigh
  let low15 := f32Lt r.flow.toNat f32At1_5
  let low10 := f32Lt r.flow.toNat f32At1
  let c := { c with board := { c.board with
    inletNow := r.inlet, inletHigh := high, below15 := low15, below10 := low10, flowLow := c.board.flowLow && low15 } }
  let c := if high && !was then c.occur 0 0 .board noRegion 0 0 else c
  c.refreshLimit.refreshFaultN

/-- A reading in which a stop row without a duration applies. -/
def stopNow (r : Telemetry) : Bool :=
  f32Lt f32At45 r.inlet.toNat || f32Le f32At110 r.tjWacor.toNat || f32Le f32At110 r.tjLink.toNat

/-- A reading, while the die supplies are in regulation. -/
def Chip.coolantReading (c : Chip) (r : Telemetry) : Chip :=
  if c.board.phase ≠ .on then c
  else
    let c := c.takeTelemetry r
    if stopNow r then c.thermalStop else c.coolantRows r

/-- COOLANT_READING. -/
def execCoolantReading (r : Telemetry) (s : State) : Host.Outcome State Fault Refusal :=
  s.on fun c => c.coolantReading r

/-- FLOW_LOW_2S_EXPIRY: the 1,000 W row begins to apply. -/
def execFlowLow2sExpiry (s : State) : Host.Outcome State Fault Refusal :=
  s.on fun c =>
    if c.board.phase = .on ∧ c.board.below15 ∧ !c.board.flowLow then
      ({ c with board := { c.board with flowLow := true } }.occur 0 1 .board noRegion 0 0).refreshLimit.refreshFaultN
    else c

/-- FLOW_STOP_500MS_EXPIRY: the flow has stayed below 1.0 L/min. -/
def execFlowStop500msExpiry (s : State) : Host.Outcome State Fault Refusal :=
  s.on fun c => if c.board.phase = .on ∧ c.board.below10 then c.thermalStop else c

/-- Bits of family 0 held set while their rows apply (R30). -/
def Board.heldBits (b : Board) : Nat := (if b.inletHigh then 1 else 0) + if b.flowLow then 2 else 0

/-! ### Locate (R20) -/

/-- LOCATE_N_CHANGE, as the time unit samples it. -/
def execLocateNChange (low : Bool) (s : State) : Host.Outcome State Fault Refusal :=
  s.on fun c => { c with board := { c.board with locateLow := low } }.refreshLocate

/-- LOCATE. -/
def locateRule (d : ObjDef) : WriteRule where
  cond := noCond
  eff := fun c _ key b => (c.store d key b).refreshLocate

end Sys2Proof.Machine
end

