-- ==== Sys2Proof/Machine/Aes.lean ====
section
/-! DEFINITION. Machine/Aes.lean: AES-256 (FIPS 197) and the modes of Table 15-1 with the padding of R392 and R393:
CTR (SP 800-38A), CMAC (SP 800-38B), GCM and GMAC (SP 800-38D), XTS (IEEE 1619). The standards are named by the spec and
not restated in it (PRESUMED, assumption log 31). -/

namespace Sys2Proof.Machine

/-! ### The block cipher -/

/-- S-box and its inverse: entry x is byte x of the number. -/
def aesSbox : Nat :=
  0xc072a49cafa2d4adf04759fa7dc982ca76abd7fe2b670130c56f6bf27b777c63 * 2 ^ 0 +
  0x75b227ebe28012079a059618c323c7041531d871f1e5a534ccf73f362693fdb7 * 2 ^ 256 +
  0xcf584c4a39becb6a5bb1fc20ed00d153842fe329b3d63b52a05a6e1b1a2c8309 * 2 ^ 512 +
  0xd2f3ff1021dab6bcf5389d928f40a351a89f3c507f02f94585334d43fbaaefd0 * 2 ^ 768 +
  0xdb0b5ede14b8ee4688902a22dc4f816073195d643d7ea7c41744975fec130ccd * 2 ^ 1024 +
  0x08ae7a65eaf4566ca94ed58d6d37c8e779e4959162acd3c25c2406490a3a32e0 * 2 ^ 1280 +
  0x9e1dc186b95735610ef6034866b53e708a8bbd4b1f74dde8c6b4a61c2e2578ba * 2 ^ 1536 +
  0x16bb54b00f2d99416842e6bf0d89a18cdf2855cee9871e9b948ed9691198f8e1 * 2 ^ 1792

def aesInvSbox : Nat :=
  0xcbe9dec444438e3487ff2f9b8239e37cfbd7f3819ea340bf38a53630d56a0952 * 2 ^ 0 +
  0x25d18b6d49a25b76b224d92866a12e084ec3fa420b954cee3d23c2a632947b54 * 2 ^ 256 +
  0x849d8da75746155edab9edfd5048706c92b6655dcc5ca4d41698688664f6f872 * 2 ^ 512 +
  0x6b8a130103bdafc1020f3fca8f1e2cd00645b3b80558e4f70ad3bc8c00abd890 * 2 ^ 768 +
  0x6edf751ce837f9e28535ade72274ac9673e6b4f0cecff297eadc674f4111913a * 2 ^ 1024 +
  0xf45acd78fec0db9a2079d2c64b3e56fc1bbe18aa0e62b76f89c5291d711af147 * 2 ^ 1280 +
  0xef9cc9939f7ae52d0d4ab519a97f51605fec8027591012b131c7078833a8dd1f * 2 ^ 1536 +
  0x7d0c2155631469e126d677ba7e042b17619953833cbbebc8b0f52aae4d3be0a0 * 2 ^ 1792

def tableByte (t x : Nat) : Nat := t / 2 ^ (8 * x) % 256

/-- Product by 2 in GF(2^8) with x^8 + x^4 + x^3 + x + 1. -/
def xtime (a : Nat) : Nat := if 128 ≤ a then (2 * a) ^^^ 0x11B else 2 * a

/-- Product by a constant below 16. -/
def aesMul (k a : Nat) : Nat :=
  let a2 := xtime a
  let a4 := xtime a2
  let a8 := xtime a4
  (if k % 2 = 1 then a else 0) ^^^ (if k / 2 % 2 = 1 then a2 else 0) ^^^ (if k / 4 % 2 = 1 then a4 else 0) ^^^
  (if k / 8 = 1 then a8 else 0)

/-- Key expansion: words are lists of 4 bytes; `ws` holds those formed so far, newest first. -/
def aesExpandAux : Nat → Nat → Nat → List (List Nat) → List (List Nat)
  | 0, _, _, ws => ws
  | f + 1, i, rcon, ws =>
    let t := ws.headD []
    let old := ws.getD 7 []
    let sub := fun (w : List Nat) => w.map fun x => tableByte aesSbox x
    let t' := if i % 8 = 0 then
        match sub (t.drop 1 ++ t.take 1) with
        | x :: r => (x ^^^ rcon) :: r
        | [] => []
      else if i % 8 = 4 then sub t else t
    aesExpandAux f (i + 1) (if i % 8 = 0 then xtime rcon else rcon) ((old.zipWith (fun a b => a ^^^ b) t') :: ws)

/-- The 15 round keys, each of 16 bytes. -/
def aesRoundKeys (key : Bytes) : List (List Nat) :=
  let ws := ((List.range 8).map fun i => (List.range 4).map fun j => (key.getD (4 * i + j) 0).toNat).reverse
  let all := (aesExpandAux 52 8 1 ws).reverse
  (List.range 15).map fun r => ((all.drop (4 * r)).take 4).flatten

def xorNat (a b : List Nat) : List Nat := a.zipWith (fun x y => x ^^^ y) b

/-- Byte (r, c) of the state is entry r + 4c; row r moves left by r columns, or right. -/
def shiftRows (back : Bool) (s : List Nat) : List Nat :=
  (List.range 16).map fun k =>
    let r := k % 4
    let c := k / 4
    s.getD (r + 4 * ((if back then c + 4 - r else c + r) % 4)) 0

/-- Each column times a circulant matrix given by its first row. -/
def mixColumns (m : List Nat) (s : List Nat) : List Nat :=
  (List.range 16).map fun k =>
    let r := k % 4
    let c := k / 4
    (List.range 4).foldl (fun v j => v ^^^ aesMul (m.getD ((j + 4 - r) % 4) 0) (s.getD (j + 4 * c) 0)) 0

def aesEncRounds : List (List Nat) → List Nat → List Nat
  | [], s => s
  | [k], s => xorNat (shiftRows false (s.map (tableByte aesSbox))) k
  | k :: ks, s => aesEncRounds ks (xorNat (mixColumns [2, 3, 1, 1] (shiftRows false (s.map (tableByte aesSbox)))) k)

/-- Rounds of the inverse cipher, last round key first. -/
def aesDecRounds : List (List Nat) → List Nat → List Nat
  | [], s => s
  | [k], s => xorNat ((shiftRows true s).map (tableByte aesInvSbox)) k
  | k :: ks, s => aesDecRounds ks (mixColumns [14, 11, 13, 9] (xorNat ((shiftRows true s).map (tableByte aesInvSbox)) k))

def toNats (b : Bytes) : List Nat := (padTo 16 b).map (·.toNat)
def ofNats (l : List Nat) : Bytes := l.map (BitVec.ofNat 8)

/-- One block under expanded round keys. -/
def aesEncBlock (rk : List (List Nat)) (b : Bytes) : Bytes :=
  ofNats (aesEncRounds (rk.drop 1) (xorNat (toNats b) (rk.headD [])))

def aesDecBlock (rk : List (List Nat)) (b : Bytes) : Bytes :=
  let r := rk.reverse
  ofNats (aesDecRounds (r.drop 1) (xorNat (toNats b) (r.headD [])))

def xorBytes (a b : Bytes) : Bytes := a.zipWith (fun x y => x ^^^ y) b

/-! ### CTR -/

/-- Keystream blocks from a counter block, the low 32 bits incremented (SP 800-38A). -/
def ctrStream (rk : List (List Nat)) (iv : Bytes) (n : Nat) : Bytes :=
  ((List.range n).map fun i =>
    aesEncBlock rk (iv.take 12 ++ beBytes 4 ((beNat ((iv.drop 12).take 4) + i) % 2 ^ 32))).flatten

/-- CTR, either direction; a partial final block uses the leading bytes of its keystream. -/
def ctrCrypt (key iv data : Bytes) : Bytes :=
  xorBytes data (ctrStream (aesRoundKeys key) iv (ceilDiv data.length 16))

/-! ### GCM and GMAC -/

/-- Product in GF(2^128) of SP 800-38D; blocks as numbers, first bit most significant. -/
def gmulAux : Nat → Nat → Nat → Nat → Nat
  | 0, _, _, z => z
  | f + 1, x, v, z =>
    let z := if x.testBit f then z ^^^ v else z
    gmulAux f x (if v % 2 = 1 then (v / 2) ^^^ (0xE1 * 2 ^ 120) else v / 2) z

def gmul (x y : Nat) : Nat := gmulAux 128 x y 0

/-- GHASH over blocks of 16 bytes. -/
def ghash (h : Nat) (data : Bytes) : Nat :=
  (chunks 16 data).foldl (fun y b => gmul (y ^^^ beNat (padTo 16 b)) h) 0

/-- Data filled with zeros to whole blocks. -/
def pad16 (b : Bytes) : Bytes := b ++ zeros (alignUp 16 b.length - b.length)

/-- The tag over AAD and ciphertext. -/
def gcmTag (rk : List (List Nat)) (nonce aad cipher : Bytes) : Bytes :=
  let h := beNat (aesEncBlock rk (zeros 16))
  let s := ghash h (pad16 aad ++ pad16 cipher ++ beBytes 8 (8 * aad.length) ++ beBytes 8 (8 * cipher.length))
  xorBytes (beBytes 16 s) (aesEncBlock rk (nonce ++ beBytes 4 1))

/-- GCM encryption: ciphertext and the whole tag of 16 bytes. -/
def gcmSeal (key nonce aad plain : Bytes) : Bytes × Bytes :=
  let rk := aesRoundKeys key
  let c := xorBytes plain (ctrStream rk (nonce ++ beBytes 4 2) (ceilDiv plain.length 16))
  (c, gcmTag rk nonce aad c)

/-- GCM decryption: the plaintext where the tag (of its own length) matches. -/
def gcmOpen (key nonce aad cipher tag : Bytes) : Option Bytes :=
  let rk := aesRoundKeys key
  if (gcmTag rk nonce aad cipher).take tag.length = tag then
    some (xorBytes cipher (ctrStream rk (nonce ++ beBytes 4 2) (ceilDiv cipher.length 16)))
  else none

/-! ### CMAC -/

/-- Double of a block in GF(2^128) as SP 800-38B forms its subkeys. -/
def cmacDouble (b : Nat) : Nat :=
  if b.testBit 127 then (2 * b % 2 ^ 128) ^^^ 0x87 else 2 * b

/-- The whole tag of 16 bytes. -/
def cmac (key msg : Bytes) : Bytes :=
  let rk := aesRoundKeys key
  let k1 := cmacDouble (beNat (aesEncBlock rk (zeros 16)))
  let k2 := cmacDouble k1
  let n := Nat.max 1 (ceilDiv msg.length 16)
  let head := msg.take (16 * (n - 1))
  let last := msg.drop (16 * (n - 1))
  let m := if last.length = 16 then xorBytes last (beBytes 16 k1)
    else xorBytes (padTo 16 (last ++ [0x80#8])) (beBytes 16 k2)
  let x := (chunks 16 head).foldl (fun s b => aesEncBlock rk (xorBytes s b)) (zeros 16)
  aesEncBlock rk (xorBytes x m)

/-! ### XTS -/

/-- The tweak times α (IEEE 1619); little-endian. -/
def xtsDouble (t : Nat) : Nat := if t.testBit 127 then (2 * t % 2 ^ 128) ^^^ 0x87 else 2 * t

/-- One block of a data unit. -/
def xtsBlock (enc : Bool) (rk : List (List Nat)) (t : Nat) (b : Bytes) : Bytes :=
  let tb := leBytes 16 t
  xorBytes (if enc then aesEncBlock rk (xorBytes b tb) else aesDecBlock rk (xorBytes b tb)) tb

/-- Whole blocks of a data unit, then the last one and a part with ciphertext stealing. -/
def xtsBlocks (enc : Bool) (rk : List (List Nat)) : Nat → Nat → Bytes → Bytes
  | 0, _, _ => []
  | f + 1, t, b =>
    if b.length < 16 then []
    else if b.length = 16 then xtsBlock enc rk t b
    else if 32 ≤ b.length then xtsBlock enc rk t (b.take 16) ++ xtsBlocks enc rk f (xtsDouble t) (b.drop 16)
    else
      let part := b.drop 16
      let (t1, t2) := if enc then (t, xtsDouble t) else (xtsDouble t, t)
      let cc := xtsBlock enc rk t1 (b.take 16)
      xtsBlock enc rk t2 (part ++ cc.drop part.length) ++ cc.take part.length

/-- One data unit under a key pair of 64 bytes, data key first (R398). -/
def xtsUnit (enc : Bool) (keys : Bytes) (tweak : Nat) (data : Bytes) : Bytes :=
  let t := leNat (aesEncBlock (aesRoundKeys (keys.drop 32)) (leBytes 16 tweak))
  xtsBlocks enc (aesRoundKeys (keys.take 32)) (data.length + 1) t data

/-- Data in units of `unit` bytes; unit i takes the first tweak plus i (R393). -/
def xtsCrypt (enc : Bool) (keys : Bytes) (tweak unit : Nat) (data : Bytes) : Bytes :=
  let us := chunks unit data
  (((List.range us.length).zip us).map fun x => xtsUnit enc keys ((tweak + x.1) % 2 ^ 128) x.2).flatten

end Sys2Proof.Machine
end

