-- ==== Sys2Proof/Machine/Mem.lean ====
section
/-! DEFINITION. Machine/Mem.lean: LPDDR6 as a memory (R182 to R200): addresses, the check code, reads and writes of
bursts, compressed block images. -/

namespace Sys2Proof.Machine

/-! ### The address map (R184 to R187) -/

def groupWindow : Nat := 72000000000
def memBytes : Nat := 1728000000000
def reservedBytes : Nat := 2147483648
def allocatableBytes : Nat := 69852516352
def withheldBytes : Nat := 9000001536
def withheldFrom : Nat := 62999998464
def subchRows : Nat := 35156250
def withheldTop : Nat := 30761718

/-- Offsets of the regions of Table 7-2 in a group window. -/
def journalOff : Nat := 0
def ringOff : Nat := 0x10000000
def ingotOff : Nat := 0x30000000
def controlOff : Nat := 0x70000000

/-- Exclusive-or of the 3-bit fields of `n`. -/
def xorFields : Nat → Nat → Nat
  | 0, _ => 0
  | f + 1, n => (n % 8) ^^^ xorFields f (n / 8)

/-- Group, sub-channel within it and row of a module address (R185). -/
def placeOf (a : Nat) : Nat × Nat × Nat :=
  let n := a % groupWindow / 256
  (a / groupWindow, xorFields 10 n, n / 8)

/-- An address inside a reserved region (R186). -/
def inReserved (a n : Nat) : Bool :=
  decide (a % groupWindow < reservedBytes) || a / groupWindow != (a + n - 1) / groupWindow

/-- The place that serves row r of sub-channel j (R204). -/
def translated (retired j r : Nat) : Nat × Nat :=
  if j ≠ retired then (j, r)
  else (((List.range 8).filter fun x => x != retired).getD (r % 7) 0, withheldTop + r / 7)

/-- Number of the sub-channel in which a module address lies, after translation. -/
def Chip.subchannelAt (c : Chip) (a : Nat) : Nat :=
  let (g, j, r) := placeOf a
  8 * g + (translated (c.reg (Obj.groupRetired g)) j r).1

/-! ### Check code (R188, R189) -/

/-- Product in GF(2^8) with x^8 + x^4 + x^3 + x^2 + 1. -/
def gfMulAux : Nat → Nat → Nat → Nat
  | 0, _, _ => 0
  | f + 1, a, b =>
    let a2 := if 128 ≤ a then (2 * a) ^^^ 0x11D else 2 * a
    (if b % 2 = 1 then a else 0) ^^^ gfMulAux f a2 (b / 2)

def gfMul (a b : Nat) : Nat := gfMulAux 8 a b

/-- α^n. -/
def gfPow : Nat → Nat
  | 0 => 1
  | n + 1 => gfMul (gfPow n) 2

/-- Syndrome i of an error pattern. A correct codeword has syndrome 0, so the pattern alone decides it. -/
def syndrome (i : Nat) (e : List (Nat × BitVec 8)) : Nat :=
  e.foldl (fun s x => s ^^^ gfMul x.2.toNat (gfPow (i * x.1))) 0

/-- What the controller makes of the three syndromes (R190). -/
inductive CheckResult where
  | clean
  /-- The symbol at this position is off by this value. -/
  | single (pos : Nat) (value : Nat)
  | uncorrectable
deriving DecidableEq, Repr, Inhabited

def checkSyndromes (s0 s1 s2 : Nat) : CheckResult :=
  if s0 = 0 ∧ s1 = 0 ∧ s2 = 0 then .clean
  else if s0 = 0 then .uncorrectable
  else if gfMul s1 s1 ≠ gfMul s0 s2 then .uncorrectable
  else
    match (List.range 36).find? fun p => gfMul s0 (gfPow p) == s1 with
    | some p => .single p s0
    | none => .uncorrectable

def checkBurst (e : List (Nat × BitVec 8)) : CheckResult :=
  checkSyndromes (syndrome 0 e) (syndrome 1 e) (syndrome 2 e)

/-- The tag byte (Table 7-3). -/
def BurstTag.byte (t : BurstTag) : BitVec 8 := BitVec.ofNat 8 (t.rate.toNat + if t.poison then 128 else 0)

def BurstTag.ofByte (b : BitVec 8) : BurstTag := ⟨bit b.toNat 7, BitVec.ofNat 2 b.toNat⟩

def BurstTag.zero : BurstTag := ⟨false, 0⟩

/-- Data and tag with an error pattern applied: data byte b at position b + 3, the tag at position 35. -/
def applyErrors (d : Bytes) (tag : BitVec 8) (e : List (Nat × BitVec 8)) : Bytes × BitVec 8 :=
  e.foldl (fun (r : Bytes × BitVec 8) x =>
    if x.1 = 35 then (r.1, r.2 ^^^ x.2)
    else if 3 ≤ x.1 ∧ x.1 < 35 then (r.1.set (x.1 - 3) (r.1.getD (x.1 - 3) 0 ^^^ x.2), r.2)
    else r) (d, tag)

/-! ### Capacity (R187, R204, R208) -/

def Chip.groupCapacity (c : Chip) (g : Nat) : Nat :=
  if c.reg (Obj.subchState (8 * g)) = 3 then 0
  else if c.reg (Obj.groupRetired g) = 0xFF then allocatableBytes else allocatableBytes - withheldBytes

def Chip.groupUsed (c : Chip) (g : Nat) : Nat :=
  (c.mem.footprints.filter fun f => f.base / groupWindow == g).foldl (fun n f => n + f.bytes) 0

/-- The capacity objects follow footprints and retirements. -/
def Chip.refreshMem (c : Chip) : Chip :=
  let c := c.each (List.range 24) fun c g =>
    (c.setReg (Obj.groupAllocatable g) (c.groupCapacity g)).setReg (Obj.groupFree g) (c.groupCapacity g - c.groupUsed g)
  let sum := fun (f : Nat → Nat) => (List.range 24).foldl (fun n g => n + f g) 0
  (c.setReg Obj.memAllocatable (sum c.groupCapacity)).setReg Obj.memFree
    (sum fun g => c.groupCapacity g - c.groupUsed g)

/-- Total free capacity. -/
def Chip.freeCapacity (c : Chip) : Nat :=
  (List.range 24).foldl (fun n g => n + (c.groupCapacity g - c.groupUsed g)) 0

/-- Lowest address in group g at which `n` free bytes lie in one range. -/
def Chip.holeIn (c : Chip) (g n : Nat) : Option Nat :=
  let base := g * groupWindow + reservedBytes
  let stop := base + c.groupCapacity g
  let fs := c.mem.footprints.filter fun f => f.base / groupWindow == g
  let cands := (base :: fs.map fun f => f.base + f.bytes).filter fun a =>
    decide (a + n ≤ stop) && !(fs.any fun f => decide (a < f.base + f.bytes) && decide (f.base < a + n))
  cands.foldl (fun m a => match m with
    | none => some a
    | some b => some (Nat.min a b)) none

/-- Length of the free range that begins at `a` in group g. -/
def Chip.freeRun (c : Chip) (g a : Nat) : Nat :=
  let stop := g * groupWindow + reservedBytes + c.groupCapacity g
  (c.mem.footprints.foldl (fun m f => if a ≤ f.base then Nat.min m f.base else m) stop) - a

/-- As much of what is left of a footprint as the lowest hole of a group takes; what is left after it stands beside the module. -/
def spreadInto (casting : Nat) (x : Nat × Chip) (g : Nat) : Nat × Chip :=
  if x.1 = 0 then x
  else
    match x.2.holeIn g 1 with
    | none => x
    | some a =>
      let k := Nat.min x.1 (x.2.freeRun g a)
      (x.1 - k, { x.2 with mem := { x.2.mem with footprints := x.2.mem.footprints ++ [⟨casting, a, k⟩] } })

/-- A footprint placed group by group where no single group holds it (DESIGN CHOICE, assumption log 29). -/
def Chip.spreadFootprint (c : Chip) (casting : Nat) (groups : List Nat) (n : Nat) : Chip :=
  (groups.foldl (spreadInto casting) (n, c)).2

/-- The casting's footprint takes its place: one contiguous range, at the lowest free address that holds it (R187); the
first group that has one (DESIGN CHOICE, assumption log 29). -/
def Chip.placeFootprint (c : Chip) (casting n : Nat) : Chip :=
  if n = 0 then c
  else
    match (List.range 24).findSome? fun g => c.holeIn g n with
    | some a => { c with mem := { c.mem with footprints := c.mem.footprints ++ [⟨casting, a, n⟩] } }
    | none => c.spreadFootprint casting (List.range 24) n

def Chip.dropFootprint (c : Chip) (casting : Nat) : Chip :=
  { c with mem := { c.mem with footprints := c.mem.footprints.filter fun f => f.casting != casting } }

/-! ### Retirement candidates (R203, R206) -/

/-- R206 keeps sub-channel q from being retired: its group has a retired one, or a footprint lies in the rows to be
withheld. -/
def Chip.retireBlocked (c : Chip) (q : Nat) : Bool :=
  let g := q / 8
  c.reg (Obj.groupRetired g) != 0xFF || c.reg (Obj.subchState q) != 0 ||
  c.mem.footprints.any fun f => f.base / groupWindow == g && decide (withheldFrom < f.base % groupWindow + f.bytes)

/-- The candidate to be taken next: automatic ones only while MEM_RETIRE_AUTO is true. -/
def Chip.nextCandidate (c : Chip) : Option (Nat × Option Origin) :=
  c.mem.candidates.find? fun x => x.2.isSome || c.reg Obj.memRetireAuto == 1

/-- One candidate begins its copy or is found blocked; `n` bounds how many are taken. -/
def Chip.startRetire (c : Chip) : Nat → Chip
  | 0 => c
  | n + 1 =>
    if c.mem.copying.isSome then c
    else
      match c.nextCandidate with
      | none => c
      | some x =>
        let c := { c with mem := { c.mem with candidates := c.mem.candidates.filter fun y => y != x } }
        if c.retireBlocked x.1 then
          let c := (c.setReg Obj.memRetireState 2).occur 3 9 .mem noRegion x.1 0
          Chip.startRetire (match x.2 with
            | some o => c.completeFailed o Obj.memRetireRequest 0
            | none => c) n
        else
          ((({ c with mem := { c.mem with copying := some x } }).setReg Obj.memRetireState 1).setReg
            Obj.memRetireProgress 0).setReg (Obj.subchState x.1) 1

def Chip.retireNext (c : Chip) : Chip := c.startRetire (c.mem.candidates.length + 1)

/-- Sub-channel q becomes a candidate where it is not one yet. -/
def Chip.addCandidate (c : Chip) (q : Nat) (o : Option Origin) : Chip :=
  let known := c.mem.candidates.any (fun x => x.1 == q) || (c.mem.copying.map (·.1)) == some q
  if o.isNone && (known || c.reg (Obj.subchState q) != 0) then c
  else ({ c with mem := { c.mem with candidates := c.mem.candidates ++ [(q, o)] } }).retireNext

/-- 24 h of MONO, in ns. -/
def dayNs : Nat := 86400000000000

/-- A corrected burst is counted; the limit within 24 h makes a candidate (R203). -/
def Chip.countCorrected (c : Chip) (q : Nat) : Chip :=
  let c := c.count (Obj.subchCorrected q) 1 64
  let l := ((Sparse.get [] c.mem.corrected q).filter fun m => decide (c.time.mono < m + dayNs)) ++ [c.time.mono]
  let c := { c with mem := { c.mem with corrected := Sparse.put [] c.mem.corrected q l } }
  if c.reg Obj.memRetireCorrLimit ≤ l.length then c.addCandidate q none else c

/-! ### Bursts (R190) -/

def Chip.burstTag (c : Chip) (a : Nat) : BurstTag := Sparse.get BurstTag.zero c.mem.tags (a / 32)

/-- A burst written whole with its tag. -/
def Chip.putBurst (c : Chip) (a : Nat) (d : Bytes) (t : BurstTag) : Chip :=
  { c with mem := { c.mem with
    cells := Memory.writeBytes c.mem.cells (a / 32 * 32) d
    tags := Sparse.put BurstTag.zero c.mem.tags (a / 32) t } }

def Chip.burstData (c : Chip) (a : Nat) : Bytes := Memory.readBytes c.mem.cells (a / 32 * 32) 32

def Chip.countBursts (c : Chip) (g n : Nat) : Chip := if g < 24 then c.count (Obj.groupMemBytes g) (32 * n) 64 else c

/-- Uncompressed bytes through a group's port. -/
def Chip.countPort (c : Chip) (g n : Nat) : Chip := if g < 24 then c.count (Obj.groupPortBytes g) n 64 else c

/-- A valid burst is delivered, unless it is poisoned. -/
def Chip.deliverBurst (c : Chip) (q : Nat) (d : Bytes) (t : BurstTag) : Option (Bytes × BurstTag) × Chip :=
  if t.poison then (none, (c.setSticky 3 4).count (Obj.subchPoisonReads q) 1 32) else (some (d, t), c)

/-- One burst is read: data and tag where it delivers them. No requester names an address beyond the last group (R184). -/
def Chip.readBurst (c : Chip) (a : Nat) (flips : Flips) : Option (Bytes × BurstTag) × Chip :=
  if memBytes ≤ a then (some (c.burstData a, BurstTag.zero), c)
  else
  let q := c.subchannelAt a
  let c := c.countBursts (a / groupWindow) 1
  let (d, tb) := applyErrors (c.burstData a) (c.burstTag a).byte flips
  match checkBurst flips with
  | .clean => c.deliverBurst q d (BurstTag.ofByte tb)
  | .single p v =>
    let (d, tb) := applyErrors d tb [(p, BitVec.ofNat 8 v)]
    let c := ((c.putBurst a d (BurstTag.ofByte tb)).occur 3 0 .mem noRegion (a / 32 * 32) 0).countCorrected q
    c.deliverBurst q d (BurstTag.ofByte tb)
  | .uncorrectable =>
    let t := { BurstTag.ofByte tb with poison := true }
    let c := (c.putBurst a d t).occur 3 1 .mem noRegion (a / 32 * 32) 0
    (none, (c.count (Obj.subchUncorrectable q) 1 32).addCandidate q none)

/-- Error pattern of the burst at `a`, in a list keyed by burst address. -/
def flipsAt (l : List (Nat × Flips)) (a : Nat) : Flips :=
  ((l.find? fun e => e.1 / 32 == a / 32).map (·.2)).getD []

/-- What a read of several bursts found: bytes and rates, or the first burst that delivered no data. -/
structure MemRead where
  data : Bytes
  rates : List Nat
  bad : Option Nat
deriving DecidableEq, Repr, Inhabited

/-- `n` bursts from address `a` on. -/
def Chip.readBursts (c : Chip) (flips : List (Nat × Flips)) (a : Nat) : Nat → MemRead × Chip
  | 0 => (⟨[], [], none⟩, c)
  | n + 1 =>
    match c.readBurst a (flipsAt flips a) with
    | (none, c) => (⟨[], [], some (a / 32 * 32)⟩, c)
    | (some (d, t), c) =>
      let (r, c) := Chip.readBursts c flips (a + 32) n
      (⟨d ++ r.data, t.rate.toNat :: r.rates, r.bad⟩, c)

/-- Raw bytes read; the module address of the burst that delivered none otherwise. -/
def Chip.readMem (c : Chip) (flips : List (Nat × Flips)) (a n : Nat) : (Bytes ⊕ Nat) × Chip :=
  let b := a / 32 * 32
  let (r, c) := c.readBursts flips b ((a + n - b + 31) / 32)
  match r.bad with
  | some x => (.inr x, c)
  | none => (.inl (slice r.data (a - b) n), c.countPort (a / groupWindow) n)

/-- Bytes written as they stand: whole bursts with RATE 0 and no poison; a burst written in part keeps its tag (R190, R193). -/
def Chip.writeStored (c : Chip) (a : Nat) (d : Bytes) : Chip :=
  let last := a + d.length
  let first := (a + 31) / 32
  let full := (List.range (last / 32 - first)).map (· + first)
  let c := c.countBursts (a / groupWindow) ((last + 31) / 32 - a / 32)
  { c with mem := { c.mem with
    cells := Memory.writeBytes c.mem.cells a d
    tags := full.foldl (fun m k => Sparse.put BurstTag.zero m k BurstTag.zero) c.mem.tags } }

/-- Raw bytes written through the group's port. -/
def Chip.writeMem (c : Chip) (a : Nat) (d : Bytes) : Chip := (c.writeStored a d).countPort (a / groupWindow) d.length

/-! ### Compressed block images (R97, R98, R195 to R199) -/

/-- K of a rate: 32, 16 or 8. -/
def keptPerBlock (rate : Nat) : Nat := 64 / 2 ^ rate

/-- Bytes of a block image at a rate (Table 7-5). -/
def compressedBytes (code rate : Nat) : Nat :=
  if rate = 0 then imageBytes code
  else
    match TFmt.ofCode code with
    | none => 0
    | some f =>
      alignUp 32 (128 + 2 * keptPerBlock rate * f.elem.width * (if f.pair then 2 else 1) + if f.mx then 32 else 0)

/-- The 1,024 element codes of one plane of an image. -/
def planeElems (f : TFmt) (image : Bytes) (plane : Nat) : List Nat :=
  let n := 128 * f.elem.width
  let v := leNat (slice image (plane * n) n)
  (List.range 1024).map fun i => elemAt f.elem.width v i

/-- Value of element i, with its block's scale where the format has one. -/
def elemValue (f : TFmt) (scales : Bytes) (i code : Nat) : Num :=
  if f.mx then mxDecode f.elem (u8At scales (i / 32)) code else f.elem.decode code

/-- Order in which values of a block are kept: non-finite first, then larger magnitude, then lower index (R97). -/
def keepBefore (a b : Nat × Num) : Bool :=
  match a.2.isFinite, b.2.isFinite with
  | false, true => true
  | true, false => false
  | false, false => decide (a.1 < b.1)
  | true, true => b.2.abs.lt a.2.abs || (!(a.2.abs.lt b.2.abs) && decide (a.1 < b.1))

def insertKept (x : Nat × Num) : List (Nat × Num) → List (Nat × Num)
  | [] => [x]
  | y :: r => if keepBefore x y then x :: y :: r else y :: insertKept x r

/-- Kept and dropped values of one block of 64, from its (index, value) pairs that are not zero. -/
def splitBlock (k : Nat) (l : List (Nat × Num)) : List (Nat × Num) × List (Nat × Num) :=
  let s := l.foldl (fun m x => insertKept x m) []
  (s.take k, s.drop k)

/-- An image encoded (Table 7-4), with what was dropped. -/
structure Encoded where
  image : Bytes
  dropped : List Num
deriving DecidableEq, Repr, Inhabited

/-- Value slots of one block in a plane: kept codes in ascending order, the rest 0. -/
def slotCodes (k : Nat) (elems : List Nat) (kept : List Nat) : List Nat :=
  let l := kept.map fun i => elems.getD i 0
  l ++ List.replicate (k - l.length) 0

/-- Encoder of R194. -/
def encodeImage (code rate : Nat) (image : Bytes) : Encoded :=
  match TFmt.ofCode code with
  | none => ⟨image, []⟩
  | some f =>
    let k := keptPerBlock rate
    let w := f.elem.width
    let hi := planeElems f image 0
    let lo := if f.pair then planeElems f image 1 else []
    let scales := if f.mx then image.drop (128 * w) else []
    let blocks := (List.range 16).map fun t =>
      splitBlock k (((List.range 64).map fun j => 64 * t + j).filterMap fun i =>
        let v := elemValue f scales i (hi.getD i 0)
        if v.isZero then none else some (i, v))
    let keptOf := blocks.map fun b => (List.range 1024).filter fun i => b.1.any fun x => x.1 == i
    let maps := (keptOf.map fun l => leBytes 8 (l.foldl (fun m i => m + 2 ^ (i % 64)) 0)).flatten
    let area := fun (es : List Nat) =>
      leBytes (2 * k * w) (packElems w ((keptOf.map fun l => slotCodes k es l).flatten))
    let body := maps ++ area hi ++ (if f.pair then area lo else []) ++ scales
    ⟨padTo (compressedBytes code rate) body, (blocks.map fun b => b.2.map (·.2)).flatten⟩

/-- Codes of one plane from its value area; the bitmap says which elements they are. -/
def spreadPlane (k w : Nat) (maps : List Nat) (area : Nat) : List Nat :=
  ((List.range 16).map fun t =>
    let m := maps.getD t 0
    (List.range 64).map fun j =>
      if bit m j then elemAt w area (t * k + ((List.range j).filter fun x => bit m x).length) else 0).flatten

/-- Bits set in a block's bitmap. -/
def popcount64 (m : Nat) : Nat := ((List.range 64).filter fun i => bit m i).length

/-- R198: no block keeps more than K, and every unused slot is 0. -/
def mapOk (k w : Nat) (maps : List Nat) (area : Nat) : Bool :=
  (List.range 16).all fun t =>
    let n := popcount64 (maps.getD t 0)
    decide (n ≤ k) && (List.range (k - n)).all fun j => elemAt w area (t * k + n + j) == 0

/-- Decoder: the image, or none where R198 refuses it. -/
def decodeImage (code rate : Nat) (b : Bytes) : Option Bytes :=
  match TFmt.ofCode code with
  | none => none
  | some f =>
    let k := keptPerBlock rate
    let w := f.elem.width
    let n := 2 * k * w
    let maps := (List.range 16).map fun t => u64At b (8 * t)
    let hi := leNat (slice b 128 n)
    let lo := leNat (slice b (128 + n) n)
    if !mapOk k w maps hi || (f.pair && !mapOk k w maps lo) then none
    else
      let plane := fun a => leBytes (128 * w) (packElems w (spreadPlane k w maps a))
      some (plane hi ++ (if f.pair then plane lo else []) ++
        if f.mx then slice b (128 + n * if f.pair then 2 else 1) 32 else [])

/-- Dropped values of one tensor are counted (R199), with the largest finite or infinite magnitude as binary32. -/
def Chip.noteDrops (c : Chip) (tensor : Nat) (l : List Num) : Chip :=
  if l.isEmpty then c
  else
    let c := c.count Obj.memCmpDropped l.length 64
    let old := (c.step.deltaDrops.find? fun e => e.1 == tensor).elim (0, 0#32) (·.2)
    let mag := l.foldl (fun m v => f32Max m (match v with
      | .fin _ s e => (Fmt.f32.deliver .rne false s e).1
      | .inf _ => 0x7F800000
      | .nan _ _ => 0)) old.2.toNat
    let c := { c with step := { c.step with
      deltaDrops := Sparse.insert c.step.deltaDrops tensor (old.1 + l.length, BitVec.ofNat 32 mag) } }
    if l.any fun v => !v.isFinite then c.occur 3 5 .mem noRegion tensor 0 else c

/-- Bursts of a stored image, all with the image's rate in their tags; `port` bytes went through the group's port. -/
def Chip.putImage (c : Chip) (a rate : Nat) (d : Bytes) (port : Nat) : Chip :=
  let c := (c.writeStored a d).countPort (a / groupWindow) port
  { c with mem := { c.mem with
    tags := (List.range (d.length / 32)).foldl
      (fun m k => Sparse.put BurstTag.zero m (a / 32 + k) ⟨false, BitVec.ofNat 2 rate⟩) c.mem.tags } }

/-- A block image written at a rate (R194). -/
def Chip.writeImage (c : Chip) (code rate tensor a : Nat) (image : Bytes) : Chip :=
  if rate = 0 then c.putImage a 0 image image.length
  else
    let e := encodeImage code rate image
    (c.putImage a rate e.image image.length).noteDrops tensor e.dropped

/-- How a read of an image ends. -/
inductive ImageRead where
  /-- Bytes (decoded, or as stored under pass-through) and the stored rate. -/
  | ok (data : Bytes) (rate : Nat)
  | noData (a : Nat)
  | badMap
deriving DecidableEq, Repr, Inhabited

/-- A block image read at its stored rate (R197, R198). `through` leaves it as stored. -/
def Chip.readImage (c : Chip) (flips : List (Nat × Flips)) (code a : Nat) (through : Bool) : ImageRead × Chip :=
  match c.readBursts flips a 1 with
  | (r, c) =>
    match r.bad with
    | some _ => (.noData a, c)
    | none =>
      let rate := r.rates.headD 0
      let (r2, c) := c.readBursts flips (a + 32) (compressedBytes code rate / 32 - 1)
      if r2.bad.isSome || r2.rates.any (fun x => x != rate) then (.noData a, c)
      else
        let d := r.data ++ r2.data
        if rate = 0 then (.ok d 0, c.countPort (a / groupWindow) d.length)
        else
          match decodeImage code rate d with
          | some im =>
            let b := if through then d else im
            (.ok b rate, c.countPort (a / groupWindow) b.length)
          | none => (.badMap, (c.count Obj.memCmpBadMap 1 32).occur 3 4 .mem noRegion a 0)

end Sys2Proof.Machine
end

