-- ==== Sys2Proof/Machine/Blocks.lean ====
section
/-! DEFINITION. Machine/Blocks.lean: tensors as block images in logical order (R119, R122, R123): where the image of a
block stands, and a tensor's elements to and from its images. -/

namespace Sys2Proof.Machine

/-- Groups of 8 × 8 blocks across `cols` columns. -/
def groupsAcross (cols : Nat) : Nat := ceilDiv (ceilDiv cols 32) 8

/-- Place of block (bi, bj) within its group: the bits of both interleaved. -/
def blockInGroup (bi bj : Nat) : Nat :=
  bj % 2 + 2 * (bi % 2) + 4 * (bj / 2 % 2) + 8 * (bi / 2 % 2) + 16 * (bj / 4 % 2) + 32 * (bi / 4 % 2)

/-- Image number of block (bi, bj) of a tensor with `cols` columns. -/
def imageNumber (cols bi bj : Nat) : Nat := (bi / 8 * groupsAcross cols + bj / 8) * 64 + blockInGroup bi bj

/-- Block whose image has this number. -/
def blockOfImage (cols n : Nat) : Nat × Nat :=
  let g := n / 64
  let w := n % 64
  let b := fun i => w / 2 ^ i % 2
  (g / groupsAcross cols * 8 + b 1 + 2 * b 3 + 4 * b 5, g % groupsAcross cols * 8 + b 0 + 2 * b 2 + 4 * b 4)

/-- Images of a rows × cols tensor, groups counted whole (R123). -/
def imageCount (rows cols : Nat) : Nat := ceilDiv (ceilDiv rows 32) 8 * groupsAcross cols * 64

/-- Image number and element number within it of element (i, j). -/
def elementPlace (cols i j : Nat) : Nat × Nat := (imageNumber cols (i / 32) (j / 32), 32 * (i % 32) + j % 32)

/-- Code of an element of width `w` in an image. -/
def imageElem (w : Nat) (image : Bytes) (n : Nat) : Nat :=
  leNat (slice image (w * n / 8) ((w + 7) / 8 + 1)) / 2 ^ (w * n % 8) % 2 ^ w

/-- The images of a tensor whose element (i, j) has code `get i j`; padding elements have code 0. -/
def tensorImages (rows cols w : Nat) (get : Nat → Nat → Nat) : List Bytes :=
  (List.range (imageCount rows cols)).map fun n =>
    let (bi, bj) := blockOfImage cols n
    leBytes (128 * w) (packElems w ((List.range 1024).map fun e =>
      let i := 32 * bi + e / 32
      let j := 32 * bj + e % 32
      if i < rows ∧ j < cols then get i j else 0))

/-- Element (i, j) of a tensor from its images. -/
def tensorElem (images : List Bytes) (cols w i j : Nat) : Nat :=
  let (n, e) := elementPlace cols i j
  imageElem w (images.getD n []) e

/-- Images of a stored tensor, read at their stored rates; the first that delivers no data stops the read with its
address (R197). -/
def Chip.readTensorImages (c : Chip) (code base : Nat) : Nat → Nat → (List Bytes ⊕ Nat) × Chip
  | _, 0 => (.inl [], c)
  | i, n + 1 =>
    let a := base + i * imageBytes code
    match c.readImage [] code a false with
    | (.ok d _, c) =>
      match Chip.readTensorImages c code base (i + 1) n with
      | (.inl l, c) => (.inl (d :: l), c)
      | (.inr x, c) => (.inr x, c)
    | (.noData x, c) => (.inr x, c)
    | (.badMap, c) => (.inr a, c)

/-- Images written one after another with RATE 0. -/
def Chip.writeImages (c : Chip) (code base : Nat) (l : List Bytes) : Chip :=
  c.each ((List.range l.length).zip l) fun c x => c.writeImage code 0 0 (base + x.1 * imageBytes code) x.2

end Sys2Proof.Machine
end

