-- ==== Sys2Proof/Machine/Falcon.lean ====
section
/-! DEFINITION. Machine/Falcon.lean: verification of a Falcon-1024 signature, as the Falcon specification (round 3 of
the NIST competition, with the compressed signature encoding) gives it; the spec names it and does not restate it
(PRESUMED, assumption log 30). Signature fields follow R496. -/

namespace Sys2Proof.Machine

def falconQ : Nat := 12289
def falconN : Nat := 1024
/-- Largest squared norm of an accepted signature. -/
def falconBound : Nat := 70265242

/-- Bits of a byte string, most significant bit of each byte first. -/
def bitsOf (b : Bytes) : List Bool :=
  (b.map fun x => (List.range 8).map fun i => x.toNat.testBit (7 - i)).flatten

/-- Number that bits spell, most significant first. -/
def natOfBits (l : List Bool) : Nat := l.foldl (fun n b => 2 * n + if b then 1 else 0) 0

/-- `n` coefficients of 14 bits. -/
def falconCoeffs14 : Nat → List Bool → List Nat
  | 0, _ => []
  | n + 1, l => natOfBits (l.take 14) :: falconCoeffs14 n (l.drop 14)

/-- A public key: header 0x0A and 1,024 coefficients below q. -/
def falconKey (pk : Bytes) : Option (List Nat) :=
  if pk.length = 1793 ∧ pk.headD 0 = 0x0A#8 then
    let h := falconCoeffs14 falconN (bitsOf (pk.drop 1))
    if h.all fun x => decide (x < falconQ) then some h else none
  else none

/-- Zeros before the next one, and what follows that one. -/
def unaryRun : List Bool → Option (Nat × List Bool)
  | [] => none
  | true :: r => some (0, r)
  | false :: r => (unaryRun r).map fun p => (p.1 + 1, p.2)

/-- `n` coefficients in compressed form: sign, seven low bits, high part in unary; −0 is refused, and so is any rest
that is not 0. -/
def falconDecompress : Nat → List Bool → Option (List Int)
  | 0, l => if l.any id then none else some []
  | n + 1, l =>
    match l with
    | [] => none
    | s :: r =>
      if r.length < 7 then none
      else
        match unaryRun (r.drop 7) with
        | none => none
        | some (k, rest) =>
          let m := natOfBits (r.take 7) + 128 * k
          if s && m == 0 then none
          else (falconDecompress n rest).map fun t => (if s then -(m : Int) else (m : Int)) :: t

/-- Point of the hash: 16-bit samples below 5q, most significant byte first, reduced modulo q. -/
def falconHash (nonce msg : Bytes) : List Nat :=
  let b := shake256 8192 (nonce ++ msg)
  (((List.range 4096).filterMap fun i =>
    let t := (b.getD (2 * i) 0).toNat * 256 + (b.getD (2 * i + 1) 0).toNat
    if t < 5 * falconQ then some (t % falconQ) else none)).take falconN

/-- Product of two polynomials modulo x^1024 + 1 and q. Coefficients below q are laid 64 bits apart, so that one
product of numbers holds every coefficient of the product of polynomials. -/
def falconMul (a b : List Nat) : List Nat :=
  let num := fun (l : List Nat) => l.foldr (fun x n => x + n * 2 ^ 64) 0
  let p := num a * num b
  (List.range falconN).map fun i =>
    (p / 2 ^ (64 * i) % 2 ^ 64 + falconQ * 2 ^ 50 - p / 2 ^ (64 * (i + falconN)) % 2 ^ 64) % falconQ

/-- Square of the representative of x modulo q nearest to 0. -/
def centredSquare (x : Nat) : Nat :=
  let y := if falconQ < 2 * x then falconQ - x else x
  y * y

/-- The signature verifies under the key over the message. -/
def falconVerify (pk msg sig : Bytes) : Bool :=
  match falconKey pk with
  | none => false
  | some h =>
    if sig.length < 41 ∨ sig.headD 0 ≠ 0x3A#8 then false
    else
      match falconDecompress falconN (bitsOf (sig.drop 41)) with
      | none => false
      | some s2 =>
        let c := falconHash ((sig.drop 1).take 40) msg
        let s2q := s2.map fun x => (x % (falconQ : Int)).toNat
        let t := falconMul s2q h
        let s1 := (c.zip t).map fun p => (p.1 + falconQ - p.2) % falconQ
        let norm := s1.foldl (fun n x => n + centredSquare x) 0 + s2.foldl (fun n x => n + x.natAbs * x.natAbs) 0
        c.length == falconN && decide (norm ≤ falconBound)

/-- A signature field of R496: SIG_BYTES from 1 to 1,280, 1,280 bytes with padding of zeros, verified. -/
def signatureOk (pk msg : Bytes) (sigBytes : Nat) (field : Bytes) : Bool :=
  decide (1 ≤ sigBytes) && decide (sigBytes ≤ 1280) && field.length == 1280 && (field.drop sigBytes).all (· == 0#8) &&
  falconVerify pk msg (field.take sigBytes)

end Sys2Proof.Machine
end

