-- ==== Sys2Proof/Machine/BzLink.lean ====
section
/-! DEFINITION. Machine/BzLink.lean: the Braze link layer (R308 to R317): discards, acknowledgement, retry, sequencing,
duplicates, credits, lost peers, and the presence quotes that probes carry (R479, R480). -/

namespace Sys2Proof.Machine

/-! ### Port states (R308) -/

/-- A port changes state: the change is written to the fault log, with BZ_PORT_DOWN where the port went down. -/
def Chip.setBzPort (c : Chip) (p v : Nat) : Chip :=
  let old := c.reg (Obj.bzPortState p)
  if old = v then c
  else
    let c := (c.setReg (Obj.bzPortState p) v).bzRefreshState
    if old = 2 then c.occur 8 0 .bz noRegion p v
    else if v = 3 then c.occur 8 1 .bz noRegion p v
    else c.log .bz 0x0100 noRegion p v

/-! ### Receiving a frame (R311) -/

/-- Fields are as Table 12-3 gives for a frame of this class, and the frame is for this module. -/
def Chip.bzWellFormed (c : Chip) (cls : Nat) (f : BzFrame) : Bool :=
  let h := f.hdr
  f.fcsOk && f.pcsOk && h.vt.toNat == 16 + cls && h.flags.toNat / 8 == 0 && h.reserved == 0 && h.fmt.toNat / 16 == 0 &&
  h.len.toNat == f.payload.length && decide (f.payload.length ≤ 8192) && h.dst.toNat == c.reg Obj.bzModuleNumber

/-- A frame that arrives on a port: whether it is taken; it is not where it is discarded, or the port is not up. -/
def Chip.bzArrive (c : Chip) (p cls : Nat) (f : BzFrame) : Bool × Chip :=
  if !c.bzUp p then (false, c)
  else if c.bzWellFormed cls f then (true, c.count (Obj.bzPortBytesRx p) f.payload.length 64)
  else
    let c := if f.pcsOk then c else c.count (Obj.bzPortFecUncorrectable p) 1 64
    (false, c.count (Obj.bzPortDiscards p) 1 64)

/-! ### Lost peers (R315) -/

def Chip.bzCountLost (c : Chip) : Chip :=
  c.setReg Obj.bzPeersLost ((c.bz.flows.filter fun e => e.2.lost).length % 65536)

/-- The peer is treated as lost: frames for it are discarded. -/
def Chip.bzDropPeer (c : Chip) (peer : Nat) : Chip :=
  (c.setBzFlow peer { c.bzFlow peer with lost := true, unacked := [], waiting := [] }).bzCountLost

/-- The flow to the peer fails. -/
def Chip.bzFlowFail (c : Chip) (peer : Nat) : Chip := (c.bzDropPeer peer).occur 8 3 .bz noRegion peer 0

/-- The flow to a peer starts again at SEQ 0 with EPOCH incremented. -/
def Chip.bzRestartFlow (c : Chip) (peer : Nat) : Chip :=
  let fl := c.bzFlow peer
  (c.setBzFlow peer { fl with lost := false, epoch := fl.epoch + 1, nextSeq := 0, unacked := [], waiting := [] }).bzCountLost

/-! ### Acknowledgement and retry (R312, R313) -/

/-- How far SEQ `b` lies past SEQ `a`, modulo 2^32. -/
def seqPast (a b : BitVec 32) : Nat := (b - a).toNat

/-- SEQ `s` lies before ACK `a`. -/
def seqBefore (s a : BitVec 32) : Bool := let d := seqPast s a; decide (1 ≤ d) && decide (d < 2 ^ 31)

/-- One retransmission of a stored frame, on the next up port, with FLAGS[0] set. After BZ_RETRY_LIMIT of them the flow
fails. -/
def Chip.bzRetransmit (c : Chip) (peer : Nat) (s : Stored) : Chip :=
  if c.reg Obj.bzRetryLimit ≤ s.tries then c.bzFlowFail peer
  else
    let fl := c.bzFlow peer
    let f := { s.frame with hdr := { s.frame.hdr with flags := s.frame.hdr.flags ||| 1, ack := fl.rxNext } }
    let c := c.setBzFlow peer { fl with unacked := fl.unacked.map fun x =>
      if x.frame.hdr.seq = s.frame.hdr.seq then { x with tries := x.tries + 1 } else x }
    ((c.count Obj.bzRetries 1 64).occur 8 2 .bz noRegion peer s.frame.hdr.seq.toNat).bzTransmit peer f

/-- An ACK of the peer frees the store (R312). -/
def Chip.bzTakeAck (c : Chip) (peer : Nat) (ack : BitVec 32) : Chip :=
  let fl := c.bzFlow peer
  let c := c.setBzFlow peer { fl with unacked := fl.unacked.filter fun s => !seqBefore s.frame.hdr.seq ack }
  c.bzDrain peer (fl.waiting.length + 1)

/-- Bit i of an acknowledgement map: SEQ ACK + 1 + i is held. -/
def ackHeld (ack : BitVec 32) (map : Nat) (s : BitVec 32) : Bool :=
  let d := seqPast ack s
  decide (1 ≤ d) && decide (d ≤ 64) && bit map (d - 1)

/-- Frames that the map shows missing: not held, while a later SEQ is. -/
def Chip.bzTakeMap (c : Chip) (peer : Nat) (ack : BitVec 32) (map : Nat) : Chip :=
  let top := bitLen map
  c.each (c.bzFlow peer).unacked fun c s =>
    if seqPast ack s.frame.hdr.seq < top && !ackHeld ack map s.frame.hdr.seq && !(c.bzFlow peer).lost
    then c.bzRetransmit peer s else c

/-- The acknowledgement of a flow: the next SEQ expected, and the map of those held beyond it. -/
def Chip.bzAcknowledge (c : Chip) (peer : Nat) : Chip :=
  let fl := c.bzFlow peer
  let map := fl.rxHeld.foldl (fun m f =>
    let d := seqPast fl.rxNext f.hdr.seq
    if 1 ≤ d ∧ d ≤ 64 then m ||| 2 ^ (d - 1) else m) 0
  c.bzSendLoose 1 peer 0 0 0 (beBytes 8 map)

/-! ### Sequencing (R312, R314) -/

/-- Frames held from `next` on without a gap, in order, with the SEQ after them and the rest. -/
def runOf (held : List BzFrame) (next : BitVec 32) : Nat → List BzFrame × BitVec 32 × List BzFrame
  | 0 => ([], next, held)
  | n + 1 =>
    match held.find? fun f => f.hdr.seq == next with
    | none => ([], next, held)
    | some f =>
      let (l, e, r) := runOf (held.filter fun x => x.hdr.seq != next) (next + 1) n
      (f :: l, e, r)

/-- A frame of class 0, 3, 4 or 5 in its flow: what it lets be delivered, in SEQ order. -/
def Chip.bzSequence (c : Chip) (peer : Nat) (f : BzFrame) : List BzFrame × Chip :=
  let ahead := (f.hdr.epoch - (c.bzFlow peer).rxEpoch).toNat
  if 128 ≤ ahead then ([], c)
  else
    let fl := c.bzFlow peer
    let fl := if ahead = 0 then fl else { fl with rxEpoch := f.hdr.epoch, rxNext := 0, rxHeld := [] }
    let c := c.setBzFlow peer fl
    if seqBefore f.hdr.seq fl.rxNext || fl.rxHeld.any fun x => x.hdr.seq == f.hdr.seq then
      ([], (c.count Obj.bzDuplicates 1 64).bzAcknowledge peer)
    else if 255 < seqPast fl.rxNext f.hdr.seq then ([], c)
    else
      let held := fl.rxHeld ++ [f]
      let (l, e, r) := runOf held fl.rxNext held.length
      (l, (c.setBzFlow peer { fl with rxNext := e, rxHeld := r }).bzAcknowledge peer)

/-! ### Presence quotes (R479, R480) -/

/-- Bytes of a quote (Table 20-9). -/
def quoteBytes : Nat := 3264

def quoteDevice (q : Bytes) : Bytes := slice q 0x28 32
def quoteStart (q : Bytes) : Nat := u64At q 0x48
def quoteSite (q : Bytes) : Nat := u8At q 0x68
def quoteModule (q : Bytes) : Nat := u16At q 0x6A
def quoteKey (q : Bytes) : Bytes := slice q 0xB0 1793

/-- Nonce of a presence quote for a start count. -/
def presenceNonce (start : Nat) : Bytes :=
  shake256 32 ([0x43, 0x57, 0x34, 0x38, 0x37, 0x32, 0x20, 0x70, 0x72, 0x65, 0x73, 0x65, 0x6E, 0x63, 0x65] ++ leBytes 8 start)

/-- The quote is one: its layout and signature, its identity and its nonce. -/
def quoteGenuine (q : Bytes) : Bool :=
  q.length == quoteBytes && u32At q 0 == 0x514C4148 && u16At q 4 == 1 &&
  signatureOk (quoteKey q) (q.take 0x7C0) (u16At q 0x7B8) (slice q 0x7C0 1280) &&
  quoteDevice q == digest32 (quoteKey q) && slice q 8 32 == presenceNonce (quoteStart q)

/-- START_COUNT exceeds every one accepted from the same DEVICE_ID since this start. -/
def Chip.quoteFresh (c : Chip) (q : Bytes) : Bool :=
  !(c.bz.presented.any fun x => x.1 == quoteDevice q && decide (quoteStart q ≤ x.2.toNat))

/-- The enrolled list holds the identity at exactly its place. -/
def Chip.quoteEnrolled (c : Chip) (q : Bytes) : Bool :=
  c.emmc.enrolled.any fun x => x.1.toNat == quoteSite q && x.2.1.toNat == quoteModule q && x.2.2 == quoteDevice q

/-- R479 on an offered quote. -/
def Chip.quoteAccepted (c : Chip) (q : Bytes) : Bool := quoteGenuine q && c.quoteFresh q && c.quoteEnrolled q

/-- An accepted quote is remembered. -/
def Chip.acceptQuote (c : Chip) (q : Bytes) : Chip :=
  { c with bz := { c.bz with
    accepted := c.bz.accepted.filter (fun x => x.1.toNat != quoteModule q) ++ [(BitVec.ofNat 16 (quoteModule q), quoteDevice q)]
    presented := c.bz.presented ++ [(quoteDevice q, BitVec.ofNat 64 (quoteStart q))] } }

/-- What every refusal of R480 does. -/
def Chip.refusePeer (c : Chip) (module : Nat) (q : Bytes) : Chip :=
  (c.count Obj.peersRefused 1 32).occur 12 6 .id noRegion module (u64At (quoteDevice q) 0)

/-- The same quote as the one this module accepted from the same peer. -/
def Chip.quoteKnown (c : Chip) (peer : Nat) (q : Bytes) : Bool :=
  c.bz.accepted.any (fun x => x.1.toNat == peer && x.2 == quoteDevice q) &&
  c.bz.presented.any fun x => x.1 == quoteDevice q && x.2.toNat == quoteStart q

/-! ### Probes (R315, R317) -/

/-- A probe of a peer. -/
def Chip.bzProbe (c : Chip) (peer : Nat) : Chip := c.bzSendLoose 6 peer 0 0 0 []

/-- BZ_NUMBER_CONFLICT: neither module carries a frame of class 0 to 5 until a number changes. -/
def Chip.bzConflict (c : Chip) : Chip :=
  if c.bz.conflict then c
  else (({ c with bz := { c.bz with conflict := true } }).bzRefreshState).occur 8 4 .bz noRegion (c.reg Obj.bzModuleNumber) 0

/-- The two ends are the same number with different identities. -/
def Chip.bzSameNumber (c : Chip) (peer : Nat) : Bool :=
  peer == c.reg Obj.bzModuleNumber && peer != noModule

/-- A reply: number check, presence quote, and a lost peer's flows start again. -/
def Chip.bzProbeReply (c : Chip) (peer : Nat) (q : Bytes) : Chip :=
  if c.bzSameNumber peer then
    if quoteDevice q = c.blob Obj.deviceId then c else c.bzConflict
  else
    let known := c.quoteKnown peer q
    if known || (c.quoteAccepted q && quoteModule q == peer) then
      let c := if known then c else c.acceptQuote q
      if (c.bzFlow peer).lost then c.bzRestartFlow peer else c
    else (c.bzDropPeer peer).refusePeer peer q

/-- A probe is answered with the presence quote, once there is one. -/
def Chip.bzProbed (c : Chip) (peer : Nat) : Chip :=
  let c := if c.bzSameNumber peer then c.bzConflict else c
  if c.ident.presence.isEmpty then c else c.bzSendLoose 6 peer 0 0 0 c.ident.presence

/-! ### Credits (R316, R321) -/

/-- Chunk credits of a collective at a peer, among the credits. -/
def chunkKey (peer step number : Nat) : Nat := 2 ^ 64 * (1 + peer) + 2 ^ 32 * step + number

/-- A cumulative grant is taken: a smaller one is an older frame. -/
def Chip.bzGranted (c : Chip) (key n : Nat) : Chip :=
  let x := c.bzCredit key
  c.setBzCredit key { x with granted := Nat.max x.granted n }

/-- The latest credit frame of a route is repeated while credits granted on it remain unused (R312). -/
def Chip.bzRepeatCredit (c : Chip) (ch : Nat) : Chip :=
  let x := c.bzCredit ch
  match c.bindingAt ch with
  | none => c
  | some (_, b) =>
    if x.taken < x.given && b.peerModule.toNat == c.reg Obj.bzModuleNumber then c.bzSendLoose 2 b.module.toNat ch 0 x.given [] else c

/-! ### Messages of bound routes (R294, R316) -/

/-- A credit is free for the route's binding. -/
def Chip.bzHasCredit (c : Chip) (ch : Nat) : Bool := let x := c.bzCredit ch; decide (x.used < x.granted)

/-- A message of a kind 4 route leaves for the other end of its binding; it uses one credit. -/
def Chip.bzSendMessage (c : Chip) (ch peer : Nat) (data : Bytes) : Chip :=
  let x := c.bzCredit ch
  let n := Sparse.get 0 c.bz.msgNumbers ch
  let c := c.setBzCredit ch { x with used := x.used + 1 }
  ({ c with bz := { c.bz with msgNumbers := Sparse.put 0 c.bz.msgNumbers ch (n + 1) } }).bzSendBytes 0 0 peer ch (n % 2 ^ 32) 0 0 data

/-- One frame of a message, in order: the last one hands the message to the channel of its kind 3 route. -/
def Chip.bzTakeMessage (c : Chip) (peer : Nat) (f : BzFrame) : Chip :=
  let ch := f.hdr.channel
  match c.bindingAt ch.toNat with
  | none => c
  | some (slot, b) =>
    if b.module.toNat != peer || b.peerModule.toNat != c.reg Obj.bzModuleNumber then c
    else
      let old := ((c.bz.partials.find? fun x => x.1 == ch && x.2.1 == f.hdr.msg).map (·.2.2)).getD []
      let rest := c.bz.partials.filter fun x => !(x.1 == ch && x.2.1 == f.hdr.msg)
      let data := old ++ f.payload
      if bit f.hdr.flags.toNat 1 then
        let x := c.bzCredit ch.toNat
        let c := c.setBzCredit ch.toNat { x with taken := x.taken + 1 }
        { c with bz := { c.bz with partials := rest, inbox := c.bz.inbox ++ [(slot * 4096 + b.peerRoute.toNat, data)] } }
      else { c with bz := { c.bz with partials := rest ++ [(ch, f.hdr.msg, data)] } }

end Sys2Proof.Machine
end

