-- ==== Sys2Proof/Machine/Vector.lean ====
section
/-! DEFINITION. Machine/Vector.lean: the vector instructions as commands (Table 5-3): issue, validity (R152), the faults
of R148 to R150, and one meaning per opcode. A command stands for the tile sequencer issuing the instruction; a tile
that does not issue (halted, waiting, faulted, idle) takes no effect from it. -/

namespace Sys2Proof.Machine

/-- Types an instruction accepts, by TYPE code (Table 5-3). -/
def tyNone : List Nat := [0]
def tyF : List Nat := [0]
def tyFH : List Nat := [0, 1]
def tyFHB : List Nat := [0, 1, 2]
def tyIU : List Nat := [3, 4]
def tyFIU : List Nat := [0, 3, 4]
def tyFHBIU : List Nat := [0, 1, 2, 3, 4]

/-- What makes an instruction valid besides its opcode: the types it accepts, whether it rounds under RND, the bits of
X it names, and its own conditions (R152). -/
structure VRule where
  types : List Nat
  attr : Bool
  xmask : Nat

/-- Register conditions of R129, R138 and R150. -/
inductive VRegs where
  | plain
  /-- VD names a scalar register that is not s0. -/
  | toScalar
  /-- VD names a scalar register (a source). -/
  | fromScalarD
  /-- VD names a mask register that is not m0. -/
  | toMask
  /-- VA names a scalar register. -/
  | fromScalar
  /-- VD as `toScalar`, VA a scalar register. -/
  | scalarToScalar
  /-- VD as `toMask`, VA and VB mask registers. -/
  | maskToMask
  /-- As `maskToMask` with VA alone. -/
  | maskToMask1
  /-- VD even. -/
  | pairTo
  /-- VD and VA even. -/
  | pairToFrom
  /-- VD at most 30. -/
  | doubleReg
  /-- MZ is 0. -/
  | noMz
deriving DecidableEq, Repr

def VRegs.ok (r : VRegs) (f : VFields) : Bool :=
  let d := f.vd.toNat
  let a := f.va.toNat
  let b := f.vb.toNat
  match r with
  | .plain => true
  | .toScalar => decide (1 ≤ d) && decide (d ≤ 15)
  | .fromScalarD => decide (d ≤ 15)
  | .toMask => decide (1 ≤ d) && decide (d ≤ 7)
  | .fromScalar => decide (a ≤ 15)
  | .scalarToScalar => decide (1 ≤ d) && decide (d ≤ 15) && decide (a ≤ 15)
  | .maskToMask => decide (1 ≤ d) && decide (d ≤ 7) && decide (a ≤ 7) && decide (b ≤ 7)
  | .maskToMask1 => decide (1 ≤ d) && decide (d ≤ 7) && decide (a ≤ 7)
  | .pairTo => d % 2 == 0
  | .pairToFrom => d % 2 == 0 && a % 2 == 0
  | .doubleReg => d != 31
  | .noMz => f.mz == 0

/-- TYPE, RND and the reserved bits of X (R136, R152). -/
def VRule.ok (r : VRule) (f : VFields) : Bool :=
  let ty := f.ty.toNat
  let rnd := f.rnd.toNat
  r.types.contains ty && rnd != 5 && rnd != 6 && (rnd == 0 || (r.attr && decide (ty ≤ 2))) &&
  (f.x.toNat &&& (2 ^ 26 - 1 - r.xmask)) == 0

/-- The next word lies within the program and starts an instruction (R151, R163). -/
def Tile.fetchOk (t : Tile) : Bool := decide (t.pc < t.progWords) && !t.kindMap.getD t.pc false

/-- Word `i` may be branched to: within the program, and no high word of a matrix command (R151). -/
def Tile.targetOk (t : Tile) (i : Int) : Bool :=
  decide (0 ≤ i) && decide (i < t.progWords) && (i == 0 || !t.kindMap.getD (i.toNat - 1) false)

/-- What an instruction takes from the region and the step. -/
def Chip.vIn (c : Chip) (tile : Nat) : VIn :=
  ⟨c.reg (Obj.regionArith ((c.tile tile).region.getD 0)), c.step.key.toNat, c.reg Obj.absurdThreshold⟩

/-- An invalid instruction (R152): nothing read or written, the bit, the count and the tile fault. -/
def Chip.vInvalid (c : Chip) (tile : Nat) : Chip :=
  (c.count Obj.vecInstrInvalidCount 1 32).tileFault tile bitVecInstrInvalid (c.tile tile).here 0

/-- One instruction issues: its effect on the tile, the count of issues, its flags, assay notes and empty reduction. -/
def Chip.vApply (c : Chip) (tile : Nat) (e : VEff) (pc : Nat) : Chip :=
  let t := c.tile tile
  let h := t.region.getD 0
  let a := tileAddress tile t.here
  let c := (c.count Obj.vecIssued 1 64).setTile tile { e.tile with pc := pc }
  let c := if e.empty then (c.count Obj.vecEmptyCount 1 64).occurRegion h bitVecEmpty .tile a 0 else c
  let c := c.raise h e.flags a
  c.each e.notes fun c n => c.assay h n

/-- A register instruction as a command. -/
def Chip.vInstr (c : Chip) (tile : Nat) (f : VFields) (r : VRule) (g : VRegs)
    (extra : VIn → VFields → Tile → Bool) (body : VBody) : Chip :=
  if !(c.tile tile).running then c
  else
    let c := c.settle tile f
    let t := c.tile tile
    let i := c.vIn tile
    if t.fetchOk && r.ok f && g.ok f && extra i f t then c.vApply tile (body i f t) (t.pc + 1)
    else c.vInvalid tile

def noExtra : VIn → VFields → Tile → Bool := fun _ _ _ => true

/-! ### Conditions of single instructions -/

/-- FMT and PART of PACK and UNPACK (R140, R141): no binary32 form, MASK 0, PART below 2,048 ÷ (64 w). -/
def packFmtOk (f : VFields) : Bool :=
  match TFmt.ofCode f.fmt with
  | none => false
  | some tf => f.fmt != 0 && f.fmt != 12 && decide (f.part < 2048 / (64 * tf.elem.width)) && f.mask == 0

def packOk (i : VIn) (f : VFields) (t : Tile) : Bool :=
  packFmtOk f && (f.fmt != 13 || f.vd.toNat % 2 == 0) && (!f.pairsrc || f.va.toNat % 2 == 0) &&
  (!(scaledCode f.fmt || i.rnd f == 4) || decide (f.desc < t.descs.length))

def unpackOk (_ : VIn) (f : VFields) (t : Tile) : Bool :=
  packFmtOk f && (f.fmt != 13 || (f.vd.toNat % 2 == 0 && f.va.toNat % 2 == 0)) &&
  (!scaledCode f.fmt || decide (f.desc < t.descs.length))

/-- Index base of R144. -/
def argBaseOk (_ : VIn) (f : VFields) (t : Tile) : Bool := decide (t.sreg f.sb ≤ 0xFFFF7F)

/-! ### Control -/

/-- LOOP: the branch is to the LOOP's own word plus X where the new count is not 0 (R151). -/
def Chip.vLoopInstr (c : Chip) (tile : Nat) (f : VFields) : Chip :=
  if !(c.tile tile).running then c
  else
    let c := c.settle tile f
    let t := c.tile tile
    let i := c.vIn tile
    let target := (t.pc : Int) + Machine.signed 26 f.x.toNat
    if t.fetchOk && (VRule.mk tyNone false 0x3FFFFFF).ok f && VRegs.toScalar.ok f && t.targetOk target then
      let e := vLoop i f t
      c.vApply tile e (if e.tile.sreg f.vd.toNat = 0 then t.pc + 1 else target.toNat)
    else c.vInvalid tile

/-- WAITQ: the slot is taken where the queue is ready; otherwise issue is held (R156). -/
def Chip.vWaitq (c : Chip) (tile : Nat) (f : VFields) : Chip :=
  let t := c.tile tile
  if !t.running then c
  else if !(t.fetchOk && (VRule.mk tyNone false 0xFF).ok f) then c.vInvalid tile
  else
    match t.queue? f.queue with
    | none => c.vInvalid tile
    | some q =>
      if q.waitReady then c.vApply tile (VEff.plain (t.setQueue q.takeWait)) (t.pc + 1)
      else c.setTile tile { t.account c.time.mono with status := .waitingQueue (BitVec.ofNat 8 f.queue) }

/-- The queue a tile is held at becomes ready: the slot is taken and issue goes on. -/
def Chip.vWaitqReady (c : Chip) (tile : Nat) : Chip :=
  let t := c.tile tile
  match t.status with
  | .waitingQueue n =>
    match t.queue? n.toNat with
    | none => c
    | some q =>
      if q.waitReady then
        let t := { t.account c.time.mono with status := .running }
        (c.setTile tile t).vApply tile (VEff.plain (t.setQueue q.takeWait)) (t.pc + 1)
      else c
  | _ => c

/-- RELEASE (R156). A receive slot of a route bound to a peer gives its sender a credit (R316). -/
def Chip.vRelease (c : Chip) (tile : Nat) (f : VFields) : Chip :=
  let t := c.tile tile
  if !t.running then c
  else if !(t.fetchOk && (VRule.mk tyNone false 0xFF).ok f) then c.vInvalid tile
  else
    match t.queue? f.queue with
    | none => c.vInvalid tile
    | some q =>
      let freed := q.inbound && q.slot q.nextRelease == .held
      let c := c.vApply tile (VEff.plain (t.setQueue q.release)) (t.pc + 1)
      if freed then c.grantCredits (t.region.getD 0 / 64) q.route.toNat 1 else c

/-- MXWAIT: issue is held until the last matrix command's D is written. -/
def Chip.vMxwait (c : Chip) (tile : Nat) (f : VFields) : Chip :=
  let t := c.tile tile
  if !t.running then c
  else if !(t.fetchOk && (VRule.mk tyNone false 0).ok f) then c.vInvalid tile
  else if t.matrix.isEmpty then c.vApply tile (VEff.plain t) (t.pc + 1)
  else c.vApply tile (VEff.plain { t.account c.time.mono with status := .waitingMatrix }) (t.pc + 1)

/-- HALT: the tile's work in the schedule slot ends; queued accesses and matrix results complete first (R159). -/
def Chip.vHalt (c : Chip) (tile : Nat) (f : VFields) : Chip :=
  if !(c.tile tile).running then c
  else if !((c.tile tile).fetchOk && (VRule.mk tyNone false 0).ok f) then c.vInvalid tile
  else
    let c := (c.accessN tile (c.tile tile).memQueue.length).writeAllD tile
    let t := c.tile tile
    if t.running then c.vApply tile (VEff.plain { t.account c.time.mono with status := .halted }) (t.pc + 1) else c

/-! ### Tables (R148, R149) -/

/-- A refused or mismatched table: the bit, the count, and the fault at the instruction's own address. -/
def Chip.vTableFault (c : Chip) (tile detail : Nat) : Chip :=
  (c.count Obj.vecTableFaultCount 1 32).tileFault tile bitVecTableFault (c.tile tile).here detail

/-- TFN and TDER issue only with the pair whose TABLE_ID their TID names (R149). -/
def Chip.vTableInstr (c : Chip) (tile : Nat) (f : VFields) (body : VBody) : Chip :=
  if !(c.tile tile).running then c
  else
    let c := c.settle tile f
    let t := c.tile tile
    if !(t.fetchOk && (VRule.mk tyF false 0xFFFF).ok f) then c.vInvalid tile
    else
      match t.table with
      | none => c.vTableFault tile 0
      | some tab =>
        if f.tid = tableWord tab 44 % 2 ^ 16 then c.vApply tile (body (c.vIn tile) f t) (t.pc + 1)
        else c.vTableFault tile 0

/-! ### Memory (R150) -/

/-- A violating access: the bit, the count, and the fault at the data address. -/
def Chip.vAddrFault (c : Chip) (tile addr : Nat) : Chip :=
  (c.count Obj.vecAddrFaultCount 1 32).tileFault tile bitVecAddr addr 0

/-- Alignment and extent of an access (R150). -/
def accessOk (addr align n : Nat) : Bool := addr % align == 0 && decide (addr + n ≤ tileBytes)

/-- A memory instruction enters the queue, which holds 4 (R135). -/
def Chip.vMemory (c : Chip) (tile : Nat) (f : VFields) (g : VRegs) (align n : Nat) (op : Tile → Nat → MemOp) : Chip :=
  if !(c.tile tile).running then c
  else
    let c := c.settle tile f
    let t := c.tile tile
    let a := f.address t
    if !(t.fetchOk && (VRule.mk tyNone false 0x3FFFF00).ok f && g.ok f) then c.vInvalid tile
    else if !accessOk a align n then c.vAddrFault tile a
    else
      let c := if 4 ≤ t.memQueue.length then c.accessFront tile eccClean else c
      let t := c.tile tile
      c.vApply tile (VEff.plain { t with memQueue := t.memQueue ++ [op t a] }) (t.pc + 1)

/-- TLOAD: the pair is read once every access before it has taken place, and kept where it passes R148. -/
def Chip.vTload (c : Chip) (tile : Nat) (f : VFields) : Chip :=
  if !(c.tile tile).running then c
  else
    let c := c.accessN tile (c.tile tile).memQueue.length
    let t := c.tile tile
    let a := f.address t
    if !(t.fetchOk && (VRule.mk tyNone false 0x3FFFF00).ok f) then c.vInvalid tile
    else if !accessOk a 512 tablePairBytes then c.vAddrFault tile a
    else
      let c := c.awaitD tile a tablePairBytes
      let t := c.tile tile
      let tab := Memory.readBytes t.mem a tablePairBytes
      if tableOk tab then c.vApply tile (VEff.plain { t with table := some tab }) (t.pc + 1)
      else c.vTableFault tile a

/-- Bytes of a store: the lanes of one register, or of two. -/
def storeBytes (t : Tile) (vd : Nat) (pair : Bool) : Bytes :=
  leBytes 256 (t.vreg vd) ++ if pair then leBytes 256 (t.vreg (vd + 1)) else []

/-! ### The meanings -/

/-- NOP. -/
def execNop (tile : Fin 544) (f : VFields) (s : State) : Host.Outcome State Fault Refusal :=
  s.on fun c => c.vInstr tile f ⟨tyNone, false, 0⟩ .plain noExtra vNop

/-- SLI: s[d] = X. -/
def execSli (tile : Fin 544) (f : VFields) (s : State) : Host.Outcome State Fault Refusal :=
  s.on fun c => c.vInstr tile f ⟨tyNone, false, 0x3FFFFFF⟩ .toScalar noExtra vSli

/-- SADD: s[d] = s[a] + X. -/
def execSadd (tile : Fin 544) (f : VFields) (s : State) : Host.Outcome State Fault Refusal :=
  s.on fun c => c.vInstr tile f ⟨tyNone, false, 0x3FFFFFF⟩ .scalarToScalar noExtra vSadd

/-- LOOP (R151). -/
def execLoop (tile : Fin 544) (f : VFields) (s : State) : Host.Outcome State Fault Refusal :=
  s.on fun c => c.vLoopInstr tile f

/-- WAITQ (R156). -/
def execWaitq (tile : Fin 544) (f : VFields) (s : State) : Host.Outcome State Fault Refusal :=
  s.on fun c => c.vWaitq tile f

/-- The queue that a tile is held at becomes ready (R156). -/
def execWaitqReady (tile : Fin 544) (s : State) : Host.Outcome State Fault Refusal :=
  s.on fun c => c.vWaitqReady tile

/-- RELEASE (R156). -/
def execRelease (tile : Fin 544) (f : VFields) (s : State) : Host.Outcome State Fault Refusal :=
  s.on fun c => c.vRelease tile f

/-- MXWAIT. -/
def execMxwait (tile : Fin 544) (f : VFields) (s : State) : Host.Outcome State Fault Refusal :=
  s.on fun c => c.vMxwait tile f

/-- HALT (R159). -/
def execHalt (tile : Fin 544) (f : VFields) (s : State) : Host.Outcome State Fault Refusal :=
  s.on fun c => c.vHalt tile f

/-- ADD: a + b. -/
def execAdd (tile : Fin 544) (f : VFields) (s : State) : Host.Outcome State Fault Refusal :=
  s.on fun c => c.vInstr tile f ⟨tyFHBIU, true, 0⟩ .plain noExtra vAdd

/-- SUB: a − b. -/
def execSub (tile : Fin 544) (f : VFields) (s : State) : Host.Outcome State Fault Refusal :=
  s.on fun c => c.vInstr tile f ⟨tyFHBIU, true, 0⟩ .plain noExtra vSub

/-- MUL: a × b. -/
def execMul (tile : Fin 544) (f : VFields) (s : State) : Host.Outcome State Fault Refusal :=
  s.on fun c => c.vInstr tile f ⟨tyFHBIU, true, 0⟩ .plain noExtra vMul

/-- FMA: a × b + c, one rounding. -/
def execFma (tile : Fin 544) (f : VFields) (s : State) : Host.Outcome State Fault Refusal :=
  s.on fun c => c.vInstr tile f ⟨tyFHB, true, 0⟩ .plain noExtra vFma

/-- FMS: a × b − c, one rounding. -/
def execFms (tile : Fin 544) (f : VFields) (s : State) : Host.Outcome State Fault Refusal :=
  s.on fun c => c.vInstr tile f ⟨tyFHB, true, 0⟩ .plain noExtra vFms

/-- DIV: a ÷ b. -/
def execDiv (tile : Fin 544) (f : VFields) (s : State) : Host.Outcome State Fault Refusal :=
  s.on fun c => c.vInstr tile f ⟨tyF, true, 0⟩ .plain noExtra vDiv

/-- SQRT: √a. -/
def execSqrt (tile : Fin 544) (f : VFields) (s : State) : Host.Outcome State Fault Refusal :=
  s.on fun c => c.vInstr tile f ⟨tyF, true, 0⟩ .plain noExtra vSqrt

/-- MAX (R82). -/
def execMax (tile : Fin 544) (f : VFields) (s : State) : Host.Outcome State Fault Refusal :=
  s.on fun c => c.vInstr tile f ⟨tyFHBIU, false, 0⟩ .plain noExtra vMax

/-- MIN (R82). -/
def execMin (tile : Fin 544) (f : VFields) (s : State) : Host.Outcome State Fault Refusal :=
  s.on fun c => c.vInstr tile f ⟨tyFHBIU, false, 0⟩ .plain noExtra vMin

/-- ABS: sign bit cleared. -/
def execAbs (tile : Fin 544) (f : VFields) (s : State) : Host.Outcome State Fault Refusal :=
  s.on fun c => c.vInstr tile f ⟨tyFHB, false, 0⟩ .plain noExtra vAbs

/-- NEG: sign bit inverted. -/
def execNeg (tile : Fin 544) (f : VFields) (s : State) : Host.Outcome State Fault Refusal :=
  s.on fun c => c.vInstr tile f ⟨tyFHB, false, 0⟩ .plain noExtra vNeg

/-- AND. -/
def execAnd (tile : Fin 544) (f : VFields) (s : State) : Host.Outcome State Fault Refusal :=
  s.on fun c => c.vInstr tile f ⟨tyIU, false, 0⟩ .plain noExtra vAnd

/-- OR. -/
def execOr (tile : Fin 544) (f : VFields) (s : State) : Host.Outcome State Fault Refusal :=
  s.on fun c => c.vInstr tile f ⟨tyIU, false, 0⟩ .plain noExtra vOr

/-- XOR. -/
def execXor (tile : Fin 544) (f : VFields) (s : State) : Host.Outcome State Fault Refusal :=
  s.on fun c => c.vInstr tile f ⟨tyIU, false, 0⟩ .plain noExtra vXor

/-- SHL: a << X. -/
def execShl (tile : Fin 544) (f : VFields) (s : State) : Host.Outcome State Fault Refusal :=
  s.on fun c => c.vInstr tile f ⟨tyIU, false, 0x3F⟩ .plain noExtra vShl

/-- SHR: a >> X. -/
def execShr (tile : Fin 544) (f : VFields) (s : State) : Host.Outcome State Fault Refusal :=
  s.on fun c => c.vInstr tile f ⟨tyIU, false, 0x3F⟩ .plain noExtra vShr

/-- TWOSUM (R138). -/
def execTwosum (tile : Fin 544) (f : VFields) (s : State) : Host.Outcome State Fault Refusal :=
  s.on fun c => c.vInstr tile f ⟨tyFH, false, 0⟩ .pairTo noExtra vTwosum

/-- TWOPROD (R138). -/
def execTwoprod (tile : Fin 544) (f : VFields) (s : State) : Host.Outcome State Fault Refusal :=
  s.on fun c => c.vInstr tile f ⟨tyFH, false, 0⟩ .pairTo noExtra vTwoprod

/-- PAIRADD (R138). -/
def execPairadd (tile : Fin 544) (f : VFields) (s : State) : Host.Outcome State Fault Refusal :=
  s.on fun c => c.vInstr tile f ⟨tyFH, false, 0⟩ .pairToFrom noExtra vPairadd

/-- CMPEQ (R81, R139). -/
def execCmpeq (tile : Fin 544) (f : VFields) (s : State) : Host.Outcome State Fault Refusal :=
  s.on fun c => c.vInstr tile f ⟨tyFIU, false, 0⟩ .toMask noExtra (vCompare .eq)

/-- CMPNE (R81, R139). -/
def execCmpne (tile : Fin 544) (f : VFields) (s : State) : Host.Outcome State Fault Refusal :=
  s.on fun c => c.vInstr tile f ⟨tyFIU, false, 0⟩ .toMask noExtra (vCompare .ne)

/-- CMPLT (R81, R139). -/
def execCmplt (tile : Fin 544) (f : VFields) (s : State) : Host.Outcome State Fault Refusal :=
  s.on fun c => c.vInstr tile f ⟨tyFIU, false, 0⟩ .toMask noExtra (vCompare .lt)

/-- CMPLE (R81, R139). -/
def execCmple (tile : Fin 544) (f : VFields) (s : State) : Host.Outcome State Fault Refusal :=
  s.on fun c => c.vInstr tile f ⟨tyFIU, false, 0⟩ .toMask noExtra (vCompare .le)

/-- CMPGT (R81, R139). -/
def execCmpgt (tile : Fin 544) (f : VFields) (s : State) : Host.Outcome State Fault Refusal :=
  s.on fun c => c.vInstr tile f ⟨tyFIU, false, 0⟩ .toMask noExtra (vCompare .gt)

/-- CMPGE (R81, R139). -/
def execCmpge (tile : Fin 544) (f : VFields) (s : State) : Host.Outcome State Fault Refusal :=
  s.on fun c => c.vInstr tile f ⟨tyFIU, false, 0⟩ .toMask noExtra (vCompare .ge)

/-- SEL (R139). -/
def execSel (tile : Fin 544) (f : VFields) (s : State) : Host.Outcome State Fault Refusal :=
  s.on fun c => c.vInstr tile f ⟨tyFHBIU, false, 0⟩ .noMz noExtra vSel

/-- CLASS (R139). -/
def execCls (tile : Fin 544) (f : VFields) (s : State) : Host.Outcome State Fault Refusal :=
  s.on fun c => c.vInstr tile f ⟨tyF, false, 0⟩ .plain noExtra vClass

/-- MAND. -/
def execMand (tile : Fin 544) (f : VFields) (s : State) : Host.Outcome State Fault Refusal :=
  s.on fun c => c.vInstr tile f ⟨tyNone, false, 0⟩ .maskToMask noExtra vMand

/-- MOR. -/
def execMor (tile : Fin 544) (f : VFields) (s : State) : Host.Outcome State Fault Refusal :=
  s.on fun c => c.vInstr tile f ⟨tyNone, false, 0⟩ .maskToMask noExtra vMor

/-- MNOT. -/
def execMnot (tile : Fin 544) (f : VFields) (s : State) : Host.Outcome State Fault Refusal :=
  s.on fun c => c.vInstr tile f ⟨tyNone, false, 0⟩ .maskToMask1 noExtra vMnot

/-- PERM. -/
def execPerm (tile : Fin 544) (f : VFields) (s : State) : Host.Outcome State Fault Refusal :=
  s.on fun c => c.vInstr tile f ⟨tyFHBIU, false, 0⟩ .plain noExtra vPerm

/-- ROT. -/
def execRot (tile : Fin 544) (f : VFields) (s : State) : Host.Outcome State Fault Refusal :=
  s.on fun c => c.vInstr tile f ⟨tyFHBIU, false, 0x3F⟩ .plain noExtra vRot

/-- BFLY. -/
def execBfly (tile : Fin 544) (f : VFields) (s : State) : Host.Outcome State Fault Refusal :=
  s.on fun c => c.vInstr tile f ⟨tyFHBIU, false, 0x3F⟩ .plain noExtra vBfly

/-- BCAST. -/
def execBcast (tile : Fin 544) (f : VFields) (s : State) : Host.Outcome State Fault Refusal :=
  s.on fun c => c.vInstr tile f ⟨tyFHBIU, false, 0x3F⟩ .plain noExtra vBcast

/-- SPLAT. -/
def execSplat (tile : Fin 544) (f : VFields) (s : State) : Host.Outcome State Fault Refusal :=
  s.on fun c => c.vInstr tile f ⟨tyFHBIU, false, 0⟩ .fromScalar noExtra vSplat

/-- IOTA. -/
def execIota (tile : Fin 544) (f : VFields) (s : State) : Host.Outcome State Fault Refusal :=
  s.on fun c => c.vInstr tile f ⟨tyIU, false, 0⟩ .fromScalar noExtra vIota

/-- ZIP. -/
def execZip (tile : Fin 544) (f : VFields) (s : State) : Host.Outcome State Fault Refusal :=
  s.on fun c => c.vInstr tile f ⟨tyFHBIU, false, 1⟩ .plain noExtra vZip

/-- UNZIP. -/
def execUnzip (tile : Fin 544) (f : VFields) (s : State) : Host.Outcome State Fault Refusal :=
  s.on fun c => c.vInstr tile f ⟨tyFHBIU, false, 1⟩ .plain noExtra vUnzip

/-- PACK (R140). -/
def execPack (tile : Fin 544) (f : VFields) (s : State) : Host.Outcome State Fault Refusal :=
  s.on fun c => c.vInstr tile f ⟨tyF, true, 0x3FFFFC0⟩ .plain packOk vPack

/-- UNPACK (R141). -/
def execUnpack (tile : Fin 544) (f : VFields) (s : State) : Host.Outcome State Fault Refusal :=
  s.on fun c => c.vInstr tile f ⟨tyF, false, 0x3FFFF80⟩ .plain unpackOk vUnpack

/-- RSUM (R142). -/
def execRsum (tile : Fin 544) (f : VFields) (s : State) : Host.Outcome State Fault Refusal :=
  s.on fun c => c.vInstr tile f ⟨tyFHB, true, 0x3C00001⟩ .plain noExtra vRsum

/-- RPROD (R142). -/
def execRprod (tile : Fin 544) (f : VFields) (s : State) : Host.Outcome State Fault Refusal :=
  s.on fun c => c.vInstr tile f ⟨tyFHB, true, 0x3C00001⟩ .plain noExtra vRprod

/-- RMAX (R142). -/
def execRmax (tile : Fin 544) (f : VFields) (s : State) : Host.Outcome State Fault Refusal :=
  s.on fun c => c.vInstr tile f ⟨tyFHB, false, 0x3C00001⟩ .plain noExtra vRmax

/-- RMIN (R142). -/
def execRmin (tile : Fin 544) (f : VFields) (s : State) : Host.Outcome State Fault Refusal :=
  s.on fun c => c.vInstr tile f ⟨tyFHB, false, 0x3C00001⟩ .plain noExtra vRmin

/-- RARGMAX (R144). -/
def execRargmax (tile : Fin 544) (f : VFields) (s : State) : Host.Outcome State Fault Refusal :=
  s.on fun c => c.vInstr tile f ⟨tyFHB, false, 0x3C00001⟩ .plain argBaseOk vRargmax

/-- RARGMIN (R144). -/
def execRargmin (tile : Fin 544) (f : VFields) (s : State) : Host.Outcome State Fault Refusal :=
  s.on fun c => c.vInstr tile f ⟨tyFHB, false, 0x3C00001⟩ .plain argBaseOk vRargmin

/-- TFN (R146, R149). -/
def execTfn (tile : Fin 544) (f : VFields) (s : State) : Host.Outcome State Fault Refusal :=
  s.on fun c => c.vTableInstr tile f vTfn

/-- TDER (R146, R149). -/
def execTder (tile : Fin 544) (f : VFields) (s : State) : Host.Outcome State Fault Refusal :=
  s.on fun c => c.vTableInstr tile f vTder

/-- TLOAD (R148). -/
def execTload (tile : Fin 544) (f : VFields) (s : State) : Host.Outcome State Fault Refusal :=
  s.on fun c => c.vTload tile f

/-- LD: vd = 256 bytes at the address. -/
def execLd (tile : Fin 544) (f : VFields) (s : State) : Host.Outcome State Fault Refusal :=
  s.on fun c => c.vMemory tile f .plain 32 256 fun t a =>
    .load f.vd.toNat false a (BitVec.ofNat 64 (f.active t)) (f.mz == 1)

/-- ST: 256 bytes at the address = vd. -/
def execSt (tile : Fin 544) (f : VFields) (s : State) : Host.Outcome State Fault Refusal :=
  s.on fun c => c.vMemory tile f .plain 32 256 fun t a =>
    .store (storeBytes t f.vd.toNat false) (BitVec.ofNat 64 (f.active t)) a

/-- LDP: (vd, vd+1) = 512 bytes at the address. -/
def execLdp (tile : Fin 544) (f : VFields) (s : State) : Host.Outcome State Fault Refusal :=
  s.on fun c => c.vMemory tile f .doubleReg 512 512 fun t a =>
    .load f.vd.toNat true a (BitVec.ofNat 64 (f.active t)) (f.mz == 1)

/-- STP: 512 bytes at the address = (vd, vd+1). -/
def execStp (tile : Fin 544) (f : VFields) (s : State) : Host.Outcome State Fault Refusal :=
  s.on fun c => c.vMemory tile f .doubleReg 512 512 fun t a =>
    .store (storeBytes t f.vd.toNat true) (BitVec.ofNat 64 (f.active t)) a

/-- LDS: s[d] = 8 bytes at the address. -/
def execLds (tile : Fin 544) (f : VFields) (s : State) : Host.Outcome State Fault Refusal :=
  s.on fun c => c.vMemory tile f .toScalar 32 8 fun _ a => .loadScalar f.vd.toNat a

/-- STS: 8 bytes at the address = s[d]. -/
def execSts (tile : Fin 544) (f : VFields) (s : State) : Host.Outcome State Fault Refusal :=
  s.on fun c => c.vMemory tile f .fromScalarD 32 8 fun t a =>
    .storeScalar (BitVec.ofNat 64 (t.sreg f.vd.toNat)) a

/-- The memory queue's front entry takes its access (R135). -/
def execMemQueueAccess (tile : Fin 544) (ecc : EccRead) (s : State) : Host.Outcome State Fault Refusal :=
  s.on fun c => c.accessFront tile ecc

end Sys2Proof.Machine
end

