-- ==== Sys2Proof/Machine/Matrix.lean ====
section
/-! DEFINITION. Machine/Matrix.lean: the matrix command and its write (R109, R110, R126), the patrol scrub of tile
memory (R106, R107), and the router's two acts (R105, R157). -/

namespace Sys2Proof.Machine

/-! ### The matrix command -/

/-- Length of the shortest prefix of the memory queue that holds every access meeting one of these byte ranges with a
write on either side (R104). -/
def memoryDepth (reads writes : List (Nat × Nat)) : List MemOp → Nat
  | [] => 0
  | o :: r =>
    let n := memoryDepth reads writes r
    let (a, b) := o.extent
    let hit := fun (l : List (Nat × Nat)) => l.any fun x => overlap a b x.1 x.2
    if n = 0 then (if hit writes || (!o.isRead && hit reads) then 1 else 0) else n + 1

/-- Every earlier operation that shares a byte with this command completes first (R104). -/
def Chip.mxSettle (c : Chip) (tile : Nat) (m : MxCmd) : Chip :=
  let c := c.accessN tile (memoryDepth m.reads [(m.addrD, imageBytes m.fmtD)] (c.tile tile).memQueue)
  c.each m.reads fun c r => c.awaitD tile r.1 r.2

/-- An invalid command (R110): nothing read or written, the bit, the count, and the tile fault at its own address. -/
def Chip.mxInvalid (c : Chip) (tile : Nat) : Chip :=
  (c.count Obj.mxCmdInvalidCount 1 32).tileFault tile bitMxCmdInvalid (c.tile tile).here 0

/-- The next two program words are a matrix command (R151, R163). -/
def Tile.fetchMxOk (t : Tile) : Bool := decide (t.pc + 1 < t.progWords) && t.kindMap.getD t.pc false

/-- What an issued command leaves to be written and raised when its D is written. -/
def MatrixJob.of (t : Tile) (m : MxCmd) (r : MxResult) : MatrixJob :=
  ⟨t.here, m.addrD, r.image, r.tally.flags, r.tally.range, r.tally.nanScale, r.flushed,
    r.notes.map fun n => (n.tensorId, n.fmt, n.bits, n.accMax)⟩

/-- A valid command issues: operands are read (R106, R107), the block is computed, and D waits to be written. -/
def Chip.mxIssue (c : Chip) (tile : Nat) (m : MxCmd) (ecc : EccRead) : Chip :=
  let c := c.mxSettle tile m
  if !(c.tile tile).running then c
  else
    let (ok, c) := c.eccCheck tile m.addrA ecc
    if !ok then c
    else
      let t := c.tile tile
      c.setTile tile { t with pc := t.pc + 2, matrix := t.matrix ++ [MatrixJob.of t m (mxCompute (c.vIn tile) t m)] }

/-- A matrix command as a command. -/
def Chip.mma (c : Chip) (tile : Nat) (w : Nat) (ecc : EccRead) : Chip :=
  let t := c.tile tile
  let m := MxCmd.ofWord w
  if !t.running then c
  else if t.fetchMxOk && m.valid (c.vIn tile).arith t.descs.length then c.mxIssue tile m ecc
  else c.mxInvalid tile

/-- MMA. -/
def execMma (tile : Fin 544) (word : BitVec 128) (ecc : EccRead) (s : State) : Host.Outcome State Fault Refusal :=
  s.on fun c => c.mma tile word.toNat ecc

/-- The oldest D in flight is written; a tile held at MXWAIT goes on once none is left. -/
def Chip.mmaDWritten (c : Chip) (tile : Nat) : Chip :=
  let c := c.writeD tile
  let t := c.tile tile
  if t.status = .waitingMatrix ∧ t.matrix = [] then
    c.setTile tile { t.account c.time.mono with status := .running }
  else c

/-- MMA_D_WRITTEN. -/
def execMmaDWritten (tile : Fin 544) (s : State) : Host.Outcome State Fault Refusal :=
  s.on fun c => c.mmaDWritten tile

/-! ### The patrol scrub -/

/-- TILE_PATROL_SCRUB: one line of 512 bytes is read (R106, R107). -/
def execTilePatrolScrub (tile : Fin 544) (line : Fin 1024) (ecc : EccRead) (s : State) :
    Host.Outcome State Fault Refusal :=
  s.on fun c => (c.eccCheck tile (512 * line) ecc).2

/-! ### The router -/

/-- Flits of 64 bytes in one slot. -/
def TileQueue.flits (q : TileQueue) : Nat := ceilDiv q.slotBytes 64

/-- Slot of the queue that holds the bytes [a, a + n), if one does. -/
def TileQueue.slotAt (q : TileQueue) (a n : Nat) : Option Nat :=
  (List.range q.depth).find? fun i =>
    decide (q.base + i * q.slotBytes ≤ a) && decide (a + n ≤ q.base + (i + 1) * q.slotBytes)

/-- The slot after one more flit: full with its last one. -/
def TileQueue.takeFlit (q : TileQueue) (i flit : Nat) (held : List Nat) : TileQueue :=
  let held := if held.contains flit then held else held ++ [flit]
  if q.flits ≤ held.length then
    { q.setSlot i .full with nextMove := if q.nextMove = i then q.next i else q.nextMove }
  else q.setSlot i (.filling held)

/-- The inbound queue and slot of a tile that accept a flit at this address: the slot is released (R105). -/
def Tile.flitTarget (t : Tile) (a n : Nat) : Option (TileQueue × Nat × List Nat) :=
  t.queues.findSome? fun q =>
    if !q.inbound then none
    else
      match q.slotAt a n with
      | none => none
      | some i =>
        match q.slot i with
        | .free => some (q, i, [])
        | .filling l => some (q, i, l)
        | _ => none

/-- One flit: its bytes land in a released slot of a receive area, or the tile takes a fault (R105). -/
def Chip.flitReceive (c : Chip) (tile addr : Nat) (data : Bytes) : Chip :=
  let data := data.take 64
  match (c.tile tile).flitTarget addr data.length with
  | none => c.tileFault tile bitTileWriteRefused addr 0
  | some (q, i, held) =>
    let t := c.tile tile
    let t := { t with mem := Memory.writeBytes t.mem addr data }
    c.setTile tile (t.setQueue (q.takeFlit i ((addr - (q.base + i * q.slotBytes)) / 64) held))

/-- ROUTER_FLIT_RECEIVE. -/
def execRouterFlitReceive (tile : Fin 544) (addr : Nat) (data : Bytes) (s : State) :
    Host.Outcome State Fault Refusal :=
  s.on fun c => c.flitReceive tile addr data

/-- Key of a route of a casting slot. -/
def routeKey (slot route : Nat) : Nat := slot * 4096 + route

/-- The bytes of slot `i` of a queue. -/
def Tile.slotData (t : Tile) (q : TileQueue) (i : Nat) : Bytes :=
  Memory.readBytes t.mem (q.base + i * q.slotBytes) q.slotBytes

/-- The oldest slot handed to the router has been sent in full. -/
def TileQueue.sent (q : TileQueue) : TileQueue :=
  { q.setSlot q.nextMove .free with nextMove := q.next q.nextMove }

/-- The oldest message handed to the router on this queue is sent, where the other end of its route has room: a free
receive slot of the destination tile, or the DMA channel of the route (R157, R162). Without room nothing happens. -/
def Chip.messageSend (c : Chip) (tile queue : Nat) : Chip :=
  let t := c.tile tile
  match t.queue? queue, t.region with
  | some q, some h =>
    if q.inbound || q.slot q.nextMove != .full then c
    else
      match (c.array.casting (h / 64)).bind fun k => k.routes.find? fun r => r.route == q.route with
      | none => c
      | some r =>
        let data := t.slotData q q.nextMove
        if r.kind = 0 then
          let dst := c.array.physical r.dst.toNat
          let (ok, c) := c.deliver dst r.dstQueue.toNat data
          if ok then
            let t := c.tile tile
            match t.queue? queue with
            | some q => (c.setTile tile (t.setQueue q.sent)).watchMessage (h / 64) r.route.toNat data
            | none => c
          else c
        else
          let c := { c with array := { c.array with
            meshOut := c.array.meshOut ++ [(routeKey (h / 64) r.route.toNat, data)] } }
          (c.setTile tile (t.setQueue q.sent)).watchMessage (h / 64) r.route.toNat data
  | _, _ => c

/-- ROUTER_MESSAGE_SEND. -/
def execRouterMessageSend (tile : Fin 544) (queue : BitVec 8) (s : State) : Host.Outcome State Fault Refusal :=
  s.on fun c => c.messageSend tile queue.toNat

end Sys2Proof.Machine
end

