-- ==== Sys2Proof/Machine/MemCmds.lean ====
section
/-! DEFINITION. Machine/MemCmds.lean: the memory's own commands: patrol scrub (R192), temperature readouts (R201),
retirement requests and the end of a retirement copy (R203 to R207). -/

namespace Sys2Proof.Machine

/-- The package of a group issues no access because of its temperature (Table 7-6). -/
def Chip.packageHot (c : Chip) (g : Nat) : Bool := c.mem.hot.any fun q => q / 8 == g

/-- Reads and writes of group g are issued. -/
def Chip.groupServes (c : Chip) (g : Nat) : Bool :=
  c.mem.up && !c.packageHot g && c.reg (Obj.subchState (8 * g)) != 3

def Chip.patrolScrub (c : Chip) (burst : Nat) (flips : Flips) : Chip :=
  let a := 32 * burst
  if decide (a < memBytes) && c.groupServes (a / groupWindow) then (c.readBurst a flips).2 else c

/-- MEM_PATROL_SCRUB: the burst at module address 32 × `burst`. -/
def execMemPatrolScrub (burst : Nat) (flips : Flips) (s : State) : Host.Outcome State Fault Refusal :=
  s.on fun c => c.patrolScrub burst flips

/-! ### Temperature -/

def f32At85 : Nat := 0x42AA0000
def f32At95 : Nat := 0x42BE0000
def f32At100 : Nat := 0x42C80000
def f32At105 : Nat := 0x42D20000

/-- Row of Table 7-6, from 1. -/
def tempRow (t : Nat) : Nat :=
  if f32Lt f32At105 t then 4 else if f32Lt f32At95 t then 3 else if f32Lt f32At85 t then 2 else 1

def refreshDiv (row : Nat) : Nat := if row = 1 then 1 else if row = 2 then 2 else 4

def Chip.tempReadout (c : Chip) (q t : Nat) : Chip :=
  if !c.mem.up then c
  else
    let was := tempRow (c.reg (Obj.subchTemp q))
    let row := tempRow t
    let c := (c.setReg (Obj.subchTemp q) t).setReg (Obj.subchRefreshDiv q) (refreshDiv row)
    let hot := if row = 4 then (if c.mem.hot.contains q then c.mem.hot else c.mem.hot ++ [q])
      else if f32Lt f32At100 t then c.mem.hot else c.mem.hot.filter fun x => x != q
    let c := { c with mem := { c.mem with hot := hot } }
    if row = was then c
    else if row = 3 then c.occur 3 6 .mem noRegion q 0
    else if row = 4 then c.occur 3 7 .mem noRegion q 0
    else c

/-- TEMP_READOUT. -/
def execTempReadout (q : Fin 192) (t : F32) (s : State) : Host.Outcome State Fault Refusal :=
  s.on fun c => c.tempReadout q t.toNat

/-! ### Retirement -/

/-- MEM_RETIRE_REQUEST: the sub-channel becomes a candidate whatever MEM_RETIRE_AUTO holds. -/
def memRetireRequestRule : WriteRule where
  cond := noCond
  eff := fun c o _ b => c.addCandidate (leNat b) (some o)

/-- MEM_RETIRE_REQUEST. -/
def execMemRetireRequest (rq : Fin 17) (v : Byte) (s : State) : Host.Outcome State Fault Refusal :=
  s.on fun c => c.write rq Obj.memRetireRequest [v] memRetireRequestRule

/-- Poisoned bursts in the rows the copier moved. -/
def Chip.poisonedIn (c : Chip) (q : Nat) : Nat :=
  (c.mem.tags.filter fun e =>
    let (g, j, r) := placeOf (32 * e.1)
    e.2.poison && 8 * g + j == q && decide (r < withheldTop)).length

/-- Poisoned bursts met by the copier are counted as reads of them (R205). -/
def Chip.copierPoison (c : Chip) (q : Nat) : Chip :=
  let n := c.poisonedIn q
  if n = 0 then c else (c.setSticky 3 4).count (Obj.subchPoisonReads q) n 32

/-- The sub-channel is retired (R204, R205, R207). -/
def Chip.retireDone (c : Chip) : Chip :=
  match c.mem.copying with
  | none => c
  | some (q, o) =>
    let c := c.copierPoison q
    let c := { c with mem := { c.mem with copying := none } }
    let c := ((c.setReg (Obj.groupRetired (q / 8)) (q % 8)).setReg (Obj.subchState q) 2)
    let c := (c.setReg Obj.memRetireState 0).setReg Obj.memRetireProgress 0
    let c := { c with emmc := { c.emmc with memRetired := c.emmc.memRetired ++ [q] } }
    let c := c.refreshMem.occur 3 8 .mem noRegion q 0
    (c.completeOpt o Obj.memRetireRequest 0 0).retireNext

/-- RETIRE_COPY_COMPLETE. -/
def execRetireCopyComplete (s : State) : Host.Outcome State Fault Refusal :=
  s.on fun c => c.retireDone

/-- MEM_RETIRED_CLEAR: true empties the record at the next start (R207). -/
def memRetiredClearRule : WriteRule where
  cond := noCond
  eff := fun c _ _ b => if leNat b = 1 then { c with emmc := { c.emmc with clearMem := true } } else c

/-- MEM_RETIRED_CLEAR. -/
def execMemRetiredClear (rq : Fin 17) (v : Byte) (s : State) : Host.Outcome State Fault Refusal :=
  s.on fun c => c.write rq Obj.memRetiredClear [v] memRetiredClearRule

end Sys2Proof.Machine
end

