-- ==== Sys2Proof/Machine/DmaDesc.lean ====
section
/-! DEFINITION. Machine/DmaDesc.lean: DMA descriptors (Tables 16-3 and 16-4), the places of the channels (R402), and
the checks of Table 16-5 that the descriptor alone decides, which the loader makes too (R418). -/

namespace Sys2Proof.Machine

/-- A descriptor, field by field (Table 16-3). -/
structure DmaDesc where
  control : Nat
  arg : Nat
  src : Nat
  dst : Nat
  rowBytes : Nat
  rows : Nat
  srcStride : Nat
  dstStride : Nat
  srcPass : Nat
  dstPass : Nat
  tensor : Nat
  rep : Nat
  next : Nat
  reserved : Nat
deriving DecidableEq, Repr, Inhabited

def DmaDesc.ofBytes (b : Bytes) : DmaDesc where
  control := u32At b 0
  arg := u32At b 4
  src := u64At b 8
  dst := u64At b 0x10
  rowBytes := u32At b 0x18
  rows := u32At b 0x1C
  srcStride := u32At b 0x20
  dstStride := u32At b 0x24
  srcPass := u32At b 0x28
  dstPass := u32At b 0x2C
  tensor := u64At b 0x30
  rep := u16At b 0x38
  next := u8At b 0x3A
  reserved := leAt b 0x3B 5

/-! Fields of CONTROL (Table 16-4). -/

def DmaDesc.trigger (d : DmaDesc) : Nat := bits d.control 23 21
def DmaDesc.half (d : DmaDesc) : Bool := bit d.control 20
def DmaDesc.full (d : DmaDesc) : Bool := bit d.control 19
def DmaDesc.transpose (d : DmaDesc) : Bool := bit d.control 18
def DmaDesc.through (d : DmaDesc) : Bool := bit d.control 17
def DmaDesc.images (d : DmaDesc) : Bool := bit d.control 16
def DmaDesc.fmt (d : DmaDesc) : Nat := bits d.control 15 12
def DmaDesc.rate (d : DmaDesc) : Nat := bits d.control 11 10

/-- Address space and address within it (R406). -/
def spaceOf (a : Nat) : Nat := a / 2 ^ 62
def within (a : Nat) : Nat := a % 2 ^ 62

/-- Row r of pass i at the source and at the destination (R407). -/
def DmaDesc.srcAt (d : DmaDesc) (i r : Nat) : Nat := within d.src + i * d.srcPass + r * d.srcStride
def DmaDesc.dstAt (d : DmaDesc) (i r : Nat) : Nat := within d.dst + i * d.dstPass + r * d.dstStride

/-- Formats a transposing descriptor may name (R412). -/
def transposable (f : Nat) : Bool := decide (f ≤ 5) || f == 12 || f == 13

/-! ### Statuses of Table 16-5 -/

def dmaDescriptor : Nat := 0x10
def dmaAddress : Nat := 0x11
def dmaReserved : Nat := 0x12
def dmaNoData : Nat := 0x13
def dmaBadMap : Nat := 0x14
def dmaTranspose : Nat := 0x15
def dmaPeerRefused : Nat := 0x16
def dmaTimeout : Nat := 0x17
def dmaPeerLost : Nat := 0x18
def dmaCipher : Nat := 0x19

/-- A condition met: status, the field's offset in the descriptor, and the address to be logged (none: the
descriptor). -/
structure DmaBad where
  status : Nat
  field : Nat
  addr : Option Nat
deriving DecidableEq, Repr, Inhabited

/-- The first of these that holds. -/
def firstOf {α : Type} : List (Bool × α) → Option α
  | [] => none
  | (b, x) :: r => if b then some x else firstOf r

/-- DESCRIPTOR: a reserved field or value that is not 0, a length out of range, an image alignment of R407. -/
def DmaDesc.badFields (d : DmaDesc) : Option DmaBad :=
  let bad := fun (o : Nat) => (⟨dmaDescriptor, o, none⟩ : DmaBad)
  let size := imageBytes d.fmt
  let off := fun (n : Nat) => n % size != 0
  let src0 := d.images && spaceOf d.src == 0
  let dst0 := d.images && spaceOf d.dst == 0
  firstOf [
    (bits d.control 31 24 != 0 || bits d.control 9 0 != 0 || decide (2 < d.trigger), bad 0),
    (d.images && !d.transpose && decide (13 < d.fmt), bad 0),
    (!d.images && d.rate != 0, bad 0),
    (d.trigger == 0 && d.arg != 0, bad 4),
    (d.trigger == 1 && d.arg == 0, bad 4),
    (d.trigger == 2 && bits d.arg 31 10 != 0, bad 4),
    (d.rowBytes == 0 || decide (2 ^ 24 < d.rowBytes), bad 0x18),
    (d.images && decide (d.fmt ≤ 13) && off d.rowBytes, bad 0x18),
    (d.rows == 0, bad 0x1C),
    (src0 && decide (d.fmt ≤ 13) && decide (1 < d.rows) && off d.srcStride, bad 0x20),
    (dst0 && decide (d.fmt ≤ 13) && decide (1 < d.rows) && off d.dstStride, bad 0x24),
    (src0 && decide (d.fmt ≤ 13) && d.rep != 1 && off d.srcPass, bad 0x28),
    (dst0 && decide (d.fmt ≤ 13) && d.rep != 1 && off d.dstPass, bad 0x2C),
    (!d.images && d.tensor != 0, bad 0x30),
    (decide (63 < d.next) && d.next != 0xFF, bad 0x3A),
    (d.reserved != 0, bad 0x3B)]

/-- TRANSPOSE: a destination outside space 1, another format, or no images (R412). -/
def DmaDesc.badTranspose (d : DmaDesc) : Option DmaBad :=
  if d.transpose && (spaceOf d.dst != 1 || !transposable d.fmt || !d.images) then some ⟨dmaTranspose, 0, none⟩ else none

/-! ### Channels (R402) -/

def dmaMesh : Nat := 384
def dmaWest : Nat := 448
def dmaFirmware : Nat := 496

/-- Channel `ch` stands in the row of Table 16-1 for a route of this kind and group. -/
def channelServes (ch kind group : Nat) : Bool :=
  if kind = 1 ∨ kind = 2 then ch / 16 == group && decide (ch < dmaMesh)
  else decide (dmaMesh ≤ ch) && decide (ch < dmaWest)

/-- ADDRESS for one side: a space the channel may not use, or what space it may use only in one form (R406). -/
def spaceBad (ch : Nat) (routed : Bool) (a : Nat) : Bool :=
  match spaceOf a with
  | 0 => decide (dmaMesh ≤ ch) && decide (ch < dmaWest)
  | 1 => !routed || within a != 0
  | 2 => decide (ch < dmaMesh) || (decide (ch < dmaWest) && within a != 0)
  | _ => true

/-- ADDRESS for the bytes [a, a + n) of the LPDDR6 (R184) in a channel's reach (Table 16-1). -/
def reachBad (ch a n : Nat) : Bool :=
  decide (memBytes < a + n) || (decide (ch < dmaMesh) && (a / groupWindow != ch / 16 || (a + n - 1) / groupWindow != ch / 16))

/-- RESERVED_REGION for these bytes (R186). -/
def reservedBad (ch a n : Nat) : Bool := decide (ch < dmaFirmware) && inReserved a n

/-- ADDRESS or RESERVED_REGION for row r of pass i on one side; `field` is the side's field. -/
def sideBad (ch : Nat) (routed : Bool) (base field a n : Nat) : Option DmaBad :=
  if spaceBad ch routed base then some ⟨dmaAddress, field, some base⟩
  else if spaceOf base ≠ 0 then none
  else if reachBad ch a n then some ⟨dmaAddress, field, some a⟩
  else if reservedBad ch a n then some ⟨dmaReserved, field, some a⟩
  else none

def DmaDesc.rowBad (d : DmaDesc) (ch : Nat) (routed : Bool) (i r : Nat) : Option DmaBad :=
  (sideBad ch routed d.src 8 (d.srcAt i r) d.rowBytes).orElse fun _ =>
    sideBad ch routed d.dst 0x10 (d.dstAt i r) d.rowBytes

/-- What can be checked of a route-bound channel's descriptor before it runs: addresses rise with row and pass, so the
first and the last row decide. -/
def DmaDesc.badBefore (d : DmaDesc) (ch : Nat) : Option DmaBad :=
  d.badFields.orElse fun _ => d.badTranspose.orElse fun _ => (d.rowBad ch true 0 0).orElse fun _ =>
    d.rowBad ch true (d.rep - 1) (d.rows - 1)

/-- What R418 asks further of a descriptor of a casting: no notification, no trigger, passes that end, a NEXT within
the entry, and passes of one message. -/
def DmaDesc.badBound (d : DmaDesc) (count : Nat) (slotBytes : Nat) : Option Nat :=
  firstOf [(d.half || d.full || d.trigger != 0, 0), (d.rep == 0, 0x38), (d.next != 0xFF && decide (count ≤ d.next), 0x3A),
    (d.rows * d.rowBytes != slotBytes, 0x18)]

/-- Passes from descriptor `i` to the end of the ring; none where it loops (`fuel` bounds the way). -/
def ringPasses (ds : List DmaDesc) : Nat → Nat → Option Nat
  | 0, _ => none
  | f + 1, i =>
    if i = 0xFF then some 0
    else
      match ds[i]? with
      | none => none
      | some d => (ringPasses ds f d.next).map fun n => n + d.rep

end Sys2Proof.Machine
end

