-- ==== Sys2Proof/Machine/Image.lean ====
section
/-! DEFINITION. Machine/Image.lean: casting images as byte strings (R161 to R167, R418) and the checks 0x01 to 0x12 of
Table 6-9, each as the offset of the first field that fails it. -/

namespace Sys2Proof.Machine

/-! ### Header (Table 6-1) -/

def imgHeaderBytes : Nat := 256
def imgSigBytes : Nat := 1296
def imgMaxBytes : Nat := 268435456

def imgBytes (b : Bytes) : Nat := u64At b 0x08
def imgId (b : Bytes) : Nat := u64At b 0x10
def imgIsRegion (b : Bytes) : Bool := bit (u32At b 0x1C) 0
def imgRegionCount (b : Bytes) : Nat := u16At b 0x20
def imgRouteCount (b : Bytes) : Nat := u16At b 0x22
def imgSchedCount (b : Bytes) : Nat := u32At b 0x24
def imgStepSlots (b : Bytes) : Nat := u32At b 0x28
def imgSlotHc (b : Bytes) : Nat := u32At b 0x2C
def imgMask (b : Bytes) : Bytes := slice b 0x30 64
def imgRegionOff (b : Bytes) : Nat := u64At b 0x70
def imgRouteOff (b : Bytes) : Nat := u64At b 0x78
def imgSchedOff (b : Bytes) : Nat := u64At b 0x80
def imgBlocksOff (b : Bytes) : Nat := u64At b 0x88
def imgSigOff (b : Bytes) : Nat := u64At b 0x90
def imgLpddr6 (b : Bytes) : Nat := u64At b 0x98
def imgDmaOff (b : Bytes) : Nat := u64At b 0xA0
def imgDmaBytes (b : Bytes) : Nat := u64At b 0xA8
def imgDigest (b : Bytes) : Bytes := slice b 0xC0 64

/-! ### Tables -/

/-- Offsets of the entries of the three tables. -/
def imgRegions (b : Bytes) : List Nat := (List.range (imgRegionCount b)).map fun i => imgRegionOff b + 32 * i
def imgRoutes (b : Bytes) : List Nat := (List.range (imgRouteCount b)).map fun i => imgRouteOff b + 32 * i
def imgScheds (b : Bytes) : List Nat := (List.range (imgSchedCount b)).map fun i => imgSchedOff b + 16 * i

/-- Route-table entry at offset `o` (Table 6-6). -/
def routeAt (b : Bytes) (o : Nat) : Route :=
  ⟨BitVec.ofNat 16 (u16At b o), BitVec.ofNat 8 (u8At b (o + 2)), BitVec.ofNat 8 (u8At b (o + 3)),
    BitVec.ofNat 16 (u16At b (o + 4)), BitVec.ofNat 8 (u8At b (o + 6)), BitVec.ofNat 16 (u16At b (o + 8)),
    BitVec.ofNat 8 (u8At b (o + 0xA)), BitVec.ofNat 32 (u32At b (o + 0xC)), BitVec.ofNat 32 (u32At b (o + 0x10))⟩

/-- Schedule entry at offset `o` (Table 6-7). -/
def schedAt (b : Bytes) (o : Nat) : SchedEntry :=
  ⟨BitVec.ofNat 32 (u32At b o), BitVec.ofNat 8 (u8At b (o + 4)), BitVec.ofNat 8 (u8At b (o + 5)),
    BitVec.ofNat 16 (u16At b (o + 6)), BitVec.ofNat 16 (u16At b (o + 8)), BitVec.ofNat 32 (u32At b (o + 0xC))⟩

/-- A tensor descriptor at offset `o` (Table 6-4). -/
def descAt (b : Bytes) (o : Nat) : TensorDesc :=
  ⟨BitVec.ofNat 64 (u64At b o), BitVec.ofNat 8 (u8At b (o + 8)), BitVec.ofNat 8 (u8At b (o + 9)),
    BitVec.ofNat 8 (u8At b (o + 0xA)), BitVec.ofNat 32 (u32At b (o + 0xC)), BitVec.ofNat 32 (u32At b (o + 0x10)),
    BitVec.ofNat 32 (u32At b (o + 0x14)), BitVec.ofNat 32 (u32At b (o + 0x18))⟩

/-- A segment entry (R163), with its own offset. -/
structure Segment where
  addr : Nat
  len : Nat
  off : Nat
  place : Nat
deriving DecidableEq, Repr, Inhabited

/-- A queue declaration (Table 6-5), with its own offset. -/
structure QueueDecl where
  queue : Nat
  depth : Nat
  route : Nat
  base : Nat
  slotBytes : Nat
  place : Nat
deriving DecidableEq, Repr, Inhabited

/-- A tile block (R163, Table 6-3), with its own offset. -/
structure TileBlock where
  place : Nat
  logical : Nat
  region : Nat
  segs : List Segment
  mapOff : Nat
  kindMap : Bytes
  descOffs : List Nat
  queues : List QueueDecl
  progStart : Nat
  progBytes : Nat
  blockBytes : Nat
deriving DecidableEq, Repr, Inhabited

/-- Bytes of the program kind map. -/
def mapBytes (progBytes : Nat) : Nat := alignUp 8 (ceilDiv progBytes 64)

def blockAt (b : Bytes) (o : Nat) : TileBlock :=
  let sc := u16At b (o + 4)
  let dc := u16At b (o + 6)
  let qc := u16At b (o + 8)
  let pb := u32At b (o + 0x10)
  let mo := o + 32 + 16 * sc
  let dOff := mo + mapBytes pb
  let qo := dOff + 32 * dc
  { place := o, logical := u16At b o, region := u8At b (o + 2)
    segs := (List.range sc).map fun i =>
      let p := o + 32 + 16 * i
      ⟨u32At b p, u32At b (p + 4), u64At b (p + 8), p⟩
    mapOff := mo, kindMap := slice b mo (mapBytes pb)
    descOffs := (List.range dc).map fun i => dOff + 32 * i
    queues := (List.range qc).map fun i =>
      let p := qo + 16 * i
      ⟨u8At b p, u8At b (p + 1), u16At b (p + 2), u32At b (p + 4), u32At b (p + 8), p⟩
    progStart := u32At b (o + 0xC), progBytes := pb, blockBytes := u32At b (o + 0x14) }

/-- Bytes that a block's parts take. -/
def TileBlock.partBytes (t : TileBlock) : Nat :=
  32 + 16 * t.segs.length + t.kindMap.length + 32 * t.descOffs.length + 16 * t.queues.length

/-- The blocks one after another from offset `o`. -/
def blocksFrom (b : Bytes) : Nat → Nat → List TileBlock
  | 0, _ => []
  | n + 1, o => let t := blockAt b o; t :: blocksFrom b n (o + t.blockBytes)

/-- Tile blocks the region table counts. -/
def imgBlockCount (b : Bytes) : Nat := (imgRegions b).foldl (fun n o => n + u16At b (o + 4)) 0

def imgBlocks (b : Bytes) : List TileBlock := blocksFrom b (imgBlockCount b) (imgBlocksOff b)

/-- An entry of the DMA section (R418), with its own offset. -/
structure ImgDma where
  channel : Nat
  count : Nat
  start : Nat
  route : Nat
  descs : List Bytes
  place : Nat
deriving DecidableEq, Repr, Inhabited

/-- Entries from offset `o` up to `stop`; the rest that makes no whole entry is left (`fuel` bounds their number). -/
def dmaFrom (b : Bytes) (stop : Nat) : Nat → Nat → List ImgDma × Nat
  | 0, o => ([], o)
  | f + 1, o =>
    let n := u8At b (o + 2)
    if stop < o + 8 + 64 * n then ([], o)
    else
      let (r, e) := dmaFrom b stop f (o + 8 + 64 * n)
      (⟨u16At b o, n, u8At b (o + 3), u16At b (o + 4), (List.range n).map fun i => slice b (o + 8 + 64 * i) 64, o⟩ :: r, e)

/-- Entries of the DMA section, and where what makes no whole entry begins. -/
def imgDma (b : Bytes) : List ImgDma × Nat :=
  dmaFrom b (imgDmaOff b + imgDmaBytes b) (imgDmaBytes b / 8) (imgDmaOff b)

/-! ### What a load is checked against -/

structure LoadCtx where
  /-- Casting-signing keys of the configuration records. -/
  keys : List (BitVec 64 × Bytes)
  slotFree : Bool
  /-- The image is checked as a region image. -/
  recast : Bool
  /-- Logical tiles of loaded castings, but for those a region image replaces. -/
  usedTiles : List Nat
  /-- Logical tiles whose bound physical tile is failed, and how many spares are free. -/
  failedTiles : List Nat
  spares : Nat
  freeBytes : Nat
  usedChannels : List Nat
deriving DecidableEq, Repr, Inhabited

/-- Ranges [a, a + n) and [b, b + m), neither empty, share a byte. -/
def clash (a n b m : Nat) : Bool := decide (0 < n) && decide (0 < m) && overlap a n b m

/-- First element that clashes with an earlier one, in (first, length, offset) ranges. -/
def clashIn : List (Nat × Nat × Nat) → List (Nat × Nat × Nat) → Option Nat
  | _, [] => none
  | seen, x :: r =>
    if seen.any fun y => clash x.1 x.2.1 y.1 y.2.1 then some x.2.2 else clashIn (seen ++ [x]) r

/-- The offset beside the first condition that holds. -/
def firstBad (l : List (Bool × Nat)) : Option Nat := firstOf l

/-! ### 0x01 to 0x05 -/

def badHeader (b : Bytes) : Option Nat :=
  firstBad [(u32At b 0 != 0x54435743, 0), (u16At b 4 != 1, 4), (u16At b 6 != 256, 6)]

/-- Sections of the image: first byte, length, offset of the field that places it. -/
def imgSections (b : Bytes) : List (Nat × Nat × Nat) :=
  [(0, imgHeaderBytes, 0x06), (imgRegionOff b, 32 * imgRegionCount b, 0x70), (imgRouteOff b, 32 * imgRouteCount b, 0x78),
    (imgSchedOff b, 16 * imgSchedCount b, 0x80),
    (imgBlocksOff b, (imgBlocks b).foldl (fun n t => n + t.blockBytes) 0, 0x88),
    (imgDmaOff b, imgDmaBytes b, 0xA0), (imgSigOff b, imgSigBytes, 0x90)]

/-- A block whose parts do not fit its BLOCK_BYTES reaches into the next one. -/
def badBlockSize (b : Bytes) : Option Nat :=
  (imgBlocks b).findSome? fun t =>
    if t.blockBytes < 32 ∨ t.blockBytes < 32 + 16 * t.segs.length + mapBytes t.progBytes + 32 * t.descOffs.length +
        16 * t.queues.length ∨ imgBytes b < t.place + t.blockBytes then some (t.place + 0x14) else none

/-- Segment data outside its space, or in a table, a tile block or the DMA section (R161). -/
def badSegmentData (b : Bytes) : Option Nat :=
  let secs := imgSections b
  (imgBlocks b).findSome? fun t => t.segs.findSome? fun s =>
    if 0 < s.len ∧ (s.off < imgHeaderBytes ∨ imgSigOff b < s.off + s.len ∨
        (secs.any fun x => clash s.off s.len x.1 x.2.1) = true) then some (s.place + 8) else none

def badSize (b : Bytes) : Option Nat :=
  if imgBytes b ≠ b.length ∨ imgMaxBytes < imgBytes b then some 0x08
  else if imgBytes b < imgHeaderBytes + imgSigBytes ∨ imgSigOff b ≠ imgBytes b - imgSigBytes then some 0x90
  else
    let secs := imgSections b
    let out := secs.findSome? fun x => if imgBytes b < x.1 + x.2.1 then some x.2.2 else none
    let tables := secs.take 4
    (tables.findSome? fun x => if imgBytes b < x.1 + x.2.1 then some x.2.2 else none).orElse fun _ =>
      (badBlockSize b).orElse fun _ => out.orElse fun _ => (clashIn [] secs).orElse fun _ => badSegmentData b

def badDigest (b : Bytes) : Option Nat :=
  if shake256 64 (b.take 0xC0 ++ slice b 0x100 (imgSigOff b - 0x100)) = imgDigest b then none else some 0xC0

def imgKey (b : Bytes) (c : LoadCtx) : Option Bytes :=
  (c.keys.find? fun k => k.1.toNat == u64At b (imgSigOff b)).map (·.2)

def badKey (b : Bytes) (c : LoadCtx) : Option Nat := if (imgKey b c).isSome then none else some (imgSigOff b)

def badSignature (b : Bytes) (c : LoadCtx) : Option Nat :=
  let o := imgSigOff b
  if signatureOk ((imgKey b c).getD []) (imgDigest b) (u16At b (o + 8)) (slice b (o + 16) 1280) then none else some (o + 16)

/-! ### 0x06 RESERVED -/

/-- Padding bits of a kind map beyond the last program word. -/
def badPadding (t : TileBlock) : Option Nat :=
  let words := t.progBytes / 8
  ((List.range (8 * t.kindMap.length)).find? fun i =>
    decide (words ≤ i) && bit (t.kindMap.getD (i / 8) 0).toNat (i % 8)).map fun i => t.mapOff + i / 8

def badReserved (b : Bytes) : Option Nat :=
  let z := fun (o n : Nat) => (!allZero (slice b o n), o)
  (firstBad [(bits (u32At b 0x1C) 31 1 != 0, 0x1C), z 0xB0 16]).orElse fun _ =>
  ((imgRegions b).findSome? fun o => firstBad [(decide (31 < u8At b (o + 1)), o + 1), z (o + 6) 2, z (o + 0xC) 4]).orElse
    fun _ =>
  ((imgRoutes b).findSome? fun o => firstBad [z (o + 7) 1, z (o + 0xB) 1, z (o + 0x14) 12]).orElse fun _ =>
  ((imgScheds b).findSome? fun o => firstBad [z (o + 0xA) 2]).orElse fun _ =>
  ((imgBlocks b).findSome? fun t =>
    (firstBad [z (t.place + 3) 1, z (t.place + 0xA) 2, z (t.place + 0x18) 8]).orElse fun _ =>
    (badPadding t).orElse fun _ =>
    (t.descOffs.findSome? fun o =>
      firstBad [(decide (15 < u8At b (o + 8)), o + 8), z (o + 0xB) 1, z (o + 0x1C) 4]).orElse fun _ =>
    t.queues.findSome? fun q => firstBad [z (q.place + 0xC) 4]).orElse fun _ =>
  ((imgDma b).1.findSome? fun e => firstBad [z (e.place + 6) 2]).orElse fun _ =>
  firstBad [z (imgSigOff b + 10) 6]

/-! ### 0x07 to 0x0B -/

def badLimit (b : Bytes) : Option Nat :=
  (firstBad [(imgRegionCount b == 0 || decide (64 < imgRegionCount b), 0x20), (decide (4096 < imgRouteCount b), 0x22),
    (imgSchedCount b == 0 || decide (65536 < imgSchedCount b), 0x24),
    (imgStepSlots b == 0 || decide (16384 < imgStepSlots b), 0x28)]).orElse fun _ =>
  ((imgRegions b).findSome? fun o => firstBad [(u16At b (o + 4) == 0, o + 4)]).orElse
    fun _ =>
  (imgBlocks b).findSome? fun t =>
    let o := t.place
    let inN : Nat := (t.queues.filter fun q => decide (q.queue < 128)).length
    (firstBad [(t.segs.isEmpty || decide (64 < t.segs.length), o + 4), (decide (256 < t.descOffs.length), o + 6),
      (decide (128 < inN ∨ 128 < t.queues.length - inN), o + 8), (decide (65536 < t.progBytes), o + 0x10)]).orElse
    fun _ => t.queues.findSome? fun q =>
      firstBad [(decide (64 < q.depth), q.place + 1), (decide (65536 < q.slotBytes), q.place + 8)]

def badSlot (b : Bytes) (c : LoadCtx) : Option Nat :=
  if c.recast then none else firstBad [(!c.slotFree, 0), (imgIsRegion b, 0x1C)]

def maskBit (b : Bytes) (l : Nat) : Bool := bit ((imgMask b).getD (l / 8) 0).toNat (l % 8)

/-- Region entry offset and number of its first block, in table order. -/
def regionStarts (b : Bytes) : List (Nat × Nat) :=
  ((imgRegions b).foldl (fun (a : List (Nat × Nat) × Nat) o => (a.1 ++ [(o, a.2)], a.2 + u16At b (o + 4))) ([], 0)).1

def badTiles (b : Bytes) (c : LoadCtx) : Option Nat :=
  let blocks := imgBlocks b
  let each := (List.range blocks.length).zip blocks
  ((List.range (imgRegionCount b)).zip (regionStarts b) |>.findSome? fun (r, o, first) =>
    firstBad [(!c.recast && u8At b o != r, o), (u32At b (o + 8) != first, o + 8)]).orElse fun _ =>
  (each.findSome? fun (i, t) =>
    let o := t.place
    let owner := ((regionStarts b).filter fun x => decide (x.2 ≤ i)).getLast?
    let rNum := (owner.map fun x => u8At b x.1).getD 0
    let first := (owner.map (·.2)).getD 0
    let before := if i ≤ first then none else blocks[i - 1]?
    firstBad [(decide (511 < t.logical), o), (c.usedTiles.contains t.logical, o),
      ((blocks.take i).any fun u => u.logical == t.logical, o), (!maskBit b t.logical, o), (t.region != rNum, o + 2),
      ((before.map fun u => decide (t.logical ≤ u.logical)).getD false, o)]).orElse fun _ =>
  ((List.range 512).find? fun l => maskBit b l && !(blocks.any fun t => t.logical == l)).map fun l => 0x30 + l / 8

/-- Blocks whose tile needs a spare, beyond those that are free. -/
def badSpares (b : Bytes) (c : LoadCtx) : Option Nat :=
  (((imgBlocks b).filter fun t => c.failedTiles.contains t.logical)[c.spares]?).map (·.place)

def badSpace (b : Bytes) (c : LoadCtx) : Option Nat := if c.freeBytes < imgLpddr6 b then some 0x98 else none

/-! ### 0x0C to 0x10 -/

def badArith (b : Bytes) : Option Nat :=
  (imgRegions b).findSome? fun o => firstBad [(decide (4 < u8At b (o + 1) % 8), o + 1)]

def allDescs (b : Bytes) : List Nat := ((imgBlocks b).map (·.descOffs)).flatten

def badFormat (b : Bytes) : Option Nat := (allDescs b).findSome? fun o => firstBad [(decide (13 < u8At b (o + 8) % 16), o + 8)]

def badDescriptor (b : Bytes) : Option Nat :=
  (allDescs b).findSome? fun o =>
    let f := u8At b (o + 8)
    firstBad [(u8At b (o + 9) != 0 && f != 3 && f != 13, o + 9), (decide (3 < u8At b (o + 0xA)), o + 0xA),
      (u32At b (o + 0xC) == 0, o + 0xC), (u32At b (o + 0x10) == 0, o + 0x10),
      (decide (u32At b (o + 0xC) ≤ u32At b (o + 0x14)), o + 0x14), (decide (u32At b (o + 0x10) ≤ u32At b (o + 0x18)), o + 0x18)]

def QueueDecl.bytes (q : QueueDecl) : Nat := q.depth * q.slotBytes

def badTileMemory (t : TileBlock) : Option Nat :=
  (t.segs.findSome? fun s => firstBad [(decide (tileBytes < s.addr + s.len), s.place)]).orElse fun _ =>
  (t.queues.findSome? fun q =>
    firstBad [(q.base % 512 != 0 || decide (tileBytes < q.base + q.bytes), q.place + 4)]).orElse fun _ =>
  (firstBad [(t.progStart % 8 != 0 || decide (tileBytes < t.progStart + t.progBytes), t.place + 0xC),
    (t.progBytes % 8 != 0, t.place + 0x10)]).orElse fun _ =>
  (clashIn [] ((t.segs.map fun s => (s.addr, s.len, s.place)) ++
    t.queues.map fun q => (q.base, q.bytes, q.place + 4))).orElse fun _ =>
  t.queues.findSome? fun q => if clash t.progStart t.progBytes q.base q.bytes then some (q.place + 4) else none

/-- The queue is the end that the route names for it. -/
def Route.endsAt (r : Route) (logical queue : Nat) : Bool :=
  if queue < 128 then (r.kind == 0 || r.kind == 1 || r.kind == 3) && r.dst.toNat == logical && r.dstQueue.toNat == queue
  else (r.kind == 0 || r.kind == 2 || r.kind == 4) && r.src.toNat == logical && r.srcQueue.toNat == queue

def imgRouteList (b : Bytes) : List Route := (imgRoutes b).map (routeAt b)

def badQueues (rs : List Route) (t : TileBlock) : Option Nat :=
  ((List.range t.queues.length).zip t.queues).findSome? fun (i, q) =>
    firstBad [(q.depth == 0, q.place + 1), (q.slotBytes < 64 || q.slotBytes % 64 != 0, q.place + 8),
      ((t.queues.take i).any fun x => x.queue == q.queue, q.place),
      (!((rs[q.route]?).map fun r => r.endsAt t.logical q.queue).getD false, q.place + 2)]

/-! ### 0x11 ROUTE -/

def Route.fromDma (r : Route) : Bool := r.kind == 1 || r.kind == 3
def Route.toDma (r : Route) : Bool := r.kind == 2 || r.kind == 4
def Route.srcTile (r : Route) : Bool := !r.fromDma
def Route.dstTile (r : Route) : Bool := !r.toDma

/-- The channel at a route's DMA end. -/
def Route.channel (r : Route) : Option Nat :=
  if r.fromDma then some r.src.toNat else if r.toDma then some r.dst.toNat else none

/-- Declaration of a queue of a logical tile. -/
def declOf (bs : List TileBlock) (l q : Nat) : Option QueueDecl :=
  (bs.find? fun t => t.logical == l).bind fun t => t.queues.find? fun d => d.queue == q

/-- An end at a tile is undeclared or of the wrong direction; outside a region image's region it counts as declared. -/
def endBad (bs : List TileBlock) (recast : Bool) (n l q : Nat) (out : Bool) : Bool :=
  if recast && !(bs.any fun t => t.logical == l) then false
  else (decide (128 ≤ q) != out) || ((declOf bs l q).map fun d => d.route != n).getD true

def badRoutes (b : Bytes) (c : LoadCtx) : Option Nat :=
  let bs := imgBlocks b
  let dma := (imgDma b).1
  ((List.range (imgRouteCount b)).zip (imgRoutes b)).findSome? fun (n, o) =>
    let r := routeAt b o
    let noEntry := fun (ch : Nat) => !c.recast && !(dma.any fun e => e.channel == ch && e.route == n)
    firstBad [(r.route.toNat != n, o), (decide (4 < r.kind.toNat), o + 2),
      (if r.kind = 1 ∨ r.kind = 2 then decide (23 < r.group.toNat) else r.group != 0, o + 3),
      (if r.srcTile then endBad bs c.recast n r.src.toNat r.srcQueue.toNat true else noEntry r.src.toNat, o + 4),
      (r.fromDma && r.srcQueue != 0, o + 6),
      (if r.dstTile then endBad bs c.recast n r.dst.toNat r.dstQueue.toNat false else noEntry r.dst.toNat, o + 8),
      (r.toDma && r.dstQueue != 0, o + 0xA),
      (r.kind == 0 && (match declOf bs r.src.toNat r.srcQueue.toNat, declOf bs r.dst.toNat r.dstQueue.toNat with
        | some x, some y => x.slotBytes != y.slotBytes
        | _, _ => false), o + 8)]

/-! ### 0x12 DMA -/

/-- SLOT_BYTES of a route: that of its declared queue. -/
def routeSlotBytes (bs : List TileBlock) (r : Route) : Nat :=
  ((if r.dstTile then declOf bs r.dst.toNat r.dstQueue.toNat else declOf bs r.src.toNat r.srcQueue.toNat).map
    (·.slotBytes)).getD 0

/-- The side of a route-bound descriptor that is its route's end, and the other side (R406). -/
def sidesBad (r : Route) (d : DmaDesc) : Option Nat :=
  if r.fromDma then firstOf [(spaceOf d.dst != 1, 0x10), (spaceOf d.src == 1, 8)]
  else firstOf [(spaceOf d.src != 1, 8), (spaceOf d.dst == 1, 0x10)]

def badDmaEntry (bs : List TileBlock) (rs : List Route) (c : LoadCtx) (before : List ImgDma) (e : ImgDma) : Option Nat :=
  let o := e.place
  match rs[e.route]? with
  | none => some (o + 4)
  | some r =>
    let ds := e.descs.map DmaDesc.ofBytes
    (firstBad [(c.usedChannels.contains e.channel || before.any fun x => x.channel == e.channel, o),
      (r.channel != some e.channel || (before.any fun x => x.route == e.route), o + 4),
      (!channelServes e.channel r.kind.toNat r.group.toNat, o), (e.count == 0 || decide (64 < e.count), o + 2),
      (decide (e.count ≤ e.start), o + 3)]).orElse fun _ =>
    (((List.range ds.length).zip ds).findSome? fun (i, d) =>
      let at8 := fun (f : Nat) => o + 8 + 64 * i + f
      ((d.badBefore e.channel).map fun x => at8 x.field).orElse fun _ =>
      ((sidesBad r d).map at8).orElse fun _ =>
      (d.badBound e.count (routeSlotBytes bs r)).map at8).orElse fun _ =>
    if ringPasses ds 65 e.start = some r.msgsPerStep.toNat then none else some o

def badDma (b : Bytes) (c : LoadCtx) : Option Nat :=
  let bs := imgBlocks b
  let rs := imgRouteList b
  let (es, stop) := imgDma b
  (((List.range es.length).zip es).findSome? fun (i, e) => badDmaEntry bs rs c (es.take i) e).orElse fun _ =>
    if stop = imgDmaOff b + imgDmaBytes b then none else some stop

/-! ### The checks in the order of Table 6-9 -/

def imageChecks : List (Nat × (Bytes → LoadCtx → Option Nat)) :=
  [(0x01, fun b _ => badHeader b), (0x02, fun b _ => badSize b), (0x03, fun b _ => badDigest b), (0x04, badKey),
    (0x05, badSignature), (0x06, fun b _ => badReserved b), (0x07, fun b _ => badLimit b), (0x08, badSlot),
    (0x09, badTiles), (0x0A, badSpares), (0x0B, badSpace), (0x0C, fun b _ => badArith b), (0x0D, fun b _ => badFormat b),
    (0x0E, fun b _ => badDescriptor b), (0x0F, fun b _ => (imgBlocks b).findSome? badTileMemory),
    (0x10, fun b _ => (imgBlocks b).findSome? (badQueues (imgRouteList b))), (0x11, badRoutes), (0x12, badDma)]

/-- Reason code and offset of the first check that fails. -/
def checkImage (b : Bytes) (c : LoadCtx) : Option (Nat × Nat) :=
  imageChecks.findSome? fun k => (k.2 b c).map fun o => (k.1, o)

end Sys2Proof.Machine
end

