-- ==== Sys2Proof/Machine/Walk.lean ====
section
/-! DEFINITION. Machine/Walk.lean: the loader's look at tile programs (R169 codes 0x13 to 0x17, R110, R151, R152, R163):
validity of every word, and the exact path of every schedule entry. -/

namespace Sys2Proof.Machine

/-! ### Program words -/

/-- Segment that covers a tile-memory address. -/
def TileBlock.segAt (t : TileBlock) (a : Nat) : Option Segment :=
  t.segs.find? fun s => decide (s.addr ≤ a) && decide (a < s.addr + s.len)

/-- Tile memory as the image initialises it: 0 where no segment lies. -/
def TileBlock.byteAt (b : Bytes) (t : TileBlock) (a : Nat) : Byte :=
  match t.segAt a with
  | some s => b.getD (s.off + (a - s.addr)) 0
  | none => 0

def TileBlock.bytesAt (b : Bytes) (t : TileBlock) (a n : Nat) : Bytes := (List.range n).map fun i => t.byteAt b (a + i)

def TileBlock.words (t : TileBlock) : Nat := t.progBytes / 8

def TileBlock.word (b : Bytes) (t : TileBlock) (i : Nat) : Nat := leNat (t.bytesAt b (t.progStart + 8 * i) 8)

/-- The kind map marks word i as the low word of a matrix command. -/
def TileBlock.mark (t : TileBlock) (i : Nat) : Bool := bit (t.kindMap.getD (i / 8) 0).toNat (i % 8)

def TileBlock.highWord (t : TileBlock) (i : Nat) : Bool := i != 0 && t.mark (i - 1)

/-- Image offset of program word i; where no segment covers it, that of the block's PROG_START. -/
def TileBlock.wordOff (t : TileBlock) (i : Nat) : Nat :=
  match t.segAt (t.progStart + 8 * i) with
  | some s => s.off + (t.progStart + 8 * i - s.addr)
  | none => t.place + 0xC

/-- A tile that holds what the static checks look at. -/
def TileBlock.asTile (t : TileBlock) : Tile :=
  { Tile.blank with
    progStart := t.progStart, progWords := t.words
    kindMap := (List.range t.words).map t.mark
    descs := List.replicate t.descOffs.length TensorDesc.zero }

/-! ### Validity of single words -/

/-- Types and register conditions of the opcodes of Table 5-3; none for a reserved opcode. -/
def opRule (op : Nat) : Option (VRule × VRegs) :=
  match op with
  | 0x00 => some (⟨tyNone, false, 0⟩, .plain)
  | 0x01 => some (⟨tyNone, false, 0x3FFFFFF⟩, .toScalar)
  | 0x02 => some (⟨tyNone, false, 0x3FFFFFF⟩, .scalarToScalar)
  | 0x03 => some (⟨tyNone, false, 0x3FFFFFF⟩, .toScalar)
  | 0x04 => some (⟨tyNone, false, 0xFF⟩, .plain)
  | 0x05 => some (⟨tyNone, false, 0xFF⟩, .plain)
  | 0x06 => some (⟨tyNone, false, 0⟩, .plain)
  | 0x07 => some (⟨tyNone, false, 0⟩, .plain)
  | 0x10 => some (⟨tyFHBIU, true, 0⟩, .plain)
  | 0x11 => some (⟨tyFHBIU, true, 0⟩, .plain)
  | 0x12 => some (⟨tyFHBIU, true, 0⟩, .plain)
  | 0x13 => some (⟨tyFHB, true, 0⟩, .plain)
  | 0x14 => some (⟨tyFHB, true, 0⟩, .plain)
  | 0x15 => some (⟨tyF, true, 0⟩, .plain)
  | 0x16 => some (⟨tyF, true, 0⟩, .plain)
  | 0x17 => some (⟨tyFHBIU, false, 0⟩, .plain)
  | 0x18 => some (⟨tyFHBIU, false, 0⟩, .plain)
  | 0x19 => some (⟨tyFHB, false, 0⟩, .plain)
  | 0x1A => some (⟨tyFHB, false, 0⟩, .plain)
  | 0x1B => some (⟨tyIU, false, 0⟩, .plain)
  | 0x1C => some (⟨tyIU, false, 0⟩, .plain)
  | 0x1D => some (⟨tyIU, false, 0⟩, .plain)
  | 0x1E => some (⟨tyIU, false, 0x3F⟩, .plain)
  | 0x1F => some (⟨tyIU, false, 0x3F⟩, .plain)
  | 0x20 => some (⟨tyFH, false, 0⟩, .pairTo)
  | 0x21 => some (⟨tyFH, false, 0⟩, .pairTo)
  | 0x22 => some (⟨tyFH, false, 0⟩, .pairToFrom)
  | 0x30 => some (⟨tyFIU, false, 0⟩, .toMask)
  | 0x31 => some (⟨tyFIU, false, 0⟩, .toMask)
  | 0x32 => some (⟨tyFIU, false, 0⟩, .toMask)
  | 0x33 => some (⟨tyFIU, false, 0⟩, .toMask)
  | 0x34 => some (⟨tyFIU, false, 0⟩, .toMask)
  | 0x35 => some (⟨tyFIU, false, 0⟩, .toMask)
  | 0x36 => some (⟨tyFHBIU, false, 0⟩, .noMz)
  | 0x37 => some (⟨tyF, false, 0⟩, .plain)
  | 0x38 => some (⟨tyNone, false, 0⟩, .maskToMask)
  | 0x39 => some (⟨tyNone, false, 0⟩, .maskToMask)
  | 0x3A => some (⟨tyNone, false, 0⟩, .maskToMask1)
  | 0x40 => some (⟨tyFHBIU, false, 0⟩, .plain)
  | 0x41 => some (⟨tyFHBIU, false, 0x3F⟩, .plain)
  | 0x42 => some (⟨tyFHBIU, false, 0x3F⟩, .plain)
  | 0x43 => some (⟨tyFHBIU, false, 0x3F⟩, .plain)
  | 0x44 => some (⟨tyFHBIU, false, 0⟩, .fromScalar)
  | 0x45 => some (⟨tyIU, false, 0⟩, .fromScalar)
  | 0x46 => some (⟨tyFHBIU, false, 1⟩, .plain)
  | 0x47 => some (⟨tyFHBIU, false, 1⟩, .plain)
  | 0x48 => some (⟨tyF, true, 0x3FFFFC0⟩, .plain)
  | 0x49 => some (⟨tyF, false, 0x3FFFF80⟩, .plain)
  | 0x50 => some (⟨tyFHB, true, 0x3C00001⟩, .plain)
  | 0x51 => some (⟨tyFHB, true, 0x3C00001⟩, .plain)
  | 0x52 => some (⟨tyFHB, false, 0x3C00001⟩, .plain)
  | 0x53 => some (⟨tyFHB, false, 0x3C00001⟩, .plain)
  | 0x54 => some (⟨tyFHB, false, 0x3C00001⟩, .plain)
  | 0x55 => some (⟨tyFHB, false, 0x3C00001⟩, .plain)
  | 0x60 => some (⟨tyF, false, 0xFFFF⟩, .plain)
  | 0x61 => some (⟨tyF, false, 0xFFFF⟩, .plain)
  | 0x62 => some (⟨tyNone, false, 0x3FFFF00⟩, .plain)
  | 0x70 => some (⟨tyNone, false, 0x3FFFF00⟩, .plain)
  | 0x71 => some (⟨tyNone, false, 0x3FFFF00⟩, .plain)
  | 0x72 => some (⟨tyNone, false, 0x3FFFF00⟩, .doubleReg)
  | 0x73 => some (⟨tyNone, false, 0x3FFFF00⟩, .doubleReg)
  | 0x74 => some (⟨tyNone, false, 0x3FFFF00⟩, .toScalar)
  | 0x75 => some (⟨tyNone, false, 0x3FFFF00⟩, .fromScalarD)
  | _ => none

/-- Conditions of R152 beside types and registers that do not depend on a register's value, and the declared queue. -/
def opExtra (op : Nat) (f : VFields) (arith : Nat) (t : Tile) (i : Nat) (queues : List QueueDecl) : Bool :=
  let v : VIn := ⟨arith, 0, 0⟩
  match op with
  | 0x03 => t.targetOk ((i : Int) + signed 26 f.x.toNat)
  | 0x04 => queues.any fun q => q.queue == f.queue
  | 0x05 => queues.any fun q => q.queue == f.queue
  | 0x48 => packOk v f t
  | 0x49 => unpackOk v f t
  | _ => true

/-- Word i is a valid vector instruction. -/
def vectorWordOk (b : Bytes) (t : TileBlock) (tile : Tile) (arith i : Nat) : Bool :=
  let (op, f) := VFields.ofWord (t.word b i)
  match opRule op with
  | none => false
  | some (r, g) => r.ok f && g.ok f && opExtra op f arith tile i t.queues

/-- Word i, marked, starts a valid matrix command. -/
def matrixWordOk (b : Bytes) (t : TileBlock) (arith i : Nat) : Bool :=
  decide (i + 1 < t.words) && !t.mark (i + 1) &&
  (MxCmd.ofWord (t.word b i + 2 ^ 64 * t.word b (i + 1))).valid arith t.descOffs.length

/-- ARITH of a region of the image. -/
def imgArith (b : Bytes) (region : Nat) : Nat :=
  (((imgRegions b).find? fun o => u8At b o == region).map fun o => u8At b (o + 1)).getD 0

def badMatrixWords (b : Bytes) : Option Nat :=
  (imgBlocks b).findSome? fun t =>
    ((List.range t.words).find? fun i => t.mark i && !matrixWordOk b t (imgArith b t.region) i).map t.wordOff

def badVectorWords (b : Bytes) : Option Nat :=
  (imgBlocks b).findSome? fun t =>
    let tile := t.asTile
    ((List.range t.words).find? fun i =>
      !t.mark i && !t.highWord i && !vectorWordOk b t tile (imgArith b t.region) i).map t.wordOff

/-! ### Walking an entry (R151, R169, R170) -/

/-- What is known of the table pair a tile holds. -/
inductive TableKnown where
  /-- No TLOAD on the path. -/
  | absent
  | unknown
  /-- A checked TLOAD loaded the pair whose TABLE_ID has these low 16 bits. -/
  | pair (id : Nat)
deriving DecidableEq, Repr, Inhabited

/-- A queue operation: WAITQ or RELEASE, queue, program word. -/
structure QueueOp where
  wait : Bool
  queue : Nat
  word : Nat
deriving DecidableEq, Repr, Inhabited

structure WalkSt where
  pc : Nat
  scalars : List (Option Nat)
  table : TableKnown
  ops : List QueueOp
  /-- Stores and D writes: their extents, none where the address is not fixed. -/
  writes : List (Option (Nat × Nat))
  /-- TFN and TDER met: word, TID, what was known of the pair. -/
  uses : List (Nat × Nat × TableKnown)
  halted : Bool
  stopped : Bool
  badLoop : Option Nat
  badTable : Option Nat
deriving DecidableEq, Repr, Inhabited

def WalkSt.start (entry : Nat) (table : TableKnown) : WalkSt where
  pc := entry
  scalars := some 0 :: List.replicate 15 none
  table := table
  ops := []
  writes := []
  uses := []
  halted := false
  stopped := false
  badLoop := none
  badTable := none

def WalkSt.scalar (w : WalkSt) (k : Nat) : Option Nat := w.scalars.getD (k % 16) none

def WalkSt.setScalar (w : WalkSt) (k : Nat) (v : Option Nat) : WalkSt :=
  if k % 16 = 0 then w else { w with scalars := w.scalars.set (k % 16) v }

/-- Address s[SB] + OFFSET × 32 where it is fixed. -/
def WalkSt.address (w : WalkSt) (f : VFields) : Option Nat := (w.scalar f.sb).map fun s => (s + 32 * f.offset) % 2 ^ 64

/-- What a TLOAD leaves: it is checked where its address is fixed and in range, the pair lies outside every queue area,
and every store of the tile's entries has a fixed address that misses it (0x16). -/
def tloadStep (b : Bytes) (t : TileBlock) (stores : List (Option (Nat × Nat))) (w : WalkSt) (f : VFields) : WalkSt :=
  match w.address f with
  | none => { w with table := .unknown }
  | some a =>
    if !accessOk a 512 tablePairBytes || (t.queues.any fun q => clash a tablePairBytes q.base q.bytes) ||
        stores.any (fun s => match s with
          | none => true
          | some (x, n) => clash a tablePairBytes x n) then { w with table := .unknown }
    else
      let tab := t.bytesAt b a tablePairBytes
      if tableOk tab then { w with table := .pair (tableWord tab 44 % 2 ^ 16) }
      else { w with table := .unknown, badTable := w.badTable.orElse fun _ => some w.pc }

/-- One vector instruction of the path. -/
def walkVector (b : Bytes) (t : TileBlock) (stores : List (Option (Nat × Nat))) (w : WalkSt) : WalkSt :=
  let (op, f) := VFields.ofWord (t.word b w.pc)
  let d := f.vd.toNat
  let next := fun (w : WalkSt) => { w with pc := w.pc + 1 }
  let store := fun (n : Nat) => next { w with writes := w.writes ++ [(w.address f).map fun a => (a, n)] }
  match op with
  | 0x01 => next (w.setScalar d (some f.imm))
  | 0x02 => next (w.setScalar d ((w.scalar f.va.toNat).map fun s => (s + f.imm) % 2 ^ 64))
  | 0x03 =>
    match w.scalar d with
    | none => { w with badLoop := some w.pc, stopped := true }
    | some v =>
      let n := (v + 2 ^ 64 - 1) % 2 ^ 64
      let w := w.setScalar d (some n)
      if n = 0 then next w else { w with pc := ((w.pc : Int) + signed 26 f.x.toNat).toNat }
  | 0x04 => next { w with ops := w.ops ++ [⟨true, f.queue, w.pc⟩] }
  | 0x05 => next { w with ops := w.ops ++ [⟨false, f.queue, w.pc⟩] }
  | 0x07 => { w with halted := true, stopped := true }
  | 0x60 => next { w with uses := w.uses ++ [(w.pc, f.tid, w.table)] }
  | 0x61 => next { w with uses := w.uses ++ [(w.pc, f.tid, w.table)] }
  | 0x62 => next (tloadStep b t stores w f)
  | 0x71 => store 256
  | 0x73 => store 512
  | 0x74 => next (w.setScalar d none)
  | 0x75 => store 8
  | _ => next w

def walkStep (b : Bytes) (t : TileBlock) (stores : List (Option (Nat × Nat))) (w : WalkSt) : WalkSt :=
  if t.words ≤ w.pc then { w with stopped := true }
  else if t.mark w.pc then
    let m := MxCmd.ofWord (t.word b w.pc + 2 ^ 64 * t.word b (w.pc + 1))
    { w with pc := w.pc + 2, writes := w.writes ++ [some (m.addrD, imageBytes m.fmtD)] }
  else walkVector b t stores w

def walkFrom (b : Bytes) (t : TileBlock) (stores : List (Option (Nat × Nat))) : Nat → WalkSt → WalkSt
  | 0, w => w
  | n + 1, w => if w.stopped then w else walkFrom b t stores n (walkStep b t stores w)

/-- More steps than a path can take without coming back to a place with the same scalars, after which it never ends:
65,536 ÷ 8 words, 15 scalars known or not. -/
def walkFuel : Nat := 2 ^ 1000

def walkEntry (b : Bytes) (t : TileBlock) (stores : List (Option (Nat × Nat))) (entry : Nat) (table : TableKnown) : WalkSt :=
  walkFrom b t stores walkFuel (WalkSt.start entry table)

/-- ENTRY lies within the program and on no high word of a matrix command. -/
def TileBlock.entryOk (t : TileBlock) (e : Nat) : Bool := decide (e < t.words) && !t.highWord e

def imgSchedList (b : Bytes) : List SchedEntry := (imgScheds b).map (schedAt b)

/-- Schedule entries of a tile's region that can be walked, in slot order. -/
def walkable (b : Bytes) (t : TileBlock) : List SchedEntry :=
  (imgSchedList b).filter fun e => e.region.toNat == t.region && t.entryOk e.entry.toNat

/-- Every store and D write on the tile's paths: an entry repeats every step, so each comes before every TLOAD on some
path (DEDUCED, assumption log 34). -/
def tileStores (b : Bytes) (t : TileBlock) : List (Option (Nat × Nat)) :=
  ((walkable b t).map fun e => (walkEntry b t [] e.entry.toNat .unknown).writes).flatten

/-- The entries walked one after another, each with the pair the one before left. -/
def walkChain (b : Bytes) (t : TileBlock) (stores : List (Option (Nat × Nat))) :
    TableKnown → List SchedEntry → List WalkSt
  | _, [] => []
  | k, e :: r =>
    let w := walkEntry b t stores e.entry.toNat k
    w :: walkChain b t stores w.table r

/-- All walks of a tile: a first step, which begins without a pair, and a later one, which begins with what a step
leaves. -/
def tileWalks (b : Bytes) (t : TileBlock) : List WalkSt :=
  let es := walkable b t
  let stores := tileStores b t
  let first := walkChain b t stores .absent es
  let left := ((first.getLast?).map (·.table)).getD .absent
  first ++ if left = .absent then [] else walkChain b t stores left es

def badLoops (b : Bytes) : Option Nat :=
  (imgBlocks b).findSome? fun t => (tileWalks b t).findSome? fun w => w.badLoop.map t.wordOff

/-- A TFN or TDER at word i is refused: every path to it has no TLOAD, or on every path a checked TLOAD left another
pair. -/
def useBad (uses : List (Nat × Nat × TableKnown)) (i : Nat) : Bool :=
  let u := uses.filter fun x => x.1 == i
  (u.all fun x => x.2.2 == .absent) || u.all fun x => match x.2.2 with
    | .pair n => n != x.2.1
    | _ => false

def badTables (b : Bytes) : Option Nat :=
  (imgBlocks b).findSome? fun t =>
    let ws := tileWalks b t
    let uses := (ws.map (·.uses)).flatten
    ((ws.findSome? fun w => w.badTable).orElse fun _ => (uses.find? fun x => useBad uses x.1).map (·.1)).map t.wordOff

/-- Order of the schedule: by SLOT, then by REGION, no two alike. -/
def schedBefore (a e : SchedEntry) : Bool :=
  decide (a.slot.toNat < e.slot.toNat) || (a.slot == e.slot && decide (a.region.toNat < e.region.toNat))

def badSchedule (b : Bytes) : Option Nat :=
  let es := imgSchedList b
  let regions := (imgRegions b).map fun o => u8At b o
  let blocks := imgBlocks b
  ((List.range es.length).zip ((imgScheds b).zip es)).findSome? fun (i, o, e) =>
    let mine := blocks.filter fun t => t.region == e.region.toNat
    firstBad [(i != 0 && ((es[i - 1]?).map fun a => !schedBefore a e).getD false, o),
      (decide (imgStepSlots b ≤ e.slot.toNat), o), (!regions.contains e.region.toNat, o + 4), (decide (4 < e.kind.toNat), o + 5),
      (mine.any fun t => !t.entryOk e.entry.toNat, o + 0xC),
      (mine.any fun t => !(walkEntry b t [] e.entry.toNat .unknown).halted, o + 0xC)]

/-- The checks 0x13 to 0x17. -/
def checkPrograms (b : Bytes) : Option (Nat × Nat) :=
  [(0x13, badMatrixWords), (0x14, badVectorWords), (0x15, badLoops), (0x16, badTables), (0x17, badSchedule)].findSome?
    fun k => (k.2 b).map fun o => (k.1, o)

/-- Queue operations of a tile in an entry. -/
def entryOps (b : Bytes) (t : TileBlock) (e : SchedEntry) : List QueueOp :=
  (walkEntry b t [] e.entry.toNat .unknown).ops

end Sys2Proof.Machine
end

