-- ==== Sys2Proof/Machine/Play.lean ====
section
/-! DEFINITION. Machine/Play.lean: the loader's play of one step (R170, codes 0x19 and 0x1A) and the link check (R171,
code 0x18). -/

namespace Sys2Proof.Machine

/-! ### The play -/

/-- A tile as the play sees it: its queues, and per schedule entry of its region the queue operations with the image
offset of each one's word. -/
structure PlayTile where
  logical : Nat
  region : Nat
  queues : List QueueDecl
  ops : List (List (QueueOp × Nat))
deriving DecidableEq, Repr, Inhabited

structure PlaySt where
  /-- Inbound, by logical tile × 256 + queue: messages not yet waited on, and waited on. -/
  full : Sparse Nat
  held : Sparse Nat
  /-- Outbound: slots claimed, and slots handed to the router. -/
  claimed : Sparse Nat
  handed : Sparse Nat
  /-- Messages of each route sent and received. -/
  sent : Sparse Nat
  received : Sparse Nat
  /-- Operations left of the entry each tile is in. -/
  rest : Sparse (List (QueueOp × Nat))
  /-- Entry each region is in, and whether it has begun. -/
  cur : Sparse Nat
  begun : Sparse Nat
  opened : Nat
deriving DecidableEq, Repr, Inhabited

def bump (m : Sparse Nat) (k : Nat) : Sparse Nat := Sparse.put 0 m k (Sparse.get 0 m k + 1)
def drop1 (m : Sparse Nat) (k : Nat) : Sparse Nat := Sparse.put 0 m k (Sparse.get 0 m k - 1)

/-- What the play runs over. -/
structure PlayIn where
  tiles : List PlayTile
  routes : List Route
  sched : List SchedEntry
  stepSlots : Nat
deriving DecidableEq, Repr, Inhabited

def queueKey (l q : Nat) : Nat := 256 * l + q

/-- Route that ends in a queue. -/
def PlayIn.routeOf (p : PlayIn) (l q : Nat) : Option Route := p.routes.find? fun r => r.endsAt l q

def PlayTile.depth (t : PlayTile) (q : Nat) : Nat := ((t.queues.find? fun d => d.queue == q).map (·.depth)).getD 0

/-- One queue operation, where it can complete. -/
def PlayIn.apply (p : PlayIn) (t : PlayTile) (s : PlaySt) (o : QueueOp) : Option PlaySt :=
  let k := queueKey t.logical o.queue
  let r := p.routeOf t.logical o.queue
  let n := (r.map (·.route.toNat)).getD 0
  if o.queue < 128 then
    if o.wait then
      if Sparse.get 0 s.full k ≠ 0 then
        some { s with full := drop1 s.full k, held := bump s.held k, received := bump s.received n }
      else if (r.map Route.fromDma).getD false ∧ Sparse.get 0 s.held k < t.depth o.queue then
        some { s with held := bump s.held k, received := bump s.received n, sent := bump s.sent n }
      else none
    else some (if Sparse.get 0 s.held k = 0 then s else { s with held := drop1 s.held k })
  else if o.wait then
    if Sparse.get 0 s.claimed k + Sparse.get 0 s.handed k < t.depth o.queue then some { s with claimed := bump s.claimed k }
    else none
  else some (if Sparse.get 0 s.claimed k = 0 then s
    else { s with claimed := drop1 s.claimed k, handed := bump s.handed k, sent := bump s.sent n })

/-- Operations of a tile that complete one after another: what is left, and whether any did. -/
def PlayIn.run (p : PlayIn) (t : PlayTile) : PlaySt → List (QueueOp × Nat) → PlaySt × List (QueueOp × Nat) × Bool
  | s, [] => (s, [], false)
  | s, o :: r =>
    match p.apply t s o.1 with
    | none => (s, o :: r, false)
    | some s => let (s, l, _) := p.run t s r; (s, l, true)

def PlayIn.runTile (p : PlayIn) (a : PlaySt × Bool) (t : PlayTile) : PlaySt × Bool :=
  let (s, l, m) := p.run t a.1 (Sparse.get [] a.1.rest t.logical)
  ({ s with rest := Sparse.put [] s.rest t.logical l }, a.2 || m)

/-- Messages of one route delivered into free receive slots; a DMA destination takes them all. `n` bounds them. -/
def PlayIn.deliver (p : PlayIn) (r : Route) : Nat → PlaySt × Bool → PlaySt × Bool
  | 0, a => a
  | n + 1, a =>
    let s := a.1
    let ks := queueKey r.src.toNat r.srcQueue.toNat
    let kd := queueKey r.dst.toNat r.dstQueue.toNat
    if r.fromDma || Sparse.get 0 s.handed ks == 0 then a
    else if r.toDma then
      p.deliver r n ({ s with handed := drop1 s.handed ks, received := bump s.received r.route.toNat }, true)
    else
      let depth := ((p.tiles.find? fun t => t.logical == r.dst.toNat).map fun t => t.depth r.dstQueue.toNat).getD 0
      if Sparse.get 0 s.full kd + Sparse.get 0 s.held kd < depth then
        p.deliver r n ({ s with handed := drop1 s.handed ks, full := bump s.full kd }, true)
      else a

def PlayIn.regions (p : PlayIn) : List Nat := (p.tiles.map (·.region)).eraseDups
def PlayIn.entries (p : PlayIn) (r : Nat) : List SchedEntry := p.sched.filter fun e => e.region.toNat == r
def PlayIn.tilesOf (p : PlayIn) (r : Nat) : List PlayTile := p.tiles.filter fun t => t.region == r

/-- The region's entry ends: every tile has reached HALT and every message handed over is delivered (R159). -/
def PlayIn.entryOver (p : PlayIn) (s : PlaySt) (r : Nat) : Bool :=
  Sparse.get 0 s.begun r == 1 && (p.tilesOf r).all fun t => (Sparse.get [] s.rest t.logical).isEmpty &&
    t.queues.all fun q => decide (q.queue < 128) || Sparse.get 0 s.handed (queueKey t.logical q.queue) == 0

/-- One region's entry ends or begins where it may. -/
def PlayIn.settleRegion (p : PlayIn) (a : PlaySt × Bool) (r : Nat) : PlaySt × Bool :=
  let s := a.1
  let n := Sparse.get 0 s.cur r
  match (p.entries r)[n]? with
  | none => a
  | some e =>
    if p.entryOver s r then ({ s with cur := bump s.cur r, begun := Sparse.put 0 s.begun r 0 }, true)
    else if Sparse.get 0 s.begun r = 0 ∧ e.slot.toNat < s.opened then
      ({ s with
          begun := Sparse.put 0 s.begun r 1
          rest := (p.tilesOf r).foldl (fun m t => Sparse.put [] m t.logical (t.ops.getD n [])) s.rest }, true)
    else a

/-- Every region has begun all its entries of the slots opened so far, so the next one opens (R159). -/
def PlayIn.openNext (p : PlayIn) (a : PlaySt × Bool) : PlaySt × Bool :=
  let s := a.1
  let ok := p.regions.all fun r =>
    decide (((p.entries r).filter fun e => decide (e.slot.toNat < s.opened)).length ≤ Sparse.get 0 s.cur r + Sparse.get 0 s.begun r)
  if decide (s.opened < p.stepSlots) && ok then ({ s with opened := s.opened + 1 }, true) else a

/-- Entries end and begin and slots open until nothing more follows; `n` bounds the rounds. -/
def PlayIn.settle (p : PlayIn) : Nat → PlaySt × Bool → PlaySt × Bool
  | 0, a => a
  | n + 1, a =>
    let (s, m) := p.openNext (p.regions.foldl p.settleRegion (a.1, false))
    if m then p.settle n (s, true) else (s, a.2)

/-- Every tile has passed its last HALT. -/
def PlayIn.finished (p : PlayIn) (s : PlaySt) : Bool :=
  p.regions.all fun r =>
    let n := (p.entries r).length
    let c := Sparse.get 0 s.cur r
    decide (n ≤ c) || (c + 1 == n && Sparse.get 0 s.begun r == 1 &&
      (p.tilesOf r).all fun t => (Sparse.get [] s.rest t.logical).isEmpty)

/-- First blocked WAITQ, in logical order; without one the STEP_SLOTS field. -/
def PlayIn.blockedAt (p : PlayIn) (s : PlaySt) : Nat :=
  (p.tiles.findSome? fun t => (Sparse.get [] s.rest t.logical).head?.map (·.2)).getD 0x28

/-- A message left in a queue at the end: the queue's declaration. -/
def PlayIn.leftover (p : PlayIn) (s : PlaySt) : Option Nat :=
  p.tiles.findSome? fun t => t.queues.findSome? fun q =>
    let k := queueKey t.logical q.queue
    if Sparse.get 0 s.full k + Sparse.get 0 s.held k + Sparse.get 0 s.handed k = 0 then none else some q.place

/-- A route whose messages sent and received differ, or differ from MSGS_PER_STEP; `at` gives the route's offset. -/
def PlayIn.unbalanced (p : PlayIn) (at_ : Nat → Nat) (s : PlaySt) : Option Nat :=
  p.routes.findSome? fun r =>
    let n := r.route.toNat
    let x := Sparse.get 0 s.sent n
    if x = Sparse.get 0 s.received n ∧ x = r.msgsPerStep.toNat then none else some (at_ n + 0xC)

/-- The loop of R170. -/
def PlayIn.loop (p : PlayIn) (at_ : Nat → Nat) : Nat → PlaySt → Option (Nat × Nat)
  | 0, s => some (0x19, p.blockedAt s)
  | n + 1, s =>
    let all := (p.tiles.map fun t => t.ops.foldl (fun k l => k + l.length) 0).foldl (· + ·) 0
    let a := p.tiles.foldl p.runTile (s, false)
    let a := p.routes.foldl (fun a r => p.deliver r (all + 1) a) a
    let (s, moved) := p.settle (p.stepSlots + 2 * p.sched.length + 1) a
    if p.finished s then
      ((p.leftover s).orElse fun _ => p.unbalanced at_ s).map fun o => (0x1A, o)
    else if moved then p.loop at_ n s
    else some (0x19, p.blockedAt s)

/-- One step played through: reason and offset where it is refused. Every round moves an operation, a message, an entry
or a slot, so the bound is never reached. -/
def PlayIn.play (p : PlayIn) (at_ : Nat → Nat) : Option (Nat × Nat) :=
  let all := (p.tiles.map fun t => t.ops.foldl (fun k l => k + l.length) 0).foldl (· + ·) 0
  let s0 : PlaySt := ⟨[], [], [], [], [], [], [], [], [], 1⟩
  p.loop at_ (2 * all + p.stepSlots + 2 * p.sched.length + 2) (p.settle (p.stepSlots + 2 * p.sched.length + 1) (s0, false)).1

/-! ### The link check (R157, R171) -/

/-- Directed links along row `r` from column `a` to column `b`: physical tile × 8 + 0 east, + 1 west. -/
def rowLinks (r a b : Nat) : List Nat :=
  if a ≤ b then (List.range (b - a)).map fun i => 8 * (32 * r + a + i)
  else (List.range (a - b)).map fun i => 8 * (32 * r + a - i) + 1

/-- Directed links along column `c` from row `a` to row `b`: + 2 south, + 3 north. -/
def colLinks (c a b : Nat) : List Nat :=
  if a ≤ b then (List.range (b - a)).map fun i => 8 * (32 * (a + i) + c) + 2
  else (List.range (a - b)).map fun i => 8 * (32 * (a - i) + c) + 3

/-- Row of a memory group's edge. -/
def edgeRow (g : Nat) : Nat := if g < 12 then 0 else 16

/-- Links and edge ports a route crosses over a binding: row first, then column; a memory route by the port of its
tile's column, a link-die route by the west port of its tile's row (DESIGN CHOICE, assumption log 35). Ports: + 4 in, + 5 out at the
north and south edge, + 6 in, + 7 out at the west edge. -/
def routeLinks (phys : Nat → Nat) (r : Route) : List Nat :=
  let s := phys r.src.toNat
  let d := phys r.dst.toNat
  let e := edgeRow r.group.toNat
  match r.kind.toNat with
  | 0 => rowLinks (s / 32) (s % 32) (d % 32) ++ colLinks (d % 32) (s / 32) (d / 32)
  | 1 => (8 * (32 * e + d % 32) + 4) :: colLinks (d % 32) e (d / 32)
  | 2 => colLinks (s % 32) (s / 32) e ++ [8 * (32 * e + s % 32) + 5]
  | 3 => (8 * (32 * (d / 32)) + 6) :: rowLinks (d / 32) 0 (d % 32)
  | _ => rowLinks (s / 32) (s % 32) 0 ++ [8 * (32 * (s / 32)) + 7]

/-- Load of each link: a route's BYTES_PER_SLOT ÷ SLOT_HC on every link it crosses. -/
def addLoads (phys : Nat → Nat) (slotHc : Nat) (m : List (Nat × Rat)) (rs : List Route) : List (Nat × Rat) :=
  rs.foldl (fun m r =>
    (routeLinks phys r).foldl (fun m k => Sparse.insert m k (Sparse.get 0 m k + (r.bytesPerSlot.toNat : Rat) / slotHc)) m) m

/-- The link check over castings given as (SLOT_HC, routes). -/
def linksOk (phys : Nat → Nat) (cs : List (Nat × List Route)) : Bool :=
  (cs.all fun k => k.1 != 0 || k.2.all fun r => r.bytesPerSlot == 0) &&
  (cs.foldl (fun m k => addLoads phys k.1 m k.2) []).all fun e => decide (e.2 ≤ 64)

end Sys2Proof.Machine
end

