-- ==== Sys2Proof/Machine/Loader.lean ====
section
/-! DEFINITION. Machine/Loader.lean: the casting loader on core 0 (R154, R155, R168, R173 to R180): loads, unloads,
re-casts, remaps, and the control of regions and castings. -/

namespace Sys2Proof.Machine

/-! ### Measurements (R474) -/

/-- Entries the measurement log keeps. -/
def measureLimit : Nat := 1048576

/-- One more measurement extends the chain; the log keeps the first 1,048,576. -/
def Chip.measure (c : Chip) (kind : Nat) (digest : Bytes) : Chip :=
  let chain := if c.ident.chain.isEmpty then zeros 64 else c.ident.chain
  let e : Measurement := ⟨BitVec.ofNat 16 kind, c.time.mono, digest⟩
  { c with ident := { c.ident with
    chain := shake256 64 (chain ++ leBytes 2 kind ++ digest)
    entries := if c.ident.count < measureLimit then c.ident.entries ++ [e] else c.ident.entries
    count := c.ident.count + 1 } }

/-! ### Region states (Table 6-10) -/

def Chip.regionState (c : Chip) (h : Nat) : Nat := c.reg (Obj.regionState h)

def Casting.hs (k : Casting) (slot : Nat) : List Nat := k.regions.map fun r => regionIndex slot r.region

/-- CASTING_STATE: 2 while every region runs. -/
def Chip.refreshCasting (c : Chip) (slot : Nat) : Chip :=
  match c.array.casting slot with
  | none => c.setReg (Obj.castingState slot) 0
  | some k => c.setReg (Obj.castingState slot) (if (k.hs slot).all fun h => c.regionState h == 2 then 2 else 1)

def Chip.setRegionState (c : Chip) (h v : Nat) : Chip := (c.setReg (Obj.regionState h) v).refreshCasting (h / 64)

/-- A region as it is kept, changed. -/
def Chip.mapRegion (c : Chip) (h : Nat) (f : Region → Region) : Chip :=
  match c.array.casting (h / 64) with
  | none => c
  | some k =>
    { c with array := c.array.setCasting (h / 64) { k with regions := k.regions.map fun r => if r.region = h % 64 then f r else r } }

/-! ### Control (R173) -/

/-- Completions of stops whose region, or every region of whose casting, has stopped. -/
def Chip.settleStops (c : Chip) (slot : Nat) : Chip :=
  match c.array.casting slot with
  | none => c
  | some k =>
    let c := c.each k.regions fun c r =>
      let h := regionIndex slot r.region
      if c.regionState h = 3 ∨ r.stopOrigins.isEmpty then c
      else (c.completeAll r.stopOrigins (Obj.regionControl h) 0 0).mapRegion h fun r => { r with stopOrigins := [] }
    match c.array.casting slot with
    | none => c
    | some k =>
      if k.stopOrigins.isEmpty || (k.hs slot).any fun h => c.regionState h == 3 then c
      else
        let c := c.completeAll k.stopOrigins (Obj.castingControl slot) 0 0
        match c.array.casting slot with
        | none => c
        | some k => { c with array := c.array.setCasting slot { k with stopOrigins := [] } }

/-- A running region is asked to stop: at the end of the step in progress, at once without one. -/
def Chip.askStop (c : Chip) (h : Nat) : Chip :=
  if c.regionState h = 2 then c.setRegionState h (if c.step.inStep then 3 else 1) else c

/-- A region is set running; a stop that has not taken effect is given up, and its writers are told (DESIGN CHOICE, assumption
log 37). -/
def Chip.setRunning (c : Chip) (h : Nat) : Chip :=
  let st := c.regionState h
  if st = 1 then c.setRegionState h 2
  else if st = 3 then
    let l := (((c.array.casting (h / 64)).bind fun k => k.regions.find? fun r => r.region == h % 64).map
      (·.stopOrigins)).getD []
    let c := (c.setRegionState h 2).mapRegion h fun r => { r with stopOrigins := [] }
    c.each l fun c o => c.completeFailed o (Obj.regionControl h) 0
  else c

/-- A write of 2 that names a region stopped by tile fault is refused with STATE. -/
def regionControlRule (d : ObjDef) : WriteRule where
  cond := fun c _ key b _ => if leNat b = 2 ∧ c.regionState (key / 256 - 0x3100) = 4 then stState else stOk
  eff := fun c o key b =>
    let h := key / 256 - 0x3100
    let c := c.store d key b
    if leNat b = 1 then
      let c := c.askStop h
      (c.mapRegion h fun r => { r with stopOrigins := r.stopOrigins ++ [o] }).settleStops (h / 64)
    else (c.setRunning h).complete o key 0 0

/-- CASTING_CONTROL: 1 stops every region, 2 runs every region. -/
def castingControlRule : WriteRule where
  cond := fun c _ key b _ =>
    match c.array.casting (key / 256 - 0x3010) with
    | none => stState
    | some k => if leNat b = 2 ∧ (k.hs (key / 256 - 0x3010)).any (fun h => c.regionState h == 4) then stState else stOk
  eff := fun c o key b =>
    let slot := key / 256 - 0x3010
    match c.array.casting slot with
    | none => c
    | some k =>
      let hs := k.hs slot
      let c := c.each hs fun c h => c.setReg (Obj.regionControl h) (leNat b)
      if leNat b = 1 then
        let c := c.each hs Chip.askStop
        match c.array.casting slot with
        | none => c
        | some k => ({ c with array := c.array.setCasting slot { k with stopOrigins := k.stopOrigins ++ [o] } }).settleStops slot
      else
        let l := k.stopOrigins
        let c := c.each hs Chip.setRunning
        let c := match c.array.casting slot with
          | none => c
          | some k => { c with array := c.array.setCasting slot { k with stopOrigins := [] } }
        let c := c.each l fun c o => c.completeFailed o key 0
        c.complete o key 0 0

/-- REGION_STOP. -/
def execRegionStop (rq : Fin 17) (h : Fin 256) (s : State) : Host.Outcome State Fault Refusal :=
  s.on fun c => c.writeAs rq (Obj.regionControl h) ObjType.u8.code [1] regionControlRule

/-- REGION_RUN. -/
def execRegionRun (rq : Fin 17) (h : Fin 256) (s : State) : Host.Outcome State Fault Refusal :=
  s.on fun c => c.writeAs rq (Obj.regionControl h) ObjType.u8.code [2] regionControlRule

/-- CASTING_STOP. -/
def execCastingStop (rq : Fin 17) (c : Fin 4) (s : State) : Host.Outcome State Fault Refusal :=
  s.on fun m => m.write rq (Obj.castingControl c) [1] castingControlRule

/-- CASTING_RUN. -/
def execCastingRun (rq : Fin 17) (c : Fin 4) (s : State) : Host.Outcome State Fault Refusal :=
  s.on fun m => m.write rq (Obj.castingControl c) [2] castingControlRule

/-! ### What the loader knows of loaded castings -/

/-- Logical tiles of every loaded casting. -/
def Chip.loadedTiles (c : Chip) : List Nat := (c.array.castings.map fun e => (e.2.regions.map (·.tiles)).flatten).flatten

def Chip.loadedRegion (c : Chip) (h : Nat) : Option Region := c.array.regionOf h

/-- The image a region's tiles were last written from: its region image, or the casting's. -/
def Region.source (r : Region) (k : Casting) : Bytes := r.retained.getD k.image

/-- Tile blocks of a region in its source. -/
def Region.blocks (r : Region) (k : Casting) : List TileBlock :=
  (imgBlocks (r.source k)).filter fun t => t.region == r.region

/-- What the play sees of a region, from an image. -/
def playTiles (b : Bytes) (region : Nat) : List PlayTile :=
  let es := (imgSchedList b).filter fun e => e.region.toNat == region
  ((imgBlocks b).filter fun t => t.region == region).map fun t =>
    ⟨t.logical, t.region, t.queues, es.map fun e => (entryOps b t e).map fun o => (o, t.wordOff o.word)⟩

def insertPlayTile (t : PlayTile) : List PlayTile → List PlayTile
  | [] => [t]
  | u :: r => if t.logical < u.logical then t :: u :: r else u :: insertPlayTile t r

def sortPlayTiles (l : List PlayTile) : List PlayTile := l.foldl (fun m t => insertPlayTile t m) []

def insertSched (e : SchedEntry) : List SchedEntry → List SchedEntry
  | [] => [e]
  | x :: r => if schedBefore e x then e :: x :: r else x :: insertSched e r

/-- What a load is checked against; `own` is the region h that a region image replaces. -/
def Chip.loadCtx (c : Chip) (slot : Nat) (own : Option Nat) : LoadCtx where
  keys := c.emmc.config.castingKeys
  slotFree := (c.array.casting slot).isNone
  recast := own.isSome
  usedTiles := match own.bind c.loadedRegion with
    | some r => c.loadedTiles.filter fun l => !r.tiles.contains l
    | none => c.loadedTiles
  failedTiles := (List.range 512).filter fun l => c.array.useOf (c.array.physical l) == .failed
  spares := c.array.spares.length
  freeBytes := c.freeCapacity + match own with
    | some h => ((c.array.casting (h / 64)).map (·.lpddr6Bytes)).getD 0
    | none => 0
  usedChannels := ((c.array.castings.filter fun e => own.isNone || e.1 != slot).map fun e =>
    e.2.dma.map (·.channel)).flatten

/-! ### Spares (R178) -/

def natDist (a b : Nat) : Nat := (a - b) + (b - a)

def hops (p q : Nat) : Nat := natDist (p / 32) (q / 32) + natDist (p % 32) (q % 32)

/-- Cost of physical tile `p` for logical tile `l`. -/
def spareCost (phys : Nat → Nat) (rs : List Route) (l p : Nat) : Nat :=
  let at_ := fun (x : Nat) => if x = l then p else phys x
  rs.foldl (fun n r =>
    let src := r.srcTile && r.src.toNat == l
    let dst := r.dstTile && r.dst.toNat == l
    if !src && !dst then n
    else
      let d := match r.kind.toNat with
        | 0 => hops p (at_ (if src then r.dst.toNat else r.src.toNat))
        | 1 => natDist (p / 32) (edgeRow r.group.toNat)
        | 2 => natDist (p / 32) (edgeRow r.group.toNat)
        | _ => p % 32
      n + r.bytesPerSlot.toNat * d) 0

/-- The free spare with the least cost, the lowest number among equals. -/
def TileArray.bestSpare (a : TileArray) (rs : List Route) (l : Nat) : Option Nat :=
  a.spares.foldl (fun m p =>
    match m with
    | none => some p
    | some q => if spareCost a.physical rs l p < spareCost a.physical rs l q then some p else m) none

/-- Logical tile `l` is bound to physical tile `p`. -/
def TileArray.bind (a : TileArray) (l p : Nat) : TileArray :=
  let a := { a with binding := if p = l then Sparse.erase a.binding l else Sparse.insert a.binding l p }
  a.setUse p .bound

/-- Every logical tile of the list whose physical tile is failed gets a spare. -/
def TileArray.rebind (a : TileArray) (rs : List Route) (ls : List Nat) : TileArray :=
  ls.foldl (fun a l =>
    if a.useOf (a.physical l) == .failed then
      match a.bestSpare rs l with
      | some p => a.bind l p
      | none => a
    else a) a

/-! ### Writing tiles -/

def TileQueue.fresh (q : QueueDecl) (route : Nat) : TileQueue :=
  ⟨BitVec.ofNat 8 q.queue, q.depth, BitVec.ofNat 16 route, q.base, q.slotBytes, List.replicate q.depth .free, 0, 0, 0⟩

/-- A tile as a tile block describes it, every register 0 (R131, R163). -/
def tileOfBlock (b : Bytes) (t : TileBlock) (h : Nat) (rs : List Route) : Tile :=
  { Tile.blank with
    region := some h
    mem := t.segs.foldl (fun m s => Memory.writeBytes m s.addr (slice b s.off s.len)) []
    progStart := t.progStart, progWords := t.words
    kindMap := (List.range t.words).map t.mark
    descs := t.descOffs.map (descAt b)
    queues := t.queues.map fun q =>
      TileQueue.fresh q (((rs.find? fun r => r.endsAt t.logical q.queue).map (·.route.toNat)).getD q.route) }

/-- Scale index of a tensor (R215). -/
def TensorDesc.scaleIndex (d : TensorDesc) : Option Nat :=
  let layer := bits d.tensorId.toNat 47 32
  if 4095 < layer then none
  else if d.format = 0xD then some (2 * layer)
  else if d.format = 3 then some (2 * layer + 1)
  else none

/-- Descriptors of every tile that belongs to a region. -/
def Chip.liveDescs (c : Chip) : List TensorDesc :=
  (c.array.tiles.map fun e => if e.2.region.isSome then e.2.descs else []).flatten

def insertNat (n : Nat) : List Nat → List Nat
  | [] => [n]
  | x :: r => if n < x then n :: x :: r else if n = x then x :: r else x :: insertNat n r

/-- The scale indices held, in order. -/
def Chip.refreshHeld (c : Chip) : Chip :=
  { c with step := { c.step with held := (c.liveDescs.filterMap TensorDesc.scaleIndex).foldl (fun m i => insertNat i m) [] } }

/-- k of an index that comes to be held: the largest SCALE_K among its descriptors; grow starts at 0 (R215, R226). An
index held before keeps its k and grow. -/
def Chip.takeScales (c : Chip) : Chip :=
  let was := c.step.held
  let ds := c.liveDescs
  let c := c.refreshHeld
  c.each (c.step.held.filter fun i => !was.contains i) fun c i =>
    let k := (ds.filter fun d => d.scaleIndex == some i).foldl (fun (m : Option (BitVec 8)) d =>
      match m with
      | none => some d.scaleK
      | some x => some (if x.slt d.scaleK then d.scaleK else x)) none
    { c with step := { c.step with
      scaleK := Sparse.put 0#8 c.step.scaleK i (k.getD 0), grow := Sparse.put 0 c.step.grow i 0 } }

/-- The patina is emptied (R227). -/
def Chip.emptyPatina (c : Chip) : Chip :=
  ({ c with step := { c.step with patina := [] } }).setReg Obj.patinaCommitted 0

/-- Tiles of a region written from their blocks over the present binding. -/
def Chip.writeTiles (c : Chip) (h : Nat) (b : Bytes) (rs : List Route) : Chip :=
  c.each ((imgBlocks b).filter fun t => t.region == h % 64) fun c t =>
    c.setTile (c.array.physical t.logical) (tileOfBlock b t h rs)

/-- REGION_BINDING: physical tile of each logical tile, in logical order. -/
def Chip.refreshBinding (c : Chip) (h : Nat) : Chip :=
  match c.loadedRegion h with
  | none => c
  | some r => c.setBlob (Obj.regionBinding h) ((r.tiles.map fun l => leBytes 2 (c.array.physical l)).flatten)

/-- Writes the loader could not verify retire their tiles (R177); their regions stand stopped by tile fault until a
spare serves. -/
def Chip.retireUnverified (c : Chip) (l : List (Fin 544)) : Chip :=
  c.each (l.map (·.val)) fun c p =>
    match (c.tile p).region with
    | none => c
    | some h =>
      let st := c.regionState h
      let c := if st = 4 then c else
        ({ c with array := { c.array with before := Sparse.put 0 c.array.before h st } }).setRegionState h 4
      c.retireTile p

/-! ### Loads (R168) -/

/-- Routes and SLOT_HC of every loaded casting but one. -/
def Chip.otherLinks (c : Chip) (slot : Nat) : List (Nat × List Route) :=
  (c.array.castings.filter fun e => e.1 != slot).map fun e => (e.2.slotHc, e.2.routes)

/-- Offset of the SLOT_HC field, which a refused link check names (DESIGN CHOICE, assumption log 38). -/
def slotHcOff : Nat := 0x2C

def imgPlay (b : Bytes) : PlayIn :=
  ⟨sortPlayTiles ((imgRegions b).map fun o => playTiles b (u8At b o)).flatten, imgRouteList b, imgSchedList b, imgStepSlots b⟩

/-- Every check of Table 6-9 on a casting image, in order; the tile array with the spares it needs. -/
def Chip.checkLoad (c : Chip) (slot : Nat) (b : Bytes) : (Nat × Nat) ⊕ TileArray :=
  match (checkImage b (c.loadCtx slot none)).orElse fun _ => checkPrograms b with
  | some r => .inl r
  | none =>
    let a := c.array.rebind (imgRouteList b) ((imgBlocks b).map (·.logical))
    if !linksOk a.physical (c.otherLinks slot ++ [(imgSlotHc b, imgRouteList b)]) then .inl (0x18, slotHcOff)
    else
      match (imgPlay b).play fun n => imgRouteOff b + 32 * n with
      | some r => .inl r
      | none => .inr a

def regionOfEntry (b : Bytes) (o : Nat) : Region :=
  ⟨u8At b o, BitVec.ofNat 8 (u8At b (o + 1)), BitVec.ofNat 16 (u16At b (o + 2)),
    ((imgBlocks b).filter fun t => t.region == u8At b o).map (·.logical), slice b (o + 0x10) 16, none, []⟩

def castingOfImage (b : Bytes) : Casting where
  id := BitVec.ofNat 64 (imgId b)
  image := b
  digest := imgDigest b
  stepSlots := imgStepSlots b
  slotHc := imgSlotHc b
  tileMask := imgMask b
  regions := (imgRegions b).map (regionOfEntry b)
  routes := imgRouteList b
  sched := imgSchedList b
  dma := (imgDma b).1.map fun e => ⟨e.channel, e.start, BitVec.ofNat 16 e.route, e.descs⟩
  lpddr6Bytes := imgLpddr6 b
  stopOrigins := []

def DmaChannel.blank : DmaChannel := ⟨[], 0, 0, false, false, [], [], 0, 0, false, none⟩

/-- A casting's DMA channel takes its descriptors (R164, R415). -/
def Chip.bindChannel (c : Chip) (slot : Nat) (e : DmaEntry) : Chip :=
  let ds := e.descs ++ List.replicate (64 - e.descs.length) (zeros 64)
  let x := { DmaChannel.blank with descs := ds, route := some (slot, e.route) }
  let c := { c with dma := Sparse.put DmaChannel.blank c.dma e.channel x }
  ((c.setReg (Obj.dmaOwner e.channel) (slot + 1)).setReg (Obj.dmaStartDesc e.channel) e.start).setReg (Obj.dmaState e.channel) 0

/-- Objects of a region that has just been loaded or re-cast. -/
def Chip.regionObjects (c : Chip) (h : Nat) (r : Region) : Chip :=
  let c := ((c.setReg (Obj.regionArith h) r.arith.toNat).setReg (Obj.regionSticky h) 0).setRegionState h 1
  ({ c with array := { c.array with before := Sparse.erase c.array.before h } }).refreshBinding h

/-- Phases 2 and 3 of a load. `fresh` is false where a keeping start loads a retained image: sticky words, scales and
patina then stand as Table 19-5 has them. -/
def Chip.installCasting (c : Chip) (slot : Nat) (b : Bytes) (a : TileArray) (fresh : Bool) : Chip :=
  let k := castingOfImage b
  let words := k.regions.map fun r => c.reg (Obj.regionSticky (regionIndex slot r.region))
  let c := { c with array := a.setCasting slot k, gov := { c.gov with started := true } }
  let c := c.each k.regions fun c r => c.writeTiles (regionIndex slot r.region) b k.routes
  let c := c.each k.dma fun c e => c.bindChannel slot e
  let c := (c.placeFootprint slot k.lpddr6Bytes).refreshMem
  let c := (c.setReg (Obj.castingId slot) k.id.toNat).setBlob (Obj.castingTiles slot) k.tileMask
  let c := c.each k.regions fun c r =>
    let h := regionIndex slot r.region
    ((((c.setReg (Obj.regionControl h) 1).setReg (Obj.stallInNs h) 0).setReg (Obj.stallOutNs h) 0).setReg (Obj.busyNs h) 0).setReg
      (Obj.recastCount h) 0 |>.regionObjects h r
  let c := (c.refreshCasting slot).measure 6 k.digest
  if fresh then c.takeScales.emptyPatina
  else (c.each (k.regions.zip words) fun c x => c.setReg (Obj.regionSticky (regionIndex slot x.1.region)) x.2).refreshHeld

/-- A load or re-cast is refused (R168): reason and offset reported, CAST_REFUSED with its entry. -/
def Chip.refuseImage (c : Chip) (o : Option Origin) (key region code off : Nat) : Chip :=
  let c := (c.setReg Obj.castLastReason code).setReg Obj.castLastOffset off
  (c.occurCode 2 1 .cast code region off 0).completeOpt o key code off

/-- A load or re-cast is done. -/
def Chip.imageDone (c : Chip) (o : Option Origin) (key : Nat) : Chip :=
  ((c.setReg Obj.castLastReason 0).setReg Obj.castLastOffset 0).completeOpt o key 0 0

/-- One load, checked and carried out or refused. -/
def Chip.loadCasting (c : Chip) (slot : Nat) (b : Bytes) (o : Option Origin) (fresh : Bool) (unverified : List (Fin 544)) :
    Chip :=
  match c.checkLoad slot b with
  | .inl (code, off) => c.refuseImage o Obj.castingLoad noRegion code off
  | .inr a => ((c.installCasting slot b a fresh).retireUnverified unverified).imageDone o Obj.castingLoad

/-! ### Unloads (R176) -/

/-- A casting in a slot may be unloaded: none of its regions runs or is stopping. -/
def Chip.mayUnload (c : Chip) (slot : Nat) : Bool :=
  match c.array.casting slot with
  | none => false
  | some k => (k.hs slot).all fun h => c.regionState h != 2 && c.regionState h != 3

/-- Objects of a casting slot and its regions. -/
def slotKey (slot key : Nat) : Bool :=
  let ix := key / 256
  ix == 0x3010 + slot || (decide (0x3100 + 64 * slot ≤ ix) && decide (ix < 0x3140 + 64 * slot)) ||
  (decide (0x8100 + 64 * slot ≤ ix) && decide (ix < 0x8140 + 64 * slot))

/-- The casting leaves its slot: tiles, channels, footprint, objects and site map (R164, R187, R292). -/
def Chip.dropCasting (c : Chip) (slot : Nat) : Chip :=
  let chans := ((c.array.casting slot).map fun k => k.dma.map (·.channel)).getD []
  let c := { c with
    array := { c.array with
      tiles := c.array.tiles.filter fun e => (e.2.region.map (· / 64)) != some slot
      castings := Sparse.erase c.array.castings slot
      before := c.array.before.filter fun e => e.1 / 64 != slot
      meshOut := c.array.meshOut.filter fun e => e.1 / 4096 != slot }
    dma := c.dma.filter fun e => !chans.contains e.1
    map := { c.map with maps := Sparse.erase c.map.maps slot } }
  let c := c.dropRegs fun k => slotKey slot k || chans.any fun ch => k / 256 == 0x7100 + ch
  (((c.dropBlobs (slotKey slot)).dropFootprint slot).refreshMem).refreshHeld

def Chip.unloadCasting (c : Chip) (slot : Nat) (o : Origin) : Chip :=
  if c.mayUnload slot then (c.dropCasting slot).complete o Obj.castingUnload 0 0
  else c.completeFailed o Obj.castingUnload 0

/-! ### Re-casts (R174, R175) -/

/-- Ends of a route that lie in a region. -/
def Route.endsIn (r : Route) (tiles : List Nat) : Nat :=
  (if r.srcTile && tiles.contains r.src.toNat then 1 else 0) + if r.dstTile && tiles.contains r.dst.toNat then 1 else 0

/-- Two boundary routes alike in every field but the number, which in each image is the ordinal (DEDUCED, assumption log 39). -/
def Route.sameBut (a b : Route) : Bool := { a with route := 0 } == { b with route := 0 }

/-- The queue declaration at a boundary route's end in the region. -/
def boundaryDecl (bs : List TileBlock) (tiles : List Nat) (r : Route) : Option QueueDecl :=
  if r.srcTile && tiles.contains r.src.toNat then declOf bs r.src.toNat r.srcQueue.toNat
  else declOf bs r.dst.toNat r.dstQueue.toNat

def QueueDecl.same (a b : QueueDecl) : Bool := a.depth == b.depth && a.base == b.base && a.slotBytes == b.slotBytes

/-- R175, as the offset of the field that breaks it. -/
def badRecast (k : Casting) (r : Region) (b : Bytes) : Option Nat :=
  let o := imgRegionOff b
  let bs := imgBlocks b
  let old := r.blocks k
  let mine := (imgRoutes b).map fun p => (p, routeAt b p)
  let bound := k.routes.filter fun x => x.endsIn r.tiles == 1
  let es := k.sched.filter fun e => e.region.toNat == r.region
  let new := imgSchedList b
  (firstBad [(!imgIsRegion b, 0x1C), (imgRegionCount b != 1, 0x20), (imgId b != k.id.toNat, 0x10), (u8At b o != r.region, o),
    (bs.map (·.logical) != r.tiles, o + 4)]).orElse fun _ =>
  (mine.findSome? fun x =>
    let n := x.2.endsIn r.tiles
    if n = 0 then some x.1
    else if n = 2 then none
    else
      match bound.find? fun y => y.sameBut x.2 with
      | none => some x.1
      | some y =>
        match boundaryDecl bs r.tiles x.2, boundaryDecl old r.tiles y with
        | some d, some e => if d.same e then none else some d.place
        | _, _ => some x.1).orElse fun _ =>
  (firstBad [(bound.any fun y => !(mine.any fun x => y.sameBut x.2), 0x22), (new.length != es.length, 0x24)]).orElse fun _ =>
  ((imgScheds b).zip (new.zip es)).findSome? fun x =>
    let (e, f) := x.2
    if e.slot == f.slot && e.region == f.region && e.kind == f.kind && e.microbatch == f.microbatch && e.layer == f.layer
    then none else some x.1

/-- Route numbers not in use, lowest first. -/
def freeRoutes (l : List Route) : List Nat :=
  (List.range 65536).filter fun n => !(l.any fun r => r.route.toNat == n)

/-- Routes of the casting with the region replaced: boundary routes as loaded, inner ones those of the region image under
free numbers, each with its offset in the region image. -/
def mergedRoutes (k : Casting) (r : Region) (b : Bytes) : List Route × List (Nat × Nat) :=
  let kept := k.routes.filter fun x => x.endsIn r.tiles != 2
  let inner := ((imgRoutes b).map fun p => (p, routeAt b p)).filter fun x => x.2.endsIn r.tiles == 2
  let ns := (freeRoutes kept).take inner.length
  let new := (inner.zip ns).map fun x => ({ x.1.2 with route := BitVec.ofNat 16 x.2 }, x.1.1)
  (kept ++ new.map (·.1), new.map fun x => (x.1.route.toNat, x.2))

def mergedSched (k : Casting) (r : Region) (b : Bytes) : List SchedEntry :=
  (imgSchedList b).foldl (fun m e => insertSched e m) (k.sched.filter fun e => e.region.toNat != r.region)

/-- The casting with the region replaced by what a region image gives. -/
def mergedCasting (k : Casting) (r : Region) (b : Bytes) : Casting :=
  let new := regionOfEntry b (imgRegionOff b)
  { k with
    routes := (mergedRoutes k r b).1, sched := mergedSched k r b
    regions := k.regions.map fun x =>
      if x.region = r.region then { new with retained := some b, stopOrigins := x.stopOrigins } else x }

/-- The play over a loaded casting, each region from its source. -/
def Casting.play (k : Casting) : PlayIn :=
  ⟨sortPlayTiles (k.regions.map fun r => playTiles (r.source k) r.region).flatten, k.routes, k.sched, k.stepSlots⟩

/-- The checks of a re-cast: Table 6-9 on the region image, R175, then the link check and the play over the whole. -/
def Chip.checkRecast (c : Chip) (h : Nat) (k : Casting) (r : Region) (b : Bytes) : (Nat × Nat) ⊕ (TileArray × Casting) :=
  match ((checkImage b (c.loadCtx (h / 64) (some h))).orElse fun _ => checkPrograms b).orElse fun _ =>
      (badRecast k r b).map fun o => (0x1B, o) with
  | some x => .inl x
  | none =>
    let m := mergedCasting k r b
    let offs := (mergedRoutes k r b).2
    let a := c.array.rebind m.routes r.tiles
    if !linksOk a.physical (c.otherLinks (h / 64) ++ [(m.slotHc, m.routes)]) then .inl (0x18, slotHcOff)
    else
      match m.play.play fun n => ((offs.find? fun x => x.1 == n).map (·.2)).getD (imgRouteOff k.image + 32 * n) with
      | some x => .inl x
      | none => .inr (a, m)

/-- One re-cast. -/
def Chip.recastRegion (c : Chip) (h : Nat) (b : Bytes) (o : Option Origin) (keepWord : Bool) (unverified : List (Fin 544)) : Chip :=
  let key := Obj.regionImage h
  match c.array.casting (h / 64), c.loadedRegion h with
  | some k, some r =>
    if c.regionState h = 2 ∨ c.regionState h = 3 then
      match o with
      | some o => c.completeFailed o key 0
      | none => c
    else
      match c.checkRecast h k r b with
      | .inl (code, off) => c.refuseImage o key h code off
      | .inr (a, m) =>
        let word := c.reg (Obj.regionSticky h)
        let c := { c with array := a.setCasting (h / 64) m }
        let c := c.writeTiles h b m.routes
        let c := (c.count (Obj.recastCount h) 1 32).setBlob key b
        let c := (c.regionObjects h (regionOfEntry b (imgRegionOff b))).takeScales
        let c := if keepWord then c.setReg (Obj.regionSticky h) word else c
        (c.retireUnverified unverified).imageDone o key
  | _, _ =>
    match o with
    | some o => c.completeFailed o key 0
    | none => c

/-! ### Remaps (R178, R179) -/

/-- Every tile of the region has a physical tile in service. -/
def Chip.regionWhole (c : Chip) (r : Region) : Bool := r.tiles.all fun l => c.array.useOf (c.array.physical l) != .failed

/-- The region as its source gives it, over the present binding, with its scale factors; the region word stays. -/
def Chip.rewriteRegion (c : Chip) (h : Nat) (k : Casting) (r : Region) : Chip :=
  (c.writeTiles h (r.source k) k.routes).refreshBinding h

/-- A logical tile's failed physical tile is replaced. -/
def Chip.remapTile (c : Chip) (l : Nat) : Chip :=
  let old := c.array.physical l
  match (c.array.castings.findSome? fun e => (e.2.regions.find? fun r => r.tiles.contains l).map fun r => (e.1, e.2, r)) with
  | none => c
  | some (slot, k, r) =>
    let h := regionIndex slot r.region
    if c.array.useOf old != .failed then c
    else
      match c.array.bestSpare k.routes l with
      | none => c.occur 2 4 .cast h (tileAddress old 0) l
      | some p =>
        let c := { c with array := { c.array.bind l p with tiles := Sparse.erase c.array.tiles old } }
        let c := (c.rewriteRegion h k r).count (Obj.recastCount h) 1 32
        let c := c.occur 2 2 .cast h (tileAddress old 0) (tileAddress p 0)
        let c := if linksOk c.array.physical (c.array.castings.map fun e => (e.2.slotHc, e.2.routes)) then c
          else c.occur 2 3 .cast h (tileAddress p 0) 0
        if c.regionState h == 4 && c.regionWhole r then
          let st : Nat := Sparse.get 1 c.array.before h
          let st : Nat := if st == 3 && !c.step.inStep then 1 else st
          (({ c with array := { c.array with before := Sparse.erase c.array.before h } }).setRegionState h st).settleStops slot
        else c

/-! ### The loader's queue (R176) -/

/-- A tile test begins (R490, R495): a free spare is no longer free; any other tile fails the argument check. -/
def Chip.beginTest (c : Chip) (p : Nat) : Chip :=
  match c.array.useOf p with
  | .spare => { c with array := c.array.setUse p .underTest }
  | .underTest => c
  | _ => { c with svc := { c.svc with reason := 2 } }

/-- Unloads at the front of the queue take effect at once, and a tile test begins; `n` bounds them. -/
def Chip.serveUnloads (c : Chip) : Nat → Chip
  | 0 => c
  | n + 1 =>
    match c.array.loader with
    | .unload slot o :: r => ({ c with array := { c.array with loader := r } }.unloadCasting slot o).serveUnloads n
    | .tileTest p :: _ => c.beginTest p
    | _ => c

/-- The operation at the front is over. -/
def Chip.loaderNext (c : Chip) : Chip :=
  let c := { c with array := { c.array with loader := c.array.loader.drop 1 } }
  c.serveUnloads c.array.loader.length

def Chip.enqueueLoader (c : Chip) (op : LoaderOp) : Chip :=
  let c := { c with array := { c.array with loader := c.array.loader ++ [op] } }
  c.serveUnloads c.array.loader.length

/-- CASTING_LOAD takes the image staged at the write. -/
def castingLoadRule : WriteRule where
  cond := noCond
  eff := fun c o _ b => c.enqueueLoader (.load (leNat b) (c.blob Obj.castingStage) o)

/-- CASTING_LOAD. -/
def execCastingLoad (rq : Fin 17) (slot : BitVec 8) (s : State) : Host.Outcome State Fault Refusal :=
  s.on fun c => c.write rq Obj.castingLoad [slot] castingLoadRule

/-- The load at the front of the loader's queue ends. -/
def Chip.loadComplete (c : Chip) (unverified : List (Fin 544)) : Chip :=
  match c.array.loader with
  | .load slot b o :: _ => (c.loadCasting slot b (some o) true unverified).loaderNext
  | _ => c

/-- CASTING_LOAD_COMPLETE. -/
def execCastingLoadComplete (unverified : List (Fin 544)) (s : State) : Host.Outcome State Fault Refusal :=
  s.on fun c => c.loadComplete unverified

/-- CASTING_UNLOAD is refused while a region runs or is stopping, and for an empty slot. -/
def castingUnloadRule : WriteRule where
  cond := fun c _ _ b _ => if c.mayUnload (leNat b) then stOk else stState
  eff := fun c o _ b => c.enqueueLoader (.unload (leNat b) o)

/-- CASTING_UNLOAD. -/
def execCastingUnload (rq : Fin 17) (slot : BitVec 8) (s : State) : Host.Outcome State Fault Refusal :=
  s.on fun c => c.write rq Obj.castingUnload [slot] castingUnloadRule

/-- A region image written to a stopped region starts a re-cast. -/
def regionImageRule : WriteRule where
  cond := noCond
  eff := fun c o key b => c.enqueueLoader (.recast (key / 256 - 0x3100) b o)

/-- REGION_RECAST. -/
def execRegionRecast (rq : Fin 17) (h : Fin 256) (image : Bytes) (s : State) : Host.Outcome State Fault Refusal :=
  s.on fun c => c.write rq (Obj.regionImage h) image regionImageRule

def Chip.recastComplete (c : Chip) (unverified : List (Fin 544)) : Chip :=
  match c.array.loader with
  | .recast h b o :: _ => (c.recastRegion h b (some o) false unverified).loaderNext
  | _ => c

/-- RECAST_COMPLETE. -/
def execRecastComplete (unverified : List (Fin 544)) (s : State) : Host.Outcome State Fault Refusal :=
  s.on fun c => c.recastComplete unverified

def Chip.remapNext (c : Chip) : Chip :=
  match c.array.loader with
  | .remap l :: _ => (c.remapTile l).loaderNext
  | _ => c

/-- REMAP. -/
def execRemap (s : State) : Host.Outcome State Fault Refusal :=
  s.on fun c => c.remapNext

/-- TILES_RETIRED_CLEAR: true empties the record at the next start (R180). -/
def tilesRetiredClearRule : WriteRule where
  cond := noCond
  eff := fun c _ _ b => if leNat b = 1 then { c with emmc := { c.emmc with clearTiles := true } } else c

/-- TILES_RETIRED_CLEAR. -/
def execTilesRetiredClear (rq : Fin 17) (v : Byte) (s : State) : Host.Outcome State Fault Refusal :=
  s.on fun c => c.write rq Obj.tilesRetiredClear [v] tilesRetiredClearRule

end Sys2Proof.Machine
end

