-- ==== Sys2Proof/Machine/Coll.lean ====
section
/-! DEFINITION. Machine/Coll.lean: the collectives of the reduction unit (R319 to R325): issue, operands by chunk credit,
the arithmetic of sums, results, completion; and the gradient reduction of a layer (R213, R214). -/

namespace Sys2Proof.Machine

/-! ### The arithmetic of sums (R321) -/

/-- An element of an operand as binary32: e × 2^k of a scaled format, ±∞ beyond the range. -/
def operandValue (f : TFmt) (k : Int) (code : Nat) : Nat :=
  (Fmt.f32.deliverNum .rne ((f.elem.decode code).scale (if f.scaled then k else 0))).1

/-- The elements of a run of images in the operands' format, uncompressed. -/
def imageValues (fmt : Nat) (k : Int) (images : List Bytes) : List Nat :=
  match TFmt.ofCode fmt with
  | none => []
  | some f => (images.map fun im => (planeElems f im 0).map (operandValue f k)).flatten

/-- A chunk as its images; none where one breaks R198, so that its decoding never completes. -/
def chunkImages (fmt rate : Nat) (b : Bytes) : Option (List Bytes) :=
  (chunks (compressedBytes fmt rate) b).foldr (fun im acc =>
    match acc, (if rate = 0 then some im else decodeImage fmt rate im) with
    | some l, some x => some (x :: l)
    | _, _ => none) (some [])

/-- One more operand added to the accumulators; the first one is taken as it is. -/
def addOperand (acc vals : List Nat) : List Nat :=
  if acc.isEmpty then vals else acc.zipWith (fun a b => (Fmt.f32.add .rne a b).1) vals

/-- An accumulator converted to the collective's format under RNE and PROPAGATE: code, and whether a finite sum
overflowed. -/
def sumResult (f : TFmt) (k : Int) (a : Nat) : Nat × Bool :=
  let x := (Fmt.f32.decode a).scale (if f.scaled then - k else 0)
  let (code, fl, _) := f.elem.narrow true false .rne x
  (code, x.isFinite && fl &&& fCvtOverflow != 0)

/-! ### A collective's place -/

def chunkSize : Nat := 64

/-- Bytes of a chunk as sent between modules. -/
def Collective.chunkBytes (x : Collective) : Nat := chunkSize * compressedBytes x.fmt.toNat x.rate

def Collective.kSigned (x : Collective) : Int := signed 8 x.k.toNat

/-- Own operand of chunk `n`, as values. -/
def Collective.ownValues (x : Collective) (n : Nat) : List Nat :=
  let size := imageBytes x.fmt.toNat
  imageValues x.fmt.toNat x.kSigned (chunks size (slice x.own (n * chunkSize * size) (chunkSize * size)))

/-- Bytes a member's operand of chunk `n` has: the last chunk may hold fewer images. -/
def Collective.chunkLen (x : Collective) (n : Nat) : Nat :=
  let images := x.own.length / imageBytes x.fmt.toNat
  (Nat.min chunkSize (images - n * chunkSize)) * compressedBytes x.fmt.toNat x.rate

/-- A chunk begins with this module's own operand. -/
def Collective.beginChunk (x : Collective) (me : Nat) : Collective :=
  if x.chunk < x.chunkCount then { x with acc := x.ownValues x.chunk, added := [BitVec.ofNat 16 me] } else { x with acc := [], added := [] }

/-- A member's operand of the present chunk is added, once all of it is here. -/
def Collective.addMember (x : Collective) (m : BitVec 16) : Collective :=
  let b := Sparse.get [] x.inbuf m.toNat
  let n := x.chunkLen x.chunk
  if x.chunkCount ≤ x.chunk ∨ x.added.contains m ∨ b.length < n then x
  else
    match chunkImages x.fmt.toNat x.rate (b.take n) with
    | none => x
    | some l => { x with
        acc := addOperand x.acc (imageValues x.fmt.toNat x.kSigned l), added := x.added ++ [m]
        inbuf := Sparse.put [] x.inbuf m.toNat (b.drop n)
        compressed := if x.rate != 0 && x.chunk + 1 == x.chunkCount then x.compressed + 1 else x.compressed }

/-- Every member's operand of the chunk is added: its sums are formed and the next chunk begins. -/
def Collective.endChunk (x : Collective) (me : Nat) : Collective :=
  match TFmt.ofCode x.fmt.toNat with
  | none => x
  | some f =>
    let rs : List (Nat × Bool) := x.acc.map (sumResult f x.kSigned)
    let base := x.sums.length * 8 / f.elem.width
    let im := (((List.range (rs.length / 1024)).map fun i =>
      leBytes (128 * f.elem.width) (packElems f.elem.width (((rs.drop (1024 * i)).take 1024).map (·.1)))).flatten)
    { x with
      sums := x.sums ++ im
      spilled := x.spilled ++ (((List.range rs.length).filter fun i => (rs.getD i ((0 : Nat), false)).2).map (· + base))
      nonfinite := x.nonfinite + (rs.filter fun (r : Nat × Bool) => !(f.elem.decode r.1).isFinite).length
      chunk := x.chunk + 1 } |>.beginChunk me

/-- Chunks end one after another while every member's operand is here; `n` bounds them. -/
def Collective.advance (x : Collective) (me : Nat) : Nat → Collective
  | 0 => x
  | n + 1 =>
    let x := x.members.foldl Collective.addMember x
    if x.chunk < x.chunkCount ∧ x.members.all fun m => x.added.contains m then (x.endChunk me).advance me n else x

/-- Every chunk of the owned part is summed. -/
def Collective.summed (x : Collective) : Bool := decide (x.chunkCount ≤ x.chunk)

/-- Every other member's result is whole. -/
def Collective.resultsHeld (x : Collective) (me : Nat) : Bool :=
  x.members.all fun m => m.toNat == me || decide (Sparse.get 0 x.resultSizes m.toNat ≤ (Sparse.get [] x.result m.toNat).length)

/-! ### The collectives held -/

def Chip.collective (c : Chip) (number step : Nat) : Option Collective :=
  c.bz.collectives.find? fun x => x.number.toNat == number && x.step.toNat == step

def Chip.dropCollective (c : Chip) (number step : Nat) : Chip :=
  let l := c.bz.collectives.filter fun x => !(x.number.toNat == number && x.step.toNat == step)
  { c with bz := { c.bz with collectives := l } }

def Chip.setCollective (c : Chip) (x : Collective) : Chip :=
  let d := c.dropCollective x.number.toNat x.step.toNat
  { d with bz := { d.bz with collectives := d.bz.collectives ++ [x] } }

/-- An entry that holds what came before this module issued the collective. -/
def Collective.early (number step : Nat) : Collective where
  number := BitVec.ofNat 32 number
  step := BitVec.ofNat 32 step
  issued := false
  done := false
  deadline := 0
  members := []
  fmt := 0
  k := 0
  rate := 0
  tensor := none
  tensorId := 0
  route := 0
  operands := []
  sent := []
  own := []
  chunkCount := 0
  rowFirst := 0
  rowCount := 0
  chunk := 0
  acc := []
  added := []
  inbuf := []
  sums := []
  spilled := []
  nonfinite := 0
  compressed := 0
  result := []
  resultSizes := []

/-- Kind of a collective number (R319). -/
def collKind (number : Nat) : Nat := number / 2 ^ 28

def collNumber (kind slot field inst : Nat) : Nat := kind * 2 ^ 28 + slot * 2 ^ 26 + field * 2 ^ 12 + inst

/-- Instance of the next collective of this kind, slot and route or layer in the step. -/
def Chip.nextInstance (c : Chip) (kind slot field : Nat) : Nat × Chip :=
  let key := collNumber kind slot field 0
  let n := Sparse.get 0 c.bz.instances key
  (n % 4096, { c with bz := { c.bz with instances := Sparse.put 0 c.bz.instances key (n + 1) } })

/-- The collective's instance has been issued in the step in progress. -/
def Chip.instanceGone (c : Chip) (number step : Nat) : Bool :=
  decide (step < c.reg Obj.stepNumber) ||
  (step == c.reg Obj.stepNumber && decide (number % 4096 < Sparse.get 0 c.bz.instances (number / 4096 * 4096)))

/-- ns from the issue to the deadline (R325) of something that moves `m` bytes. -/
def Chip.bzLimit (c : Chip) (m : Nat) : Nat :=
  c.reg Obj.bzDeadlineBase * 1000 + (((m : Nat) : Rat) / ratMaxOne (ratOf .f32 (c.reg Obj.bzDeadlineRate))).floor.toNat
where
  ratMaxOne (r : Rat) : Rat := if r ≤ 0 then 1 else r

/-! ### Sending -/

/-- Operand bytes for members that have granted chunk credits leave, a chunk for a credit. -/
def Chip.pumpMember (c : Chip) (number step : Nat) (m : BitVec 16) : Nat → Chip
  | 0 => c
  | n + 1 =>
    match c.collective number step with
    | none => c
    | some x =>
      let b := Sparse.get [] x.operands m.toNat
      let key := chunkKey m.toNat step number
      let cr := c.bzCredit key
      if b.isEmpty || decide (cr.granted ≤ cr.used) then c
      else
        let sent := Sparse.get 0 x.sent m.toNat
        let size := x.chunkBytes
        let c := c.setBzCredit key { cr with used := cr.used + 1 }
        let c := c.setCollective { x with
          operands := Sparse.put [] x.operands m.toNat (b.drop size), sent := Sparse.put 0 x.sent m.toNat (sent + size) }
        (c.bzSendFrom 3 0 m.toNat number step sent x.k.toNat x.fmt.toNat (b.length ≤ size) (b.take size)).pumpMember number step m n

/-- One chunk credit to each member for the chunk that begins (R321). -/
def Chip.grantChunk (c : Chip) (x : Collective) : Chip :=
  if x.chunkCount ≤ x.chunk then c
  else
    c.each x.members fun c m =>
      if m.toNat = c.reg Obj.bzModuleNumber then c
      else
        let key := chunkKey m.toNat x.step.toNat x.number.toNat
        let cr := c.bzCredit key
        if x.chunk + 1 ≤ cr.given then c
        else (c.setBzCredit key { cr with given := x.chunk + 1 }).bzSendLoose 2 m.toNat x.number.toNat x.step.toNat (x.chunk + 1) []

/-- A result goes to every other member, uncompressed. -/
def Chip.sendResult (c : Chip) (x : Collective) (data : Nat → Bytes) : Chip :=
  c.each x.members fun c m =>
    if m.toNat = c.reg Obj.bzModuleNumber then c
    else c.bzSendBytes 4 0 m.toNat x.number.toNat x.step.toNat x.k.toNat x.fmt.toNat (data m.toNat)

/-! ### Completion -/

/-- The completion record of R322, with overflowed sums counted. -/
def Chip.completionRecord (c : Chip) (x : Collective) : Chip :=
  let n := x.own.length / imageBytes x.fmt.toNat * 1024
  let c := { c with bz := { c.bz with records := c.bz.records ++
    [(x.number.toNat, n, x.spilled.length, x.nonfinite, x.compressed)] } }
  if x.spilled.isEmpty then c
  else (c.count Obj.bzRedOverflow x.spilled.length 64).occur 8 6 .bz noRegion x.number.toNat x.spilled.length

/-- The message of a result, parts in ring order. -/
def Collective.message (x : Collective) (me : Nat) : Bytes :=
  (x.members.map fun m => if m.toNat = me then (if collKind x.number.toNat = 1 then x.sums else x.own)
    else (Sparse.get [] x.result m.toNat).take (Sparse.get 0 x.resultSizes m.toNat)).flatten

/-- (SUMSQ_HI, SUMSQ_LO) with the squares of the finite elements of an owned shard added. -/
def addSquares (h l : Nat) (es : List Num) : Nat × Nat :=
  es.foldl (fun s e =>
    match e with
    | .fin _ m x => pairadd .f32 s.1 s.2 (Fmt.f32.deliver .rne false (m * m) (2 * x)).1
    | _ => s) (h, l)

/-- The reduced values of an owned shard are tested (R216, R217) and enter this module's record (R224). -/
def Chip.testReduced (c : Chip) (index : Nat) (k : Int) (vals : List (Num × Bool)) : Chip :=
  let th := Fmt.f32.decode (c.reg Obj.absurdThreshold)
  let nonf := vals.any fun v => !v.1.isFinite
  let absurd := vals.any fun v => match v.1 with | .fin _ m e => th.lt (.fin false m (e + k)) | _ => false
  let overflowed := vals.any (·.2)
  let c := c.setWordBits ((if nonf then 2 ^ abNonfinite else 0) + (if absurd then 2 ^ abAbsurd else 0) + if overflowed then 2 ^ abRedOvf else 0)
  let r := Sparse.get DecisionRecord.zero c.step.own index
  let (h, l) := addSquares r.sumsqHi.toNat r.sumsqLo.toNat (vals.map (·.1))
  let mx := vals.foldl (fun m v => f32Max m (scaledMag 0 v.1)) r.redMax.toNat
  let fl := (if overflowed then 2 else 0) + (if nonf then 4 else 0) + if absurd then 8 else 0
  { c with step := { c.step with
    own := Sparse.put DecisionRecord.zero c.step.own index { r with
      sumsqHi := BitVec.ofNat 32 h, sumsqLo := BitVec.ofNat 32 l, redMax := BitVec.ofNat 32 mx
      flags := r.flags ||| BitVec.ofNat 8 fl } } }

/-- Element (i, j) of the owned part, and whether its sum overflowed. -/
def Collective.sumAt (x : Collective) (images : List Bytes) (cols i j : Nat) : Nat × Bool :=
  let (n, e) := elementPlace cols i j
  (imageElem 16 (images.getD n []) e, x.spilled.contains (n * 1024 + e))

/-- One owned shard is written to its staging area with RATE 0 (R322), tested and fingerprinted. -/
def Chip.stageShard (c : Chip) (x : Collective) (t : UpdTensor) (s : UpdShard) : Chip :=
  let cols := t.cols.toNat
  let images := chunks 2048 x.sums
  let at_ := fun i j => x.sumAt images cols (s.rowFirst + i - x.rowFirst) j
  let out := tensorImages s.rowCount cols 16 fun i j => (at_ i j).1
  let c := c.writeImages 3 s.gradAddr out
  let vals := ((List.range s.rowCount).map fun i => (List.range cols).map fun j =>
    let v := at_ i j
    (Fmt.f16.decode v.1, v.2)).flatten
  let k := x.kSigned
  let c := c.testReduced (2 * bits x.tensorId 47 32) k vals
  c.fingerprint x.tensorId s.shardId.toNat 2 3 0 (vals.map fun v => [v.1.scale k]) out.flatten

/-- A collective whose result is whole takes effect once. -/
def Chip.finishCollective (c : Chip) (x : Collective) : Chip :=
  let me := c.reg Obj.bzModuleNumber
  let kind := collKind x.number.toNat
  let c := c.setCollective { x with done := true }
  if kind = 7 then
    let c := c.completionRecord x
    let c := match x.tensor.bind fun i => (c.upd.tensors[i]?).map fun t => (i, t) with
      | none => c
      | some (i, t) => c.each (c.upd.shards.filter fun (s : UpdShard) => s.tensor == i) fun c s => c.stageShard x t s
    { c with step := { c.step with testedMono := c.time.mono } }
  else
    let c := if kind ≤ 2 then c.completionRecord x else c
    let data := if kind = 2 then x.sums else x.message me
    { c with bz := { c.bz with inbox := c.bz.inbox ++ [((x.number.toNat / 2 ^ 26 % 4) * 4096 + x.route, data)] } }

/-- What a collective can do now: operands leave, chunks end, the result completes, a finished one goes. -/
def Chip.driveCollective (c : Chip) (number step : Nat) : Chip :=
  match c.collective number step with
  | none => c
  | some x =>
    if !x.issued then c
    else
      let me := c.reg Obj.bzModuleNumber
      let before := x.summed
      let y := x.advance me (x.chunkCount + 1)
      let c := (c.setCollective y).grantChunk y
      let c := if collKind number == 1 && y.summed && !before then c.sendResult y fun _ => y.sums else c
      let c := c.each y.members fun c m => c.pumpMember number step m ((Sparse.get [] y.operands m.toNat).length + 1)
      let kind := collKind number
      let whole := (kind == 3 || kind == 4 || y.summed) && (kind == 2 || kind == 7 || y.resultsHeld me)
      let c := if whole && !y.done then
          match c.collective number step with
          | some z => c.finishCollective z
          | none => c
        else c
      match c.collective number step with
      | some z => if z.done && z.operands.isEmpty then c.dropCollective number step else c
      | none => c

/-- A collective is issued: what came early is kept, its first chunk begins, its operands wait for credits. -/
def Chip.issueCollective (c : Chip) (x : Collective) (m : Nat) : Chip :=
  let me := c.reg Obj.bzModuleNumber
  let early := (c.collective x.number.toNat x.step.toNat).map (·.result)
  let x := { x with
    issued := true, deadline := c.time.mono + c.bzLimit m, result := early.getD []
    chunkCount := ceilDiv (x.own.length / Nat.max 1 (imageBytes x.fmt.toNat)) chunkSize }
  let kind := collKind x.number.toNat
  let x := if kind = 3 ∨ kind = 4 then { x with chunkCount := 0 } else x.beginChunk me
  (c.setCollective x).driveCollective x.number.toNat x.step.toNat

/-! ### Collectives of a bound route (Table 12-4, kinds 1 to 4) -/

/-- Part `i` of `n` of a list of images. -/
def partOf (i n : Nat) (l : List Bytes) : List Bytes := (l.drop (i * l.length / n)).take ((i + 1) * l.length / n - i * l.length / n)

/-- Images compressed for the way between modules. -/
def wireImages (fmt rate : Nat) (l : List Bytes) : Bytes :=
  (l.map fun im => if rate = 0 then im else (encodeImage fmt rate im).image).flatten

/-- Bindings of this module for a transfer and group whose route has this kind in the casting, in map order. -/
def Chip.boundRoutes (c : Chip) (slot transfer group kind : Nat) : List Nat :=
  let me := c.reg Obj.bzModuleNumber
  ((c.bindings slot).filter fun b =>
    b.module.toNat == me && b.transfer.toNat == transfer && b.group.toNat == group &&
    (((c.array.casting slot).bind fun k => k.routes.find? fun r => r.route == b.route).map (·.kind.toNat)) == some kind).map
    (·.route.toNat)

/-- Route of kind 3 on which the result of a kind 4 route's collective is taken: the one in the same place among the
bindings of its transfer and group. -/
def Chip.resultRoute (c : Chip) (slot transfer group route : Nat) : Option Nat :=
  let outs := c.boundRoutes slot transfer group 4
  let ins := c.boundRoutes slot transfer group 3
  ((List.range outs.length).find? fun i => outs.getD i 0 == route).bind fun i => ins[i]?

/-- k of a scale index as the step uses it. -/
def Chip.scaleOf (c : Chip) (tensorId fmt : Nat) : BitVec 8 :=
  match scaleIndex tensorId (if fmt = 3 then 3 else 13) with
  | some i => if fmt = 3 then Sparse.get 0#8 c.step.scaleK i else 0
  | none => 0

/-- A message of a kind 4 route bound to a collective issues it. -/
def Chip.routeCollective (c : Chip) (slot route : Nat) (b : MapBinding) (fmt rate tensorId : Nat) (data : Bytes) : Chip :=
  match ((c.mapOf slot).bind fun m => m.groups[b.group.toNat]?) with
  | none => c
  | some g =>
    let me := c.reg Obj.bzModuleNumber
    let kind := b.transfer.toNat
    let n := g.members.length
    let (inst, c) := c.nextInstance kind slot route
    let step := c.reg Obj.stepNumber
    let images := chunks (imageBytes fmt) data
    let ring := (List.range n).zip g.members
    let mine := ((ring.find? fun x => x.2.toNat == me).map (·.1)).getD 0
    let x := { Collective.early (collNumber kind slot route inst) step with
      members := g.members, fmt := BitVec.ofNat 8 fmt, k := c.scaleOf tensorId fmt
      rate := if kind ≤ 2 then rate else 0, route := (c.resultRoute slot kind b.group.toNat route).getD route }
    if kind ≤ 2 then
      let own := (partOf mine n images).flatten
      let outs := ring.foldl (fun m y => if y.1 = mine then m else Sparse.put [] m y.2.toNat (wireImages fmt rate (partOf y.1 n images))) []
      let sent := outs.foldl (fun s e => s + e.2.length) 0
      let sizes := if kind = 1 then ring.foldl (fun m y => Sparse.put 0 m y.2.toNat (partOf y.1 n images).flatten.length) [] else []
      let x := { x with own := own, operands := outs, resultSizes := sizes }
      c.issueCollective x (sent + (n - 1) * own.length + if kind = 1 then 2 * (n - 1) * own.length else 0)
    else
      let size := if kind = 3 then data.length else data.length / Nat.max 1 n
      let place := fun (i : Nat) => if kind = 3 then data else slice data (i * size) size
      let at_ := fun (m : Nat) => place (((ring.find? fun y => y.2.toNat == m).map (·.1)).getD 0)
      let x := { x with own := at_ me, resultSizes := g.members.foldl (fun m y => Sparse.put 0 m y.toNat size) [] }
      (c.sendResult x at_).issueCollective x (2 * (n - 1) * size)

/-! ### Gradient reduction (R212 to R214, kind 7) -/

/-- Accumulators of a layer: TENSOR_ID and base address, from the descriptors of the casting's kind 2 routes whose images
have format 0xD, in order. -/
def Casting.accumulators (k : Casting) (layer : Nat) : List (Nat × Nat) :=
  let ds := (k.dma.map fun e => e.descs.map DmaDesc.ofBytes).flatten.filter fun d =>
    d.images && d.fmt == 13 && spaceOf d.dst == 0 && bits d.tensor 47 32 == layer
  ds.foldl (fun l d =>
    if l.any fun x => x.1 == d.tensor then l.map fun x => if x.1 = d.tensor then (x.1, Nat.min x.2 (within d.dst)) else x
    else l ++ [(d.tensor, within d.dst)]) []

/-- Shape of a tensor, from any descriptor that names it. -/
def Chip.shapeOf (c : Chip) (tensorId : Nat) : Nat × Nat :=
  ((c.liveDescs.find? fun d => d.tensorId.toNat == tensorId).map fun d => (d.rows.toNat, d.cols.toNat)).getD (0, 0)

/-- Ordinals of the update table's tensor entries of a layer, in order. -/
def UpdateUnit.tensorsOf (u : UpdateUnit) (layer : Nat) : List Nat :=
  (List.range u.tensors.length).filter fun i =>
    match u.tensors[i]? with
    | some t => bits t.tensorId.toNat 47 32 == layer
    | none => false

/-- First row and row count of this module's shards of a tensor. -/
def UpdateUnit.ownRows (u : UpdateUnit) (i : Nat) : Nat × Nat :=
  let ss := u.shards.filter fun s => s.tensor == i
  match ss with
  | [] => (0, 0)
  | s :: r =>
    let lo := r.foldl (fun m x => Nat.min m x.rowFirst) s.rowFirst
    let hi := r.foldl (fun m x => Nat.max m (x.rowFirst + x.rowCount)) (s.rowFirst + s.rowCount)
    (lo, hi - lo)

/-- Most non-zero values in any block of 64 elements of an image of 16-bit elements. -/
def imageOcc (im : Bytes) : Nat :=
  let es := planeElems ⟨.fmt .f16, false, false, true⟩ im 0
  (List.range 16).foldl (fun m t =>
    Nat.max m (((es.drop (64 * t)).take 64).filter fun e => e % 32768 != 0).length) 0

/-- Group over which a layer's weight gradient is reduced; this module alone where no map names one. -/
def Chip.gradGroup (c : Chip) (slot layer : Nat) : List (BitVec 16) :=
  let me := BitVec.ofNat 16 (c.reg Obj.bzModuleNumber)
  ((c.mapOf slot).bind fun m => (m.layers.find? fun l => l.layer.toNat == layer).bind fun l =>
    (m.groups[l.gradGroup]?).map (·.members)).getD [me]

/-- Rows of the tensor that ring place `i` of `n` owns, in whole row blocks. -/
def ringRows (i n rows : Nat) : Nat × Nat :=
  let nb := ceilDiv rows 32
  let lo := Nat.min rows (32 * (i * nb / n))
  let hi := Nat.min rows (32 * ((i + 1) * nb / n))
  (lo, hi - lo)

/-- The update engine reads one accumulator once into the site reduction, at the layer's k and in its reduction form
(R213, R214, R229). -/
def Chip.reduceAccumulator (c : Chip) (slot layer tid base : Nat) (tensor : Option Nat) : Chip :=
  let (rows, cols) := c.shapeOf tid
  match c.readTensorImages 13 base 0 (imageCount rows cols) with
  | (.inr a, c) => c.abort abMem a
  | (.inl images, c) =>
    let me := c.reg Obj.bzModuleNumber
    let hi := fun i j => tensorElem images cols 16 i j
    let members := c.gradGroup slot layer
    let n := members.length
    let ring := (List.range n).zip members
    let index := 2 * layer
    let k := Sparse.get 0#8 c.step.scaleK index
    let rate := Sparse.get 0 c.step.forms layer
    let (lo, cnt) := match tensor with | some i => c.upd.ownRows i | none => (0, 0)
    let part := fun (lo cnt : Nat) => tensorImages cnt cols 16 fun i j => hi (lo + i) j
    let outs := (ring.filter fun y => y.2.toNat != me).map fun y =>
      let (l, m) := ringRows y.1 n rows
      (y.2.toNat, (part l m).map fun im => (im, if rate = 0 then (⟨im, []⟩ : Encoded) else encodeImage 3 rate im))
    let sentImages := (outs.map (·.2)).flatten
    let dropped := (sentImages.map fun x => x.2.dropped).flatten
    let occ := sentImages.foldl (fun m x => Nat.max m (imageOcc x.1)) 0
    let own := (part lo cnt).flatten
    let r := Sparse.get DecisionRecord.zero c.step.own index
    let nz := ((List.range rows).map fun i => ((List.range cols).filter fun j => hi i j % 32768 != 0).length).foldl (· + ·) 0
    let r := { r with
      nonzero := BitVec.ofNat 64 (r.nonzero.toNat + nz)
      dropped := BitVec.ofNat 32 (satAdd 32 r.dropped.toNat dropped.length)
      maxOcc := if r.maxOcc.toNat < occ then BitVec.ofNat 8 occ else r.maxOcc }
    let c := { c with step := { c.step with own := Sparse.put DecisionRecord.zero c.step.own index r } }
    let c := c.noteDrops tid (dropped.map fun d => d.scale (signed 8 k.toNat))
    let c := if dropped.isEmpty then c else c.occur 4 5 .step noRegion tid dropped.length
    let stored := images.map fun im => if rate = 0 then im.take 2048 else (encodeImage 3 rate (im.take 2048)).image
    let dec := stored.map fun im => if rate = 0 then im else (decodeImage 3 rate im).getD im
    let els := ((List.range rows).map fun i => (List.range cols).map fun j =>
      [(Fmt.f16.decode (tensorElem dec cols 16 i j)).scale (signed 8 k.toNat)]).flatten
    let c := c.fingerprint tid 0xFFFFFFFF 1 3 rate els stored.flatten
    let (inst, c) := c.nextInstance 7 slot layer
    let operands := outs.foldl (fun m o => Sparse.put [] m o.1 ((o.2.map fun x => x.2.image).flatten)) []
    let sent := operands.foldl (fun s e => s + e.2.length) 0
    c.issueCollective { Collective.early (collNumber 7 slot layer inst) (c.reg Obj.stepNumber) with
      members := members, fmt := 3, k := k, rate := rate, tensor := tensor, tensorId := tid
      operands := operands, own := own, rowFirst := lo, rowCount := cnt }
      (sent + (n - 1) * (own.length / 2048 * compressedBytes 3 rate))

/-- A layer's hand-off entry has ended: its accumulators are final, and each is reduced (R213). -/
def Chip.handOff (c : Chip) (slot layer : Nat) : Chip :=
  match c.array.casting slot with
  | none => c
  | some k =>
    let accs := k.accumulators layer
    let ts := c.upd.tensorsOf layer
    let c := if c.reg Obj.stepState = 1 then c.setReg Obj.stepState 2 else c
    c.each ((List.range accs.length).zip accs) fun c x => c.reduceAccumulator slot layer x.2.1 x.2.2 (ts[x.1]?)

/-! ### Frames of the collectives -/

/-- An operand frame, in order. One that disagrees in FMT or K is discarded (R320); one of a collective that is over is
a duplicate (R325). -/
def Chip.takeOperand (c : Chip) (peer : Nat) (f : BzFrame) : Chip :=
  let number := f.hdr.channel.toNat
  let step := f.hdr.msg.toNat
  match c.collective number step with
  | none => c.count Obj.bzDuplicates 1 64
  | some x =>
    if !x.issued || !(x.members.any fun m => m.toNat == peer) then c
    else if f.hdr.fmt != x.fmt || (x.fmt == 3 && f.hdr.k != x.k) then c.occur 8 5 .bz noRegion peer number
    else
      let b := Sparse.get [] x.inbuf peer
      (c.setCollective { x with inbuf := Sparse.put [] x.inbuf peer (b ++ f.payload) }).driveCollective number step

/-- A result frame, in order. -/
def Chip.takeResult (c : Chip) (peer : Nat) (f : BzFrame) : Chip :=
  let number := f.hdr.channel.toNat
  let step := f.hdr.msg.toNat
  match c.collective number step with
  | none =>
    if c.instanceGone number step then c.count Obj.bzDuplicates 1 64
    else c.setCollective { Collective.early number step with result := Sparse.put [] [] peer f.payload }
  | some x =>
    let b := Sparse.get [] x.result peer
    (c.setCollective { x with result := Sparse.put [] x.result peer (b ++ f.payload) }).driveCollective number step

/-- A tree frame, in order: contributions of children, the result of the parent, and words with an abort bit from
either, which go on at once (R323). -/
def Chip.takeTree (c : Chip) (peer : Nat) (f : BzFrame) : Chip :=
  let number := f.hdr.channel.toNat
  let step := f.hdr.msg.toNat
  let kind := collKind number
  let me := c.reg Obj.bzModuleNumber
  let t := c.treeNode number step
  if step < c.reg Obj.stepNumber then c.count Obj.bzDuplicates 1 64
  else if (treeChildren me (c.reg Obj.bzSiteModules)).contains peer then
    let old := ((t.children.find? fun e => e.1.toNat == peer).map (·.2)).getD []
    let data := old ++ f.payload
    let c := c.setTreeNode { t with children := t.children.filter (fun e => e.1.toNat != peer) ++ [(BitVec.ofNat 16 peer, data)] }
    if number = treeNumber 5 ∧ beNat (data.take 4) &&& abortMask ≠ 0 then
      let b := data.take 4
      let c := if me = 0 then c else c.bzSendBytes 5 4 (treeParent me) number step 0 0 b
      c.each ((treeChildren me (c.reg Obj.bzSiteModules)).filter (· != peer)) fun c m => c.bzSendBytes 5 4 m number step 0 0 b
    else c.treeAdvance number step
  else if me ≠ 0 ∧ peer = treeParent me then
    let data := t.result.getD [] ++ f.payload
    let c := c.setTreeNode { t with result := some data }
    if data.length = treeBytes kind then (c.treeNode number step |> fun t => c.treeDown t data) else c
  else c

/-- What is delivered of a flow, frame by frame. -/
def Chip.bzDeliver (c : Chip) (peer : Nat) (f : BzFrame) : Chip :=
  match bzClass f with
  | 0 => c.bzTakeMessage peer f
  | 3 => c.takeOperand peer f
  | 4 => c.takeResult peer f
  | 5 => c.takeTree peer f
  | _ => c

/-- A sequenced frame of this class arrives on a port. -/
def Chip.bzSequenced (c : Chip) (port cls : Nat) (f : BzFrame) : Chip :=
  match c.bzArrive port cls f with
  | (false, c) => c
  | (true, c) =>
    if c.bz.conflict then c
    else
      let peer := f.hdr.src.toNat
      let c := c.bzTakeAck peer f.hdr.ack
      let (l, c) := c.bzSequence peer f
      c.each l fun c f => c.bzDeliver peer f

/-- A credit frame: send credits of a route, or chunk credits of a collective, which its operands then use. -/
def Chip.bzCreditFrame (c : Chip) (port : Nat) (f : BzFrame) : Chip :=
  match c.bzArrive port 2 f with
  | (false, c) => c
  | (true, c) =>
    if c.bz.conflict then c
    else
      let peer := f.hdr.src.toNat
      let c := c.bzTakeAck peer f.hdr.ack
      let ch := f.hdr.channel.toNat
      if ch < 2 ^ 28 then c.bzGranted ch f.hdr.offset.toNat
      else
        let step := f.hdr.msg.toNat
        (c.bzGranted (chunkKey peer step ch) f.hdr.offset.toNat).driveCollective ch step

/-- An acknowledgement frame frees the store and shows what is missing. -/
def Chip.bzAckFrame (c : Chip) (port : Nat) (f : BzFrame) : Chip :=
  match c.bzArrive port 1 f with
  | (false, c) => c
  | (true, c) =>
    if c.bz.conflict then c
    else
      let peer := f.hdr.src.toNat
      (c.bzTakeAck peer f.hdr.ack).bzTakeMap peer f.hdr.ack (beNat (f.payload.take 8))

/-- A probe or its reply. -/
def Chip.bzProbeFrame (c : Chip) (port : Nat) (f : BzFrame) : Chip :=
  match c.bzArrive port 6 f with
  | (false, c) => c
  | (true, c) =>
    let peer := f.hdr.src.toNat
    if f.payload.isEmpty then c.bzProbed peer else c.bzProbeReply peer f.payload

end Sys2Proof.Machine
end

