-- ==== Sys2Proof/Machine/UpdOps.lean ====
section
/-! DEFINITION. Machine/UpdOps.lean: a shard's state in its slots (R236 to R239, R247) and the inner update (R242 to
R245), element by element. Values are binary32 codes. -/

namespace Sys2Proof.Machine

/-! ### binary32 and binary64 in this unit -/

/-- A binary32 code with the flags raised on the way to it (R95). -/
abbrev FV := Nat × Nat

/-- A stored value, which raises nothing. -/
def fv (code : Nat) : FV := (code, 0)

def FV.op2 (f : Nat → Nat → Nat × Nat) (a b : FV) : FV := let r := f a.1 b.1; (r.1, a.2 ||| b.2 ||| r.2)
def uAdd : FV → FV → FV := FV.op2 (Fmt.f32.add .rne)
def uSub : FV → FV → FV := FV.op2 (Fmt.f32.sub .rne)
def uMul : FV → FV → FV := FV.op2 (Fmt.f32.mul .rne)
def uDiv (fast : Bool) : FV → FV → FV := FV.op2 (Fmt.f32.div fast .rne)
def uSqrt (fast : Bool) (a : FV) : FV := let r := Fmt.f32.sqrt fast .rne a.1; (r.1, a.2 ||| r.2)
def uNeg (a : FV) : FV := (a.1 ^^^ 2 ^ 31, a.2)
def uFma (a b x : FV) : FV :=
  let r := Fmt.f32.fma .rne (Fmt.f32.decode a.1) (Fmt.f32.decode b.1) (Fmt.f32.decode x.1)
  (r.1, a.2 ||| b.2 ||| x.2 ||| r.2)
/-- A number delivered as binary32. -/
def uNum (x : Num) : FV := Fmt.f32.deliverNum .rne x
/-- PAIRADD with its flags, taken for the whole result (R138). -/
def uPair (h l b : FV) : FV × FV :=
  let r := pairadd .f32 h.1 l.1 b.1
  let fl := h.2 ||| l.2 ||| b.2 ||| compFlags .f32 [h.1, l.1, b.1] r (exactSum .f32 [h.1, l.1, b.1])
  ((r.1, fl), (r.2, fl))
/-- Flags of a list of values. -/
def flagsOf (l : List FV) : Nat := l.foldl (fun a x => a ||| x.2) 0

def fAdd (a b : Nat) : Nat := (Fmt.f32.add .rne a b).1
def fFinite (a : Nat) : Bool := (Fmt.f32.decode a).isFinite
def fAbs (a : Nat) : Nat := a % 2 ^ 31

def wide64 (a : Nat) : Nat := (Fmt.f64.deliverNum .rne (Fmt.f32.decode a)).1
def narrow32 (a : Nat) : Nat := (Fmt.f32.deliverNum .rne (Fmt.f64.decode a)).1
def dAdd (a b : Nat) : Nat := (Fmt.f64.add .rne a b).1
def dSub (a b : Nat) : Nat := (Fmt.f64.sub .rne a b).1
def dMul (a b : Nat) : Nat := (Fmt.f64.mul .rne a b).1
def dDiv (a b : Nat) : Nat := (Fmt.f64.div false .rne a b).1
def dOfNat (n : Nat) : Nat := (Fmt.f64.deliver .rne false n 0).1
def d1 : Nat := dOfNat 1

/-- a^t in binary64, rounded once (DEDUCED, assumption log 40). -/
def dPow (a t : Nat) : Nat :=
  match Fmt.f64.decode a with
  | .fin n m e => (Fmt.f64.deliver .rne (n && t % 2 == 1) (m ^ t) (e * t)).1
  | _ => a

/-! ### Q8S and Q8U (R238) -/

/-- Integer nearest to a binary32 value, ties to even, within [lo, hi]; the open value for a NaN. -/
def clampInt (lo hi : Int) (a : Nat) : Int :=
  match Fmt.f32.decode a with
  | .fin n m e =>
    let (i, _) := if m = 0 then (0, false) else roundAt .rne n m e 0
    max lo (min hi (if n then -(i : Int) else i))
  | .inf n => if n then lo else hi
  | .nan _ _ => if lo = 0 then Config.q8OfNan.toNat else signed 8 Config.q8OfNan.toNat

/-- Largest magnitude of a block: a non-finite one where it holds such a value. -/
def blockAmax (l : List Nat) : Nat :=
  match l.find? fun x => !fFinite x with
  | some x => fAbs x
  | none => l.foldl (fun m x => if f32Lt m (fAbs x) then fAbs x else m) 0

/-- Block parameter and codes of 64 values, with the flags of the operations. -/
def q8Encode (isSigned : Bool) (l : List Nat) : Nat × List Nat × Nat :=
  let a := blockAmax l
  if a = 0 ∨ !fFinite a then (a, l.map fun _ => 0, 0)
  else if isSigned then
    let q := uDiv false (fv a) (fv (f32OfNat 127))
    let xs := l.map fun x => uDiv false (fv x) q
    (q.1, xs.map fun x => unsigned 8 (clampInt (-127) 127 x.1), q.2 ||| flagsOf xs)
  else
    let xs := l.map fun x => uMul (fv (f32OfNat 255)) (uSqrt false (uDiv false (fv x) (fv a)))
    (a, xs.map fun x => (clampInt 0 255 x.1).toNat, flagsOf xs)

def q8Decode (isSigned : Bool) (q code : Nat) : FV :=
  if !fFinite q then fv 0x7FC00000
  else if q = 0 then fv 0
  else if isSigned then
    let v := signed 8 code
    uMul (fv (Fmt.f32.signed (decide (v < 0)) (f32OfNat v.natAbs))) (fv q)
  else
    let t := uDiv false (fv (f32OfNat code)) (fv (f32OfNat 255))
    uMul (fv q) (uMul t t)

/-- Values in blocks of 64, padded with +0. -/
def blocksOf64 (l : List Nat) : List (List Nat) :=
  (List.range (ceilDiv l.length 64)).map fun i =>
    let b := (l.drop (64 * i)).take 64
    b ++ List.replicate (64 - b.length) 0

/-- Groups of 544 bytes: eight parameters, then eight blocks of codes; the places of missing blocks are 0. -/
def q8Bytes (isSigned : Bool) (l : List Nat) : Bytes :=
  let bs := (blocksOf64 l).map (q8Encode isSigned)
  ((List.range (ceilDiv bs.length 8)).map fun g =>
    let eight := (List.range 8).map fun i => bs.getD (8 * g + i) (0, List.replicate 64 0, 0)
    (eight.map fun b => leBytes 4 b.1).flatten ++ (eight.map fun b => b.2.1.map fun x => BitVec.ofNat 8 x).flatten).flatten

/-- Flags of encoding the values. -/
def q8Flags (isSigned : Bool) (l : List Nat) : Nat :=
  ((blocksOf64 l).map (q8Encode isSigned)).foldl (fun a b => a ||| b.2.2) 0

/-- Blocks whose largest magnitude is not finite. -/
def q8Nonfinite (l : List Nat) : Bool := (blocksOf64 l).any fun b => !fFinite (blockAmax b)

/-- The first `n` values of such groups. -/
def q8Values (isSigned : Bool) (n : Nat) (b : Bytes) : List FV :=
  (List.range n).map fun i =>
    let g := i / 512 * 544
    q8Decode isSigned (u32At b (g + 4 * (i / 64 % 8))) (u8At b (g + 32 + i % 512))

def q8Size (n : Nat) : Nat := ceilDiv (ceilDiv n 64) 8 * 544

/-! ### A slot (R237) -/

/-- A shard's state; the second moment is `v` for Q8U, and the factors otherwise. -/
structure ShardData where
  wHi : List Nat
  wLo : List Nat
  copy : List Bytes
  m : List Nat
  v : List Nat
  r : List Nat
  cols : List Nat
  mu : List Nat
deriving DecidableEq, Repr, Inhabited

/-- A shard's state with the flags of the operations that gave it. -/
abbrev Flagged (α : Type) := α × Nat

def UpdTensor.isPair (t : UpdTensor) : Bool := t.wFormat == 0xC
def UpdTensor.hasCopy (t : UpdTensor) : Bool := t.copyFormat != 0xFF
def UpdTensor.isFactored (t : UpdTensor) : Bool := t.vForm != 0x10
def UpdTensor.rank (t : UpdTensor) : Nat := t.vForm.toNat
def UpdTensor.width (t : UpdTensor) : Nat := t.cols.toNat

/-- Columns of band p of a factored tensor, and the band of a column (R239). -/
def UpdTensor.bandSize (t : UpdTensor) : Nat := ceilDiv t.width (Nat.max 1 t.rank)
def UpdTensor.bandOf (t : UpdTensor) (j : Nat) : Nat := j / Nat.max 1 t.bandSize
def UpdTensor.bandCols (t : UpdTensor) (p : Nat) : List Nat := (List.range t.width).filter fun j => t.bandOf j == p

/-- Bytes of the parts of a slot of `rows` rows: weights, copy, first and second moment. -/
def UpdTensor.partBytes (t : UpdTensor) (rows : Nat) : List Nat :=
  let n := rows * t.width
  [n * (if t.isPair then 8 else 4),
   if t.hasCopy then imageCount rows t.width * imageBytes t.copyFormat.toNat else 0,
   if t.mForm = 0 then 2 * n else q8Size n,
   if t.isFactored then 4 * (rows * t.rank + t.width + t.rank) else q8Size n]

/-- Offset of part `i`, each on a 4,096-byte boundary. -/
def UpdTensor.partAt (t : UpdTensor) (rows i : Nat) : Nat := ((t.partBytes rows).take i).foldl (fun o n => o + alignUp 4096 n) 0

def UpdTensor.slotBytes (t : UpdTensor) (rows : Nat) : Nat := t.partAt rows 3 + (t.partBytes rows).getD 3 0

def f32List (b : Bytes) (o n : Nat) : List Nat := (List.range n).map fun i => u32At b (o + 4 * i)

def f32Bytes (l : List Nat) : Bytes := (l.map (leBytes 4)).flatten

/-- A slot's bytes read as state. -/
def UpdTensor.readSlot (t : UpdTensor) (rows : Nat) (b : Bytes) : ShardData :=
  let n := rows * t.width
  let mAt := t.partAt rows 2
  let vAt := t.partAt rows 3
  let cAt := t.partAt rows 1
  { wHi := f32List b 0 n
    wLo := if t.isPair then f32List b (4 * n) n else []
    copy := if t.hasCopy then chunks (imageBytes t.copyFormat.toNat) (slice b cAt ((t.partBytes rows).getD 1 0)) else []
    m := if t.mForm = 0 then (List.range n).map fun i => (Fmt.f32.deliverNum .rne (Fmt.bf16.decode (u16At b (mAt + 2 * i)))).1
      else (q8Values true n (b.drop mAt)).map Prod.fst
    v := if t.isFactored then [] else (q8Values false n (b.drop vAt)).map Prod.fst
    r := if t.isFactored then f32List b vAt (rows * t.rank) else []
    cols := if t.isFactored then f32List b (vAt + 4 * rows * t.rank) t.width else []
    mu := if t.isFactored then f32List b (vAt + 4 * (rows * t.rank + t.width)) t.rank else [] }

/-- Flags of decoding a slot's moments (R238). -/
def UpdTensor.readFlags (t : UpdTensor) (rows : Nat) (b : Bytes) : Nat :=
  let n := rows * t.width
  (if t.mForm = 0 then 0 else flagsOf (q8Values true n (b.drop (t.partAt rows 2)))) |||
    if t.isFactored then 0 else flagsOf (q8Values false n (b.drop (t.partAt rows 3)))

/-- Flags of encoding state into a slot. -/
def UpdTensor.writeFlags (t : UpdTensor) (d : ShardData) : Nat :=
  (if t.mForm = 0 then 0 else q8Flags true d.m) ||| if t.isFactored then 0 else q8Flags false d.v

/-- State as a slot's bytes; a bfloat16 first moment is given as its codes. -/
def UpdTensor.slotImage (t : UpdTensor) (d : ShardData) (mCodes : List Nat) : Bytes :=
  let pad := fun (b : Bytes) => b ++ zeros (alignUp 4096 b.length - b.length)
  pad (f32Bytes d.wHi ++ f32Bytes d.wLo) ++ pad d.copy.flatten ++
  pad (if t.mForm = 0 then (mCodes.map (leBytes 2)).flatten else q8Bytes true d.m) ++
  (if t.isFactored then f32Bytes d.r ++ f32Bytes d.cols ++ f32Bytes d.mu else q8Bytes false d.v)

/-! ### Images converted from values (R71, R77, R113) -/

/-- One image in a format under OVF_MODE and a rounding for each element, with its flags; padding elements are +0. -/
def convertImage (f : TFmt) (prop : Bool) (k : Int) (vals : List (Num × Rnd)) : Flagged Bytes :=
  let w := f.elem.width
  if f.mx then
    let rows := (List.range 32).map fun r => blockConvert f.elem prop ((vals.drop (32 * r)).take 32)
    (leBytes (128 * w) (packElems w (rows.map (·.2.1)).flatten) ++ rows.map fun r => BitVec.ofNat 8 r.1,
      rows.foldl (fun a r => a ||| r.2.2) 0)
  else
    let es := vals.map fun v => f.elem.narrow prop false v.2 (v.1.scale (if f.scaled then -k else 0))
    (leBytes (128 * w) (packElems w (es.map (·.1))), es.foldl (fun a e => a ||| e.2.1) 0)

/-- The images of a rows × cols tensor whose element (i, j) has this value and rounding. -/
def convertTensor (code : Nat) (prop : Bool) (k : Int) (rows cols : Nat) (val : Nat → Nat → Num) (rnd : Nat → Nat → Rnd) :
    Flagged (List Bytes) :=
  match TFmt.ofCode code with
  | none => ([], 0)
  | some f =>
    let l := (List.range (imageCount rows cols)).map fun n =>
      let (bi, bj) := blockOfImage cols n
      convertImage f prop k ((List.range 1024).map fun e =>
        let i := 32 * bi + e / 32
        let j := 32 * bj + e % 32
        if i < rows ∧ j < cols then (val i j, rnd i j) else (.fin false 0 0, .rne))
    (l.map (·.1), l.foldl (fun a x => a ||| x.2) 0)

/-- Value of element (i, j) in images of a format. -/
def imageValue (code : Nat) (k : Int) (images : List Bytes) (cols i j : Nat) : Num :=
  match TFmt.ofCode code with
  | none => .fin false 0 0
  | some f =>
    let (n, e) := elementPlace cols i j
    let im := images.getD n []
    let c := imageElem f.elem.width im e
    if f.mx then mxDecode f.elem (u8At im (128 * f.elem.width + e / 32)) c
    else (f.elem.decode c).scale (if f.scaled then k else 0)

/-! ### The inner update (R243, R244) -/

/-- What governs one shard's update. -/
structure UpdIn where
  fast : Bool
  prop : Bool
  rnd : Nat
  key : Nat
  clip : Nat
  k : Int
  copyK : Int
  scal : Scalars
  rowFirst : Nat
deriving Repr

/-- Mean in ascending order: a PAIRADD sum, rounded from its pair and divided by the count. -/
def pairMean (fast : Bool) (l : List FV) : FV :=
  let s := l.foldl (fun (s : FV × FV) x => uPair s.1 s.2 x) (fv 0, fv 0)
  let r := uNum (pairValue (Fmt.f32.decode s.1.1) (Fmt.f32.decode s.2.1))
  uDiv fast (r.1, s.1.2 ||| r.2) (fv (f32OfNat l.length))

/-- Gradient element g of R243 from its reduced code. -/
def UpdIn.grad (u : UpdIn) (code : Nat) : FV :=
  uMul (uNum ((Fmt.f16.decode code).scale u.k)) (fv u.clip)

def one32 : Nat := 0x3F800000

/-- New factors of a factored second moment: r, c, μ. -/
def UpdTensor.factors (t : UpdTensor) (u : UpdIn) (rows : Nat) (g : Nat → Nat → FV) (d : ShardData) :
    List FV × List FV × List FV :=
  let b2 := fv t.beta2.toNat
  let a2 := uSub (fv one32) b2
  let sq := fun i j => uAdd (uMul (g i j) (g i j)) (fv t.eps1.toNat)
  let r := ((List.range rows).map fun i => (List.range t.rank).map fun p =>
    let rho := pairMean u.fast ((t.bandCols p).map fun j => sq i j)
    uFma b2 (fv (d.r.getD (i * t.rank + p) 0)) (uMul a2 rho)).flatten
  let cs := (List.range t.width).map fun j =>
    let gamma := pairMean u.fast ((List.range rows).map fun i => sq i j)
    uFma b2 (fv (d.cols.getD j 0)) (uMul a2 gamma)
  let mu := (List.range t.rank).map fun p => pairMean u.fast ((List.range rows).map fun i => r.getD (i * t.rank + p) (fv 0))
  (r, cs, mu)

/-- The estimate of element (i, j) (R239). -/
def UpdTensor.factoredV (t : UpdTensor) (fast : Bool) (f : List FV × List FV × List FV) (i j : Nat) : FV :=
  let p := t.bandOf j
  uDiv fast (uMul (f.1.getD (i * t.rank + p) (fv 0)) (f.2.1.getD j (fv 0))) (f.2.2.getD p (fv 0))

/-- One element: new weight pair and first moment from its gradient and second moment. -/
def UpdTensor.element (t : UpdTensor) (u : UpdIn) (g : FV) (hi lo m : Nat) (v : FV) : FV × FV × FV :=
  let a1 := uSub (fv one32) (fv t.beta1.toNat)
  let m := uFma (fv t.beta1.toNat) (fv m) (uMul a1 g)
  let den := uAdd (uSqrt u.fast (uMul v (fv u.scal.c2.toNat))) (fv t.eps.toNat)
  let q := uDiv u.fast (uMul m (fv u.scal.c1.toNat)) den
  let d := uFma (fv u.scal.eta.toNat) q (uMul (fv u.scal.dk.toNat) (fv hi))
  if t.isPair then
    let w := uPair (fv hi) (fv lo) (uNeg d)
    (w.1, w.2, m)
  else (uSub (fv hi) d, fv 0, m)

/-- Value of a weight, exact: hi + lo of a pair. -/
def ShardData.weight (d : ShardData) (n : Nat) : Num :=
  match d.wLo[n]? with
  | some l => pairValue (Fmt.f32.decode (d.wHi.getD n 0)) (Fmt.f32.decode l)
  | none => Fmt.f32.decode (d.wHi.getD n 0)

/-- Index of an element in the whole tensor (R89). -/
def UpdTensor.index (t : UpdTensor) (rowFirst n : Nat) : Nat := rowFirst * t.width + n

/-- The compute copy of a shard's weights (R243). -/
def UpdTensor.copyOf (t : UpdTensor) (u : UpdIn) (rows : Nat) (d : ShardData) : Flagged (List Bytes) :=
  if t.hasCopy then
    convertTensor t.copyFormat.toNat u.prop u.copyK rows t.width (fun i j => d.weight (i * t.width + j)) fun i j =>
      rndOf u.rnd u.key t.copyTensorId.toNat (t.index u.rowFirst (i * t.width + j))
  else ([], 0)

/-- First moments as bfloat16 codes. -/
def UpdTensor.momentCodes (t : UpdTensor) (u : UpdIn) (l : List Nat) : Flagged (List Nat) :=
  let cs := (List.range l.length).map fun n =>
    Fmt.bf16.narrow u.prop false (rndOf u.rnd u.key t.mTensorId.toNat (t.index u.rowFirst n)) (Fmt.f32.decode (l.getD n 0))
  (cs.map (·.1), cs.foldl (fun a x => a ||| x.2.1) 0)

/-- A whole shard updated, its compute copy not yet converted; `e` gives the reduced code of element (i, j). -/
def UpdTensor.update (t : UpdTensor) (u : UpdIn) (rows : Nat) (e : Nat → Nat → Nat) (d : ShardData) : Flagged ShardData :=
  let w := t.width
  let g := fun i j => u.grad (e i j)
  let a2 := uSub (fv one32) (fv t.beta2.toNat)
  let f := if t.isFactored then t.factors u rows g d else ([], [], [])
  let v := if t.isFactored then [] else (List.range (rows * w)).map fun n =>
    let x := g (n / w) (n % w)
    uFma (fv t.beta2.toNat) (fv (d.v.getD n 0)) (uMul a2 (uMul x x))
  let els : List (FV × FV × FV) := (List.range (rows * w)).map fun n =>
    let vv := if t.isFactored then t.factoredV u.fast f (n / w) (n % w) else v.getD n (fv 0)
    t.element u (g (n / w) (n % w)) (d.wHi.getD n 0) (d.wLo.getD n 0) (d.m.getD n 0) vv
  let his := els.map Prod.fst
  let los := els.map (fun (x : FV × FV × FV) => x.2.1)
  let ms := els.map (fun (x : FV × FV × FV) => x.2.2)
  ({ d with
      wHi := his.map Prod.fst, wLo := if t.isPair then los.map Prod.fst else [], m := ms.map Prod.fst
      v := v.map Prod.fst, r := f.1.map Prod.fst, cols := f.2.1.map Prod.fst, mu := f.2.2.map Prod.fst },
    flagsOf his ||| flagsOf los ||| flagsOf ms ||| flagsOf v ||| flagsOf f.1 ||| flagsOf f.2.1 ||| flagsOf f.2.2)

/-- Non-finite weights and moments of a shard's state (R243). -/
def ShardData.nonfinite (d : ShardData) : Nat :=
  ((d.wHi ++ d.m ++ d.v ++ d.r ++ d.cols ++ d.mu).filter fun x => !fFinite x).length

/-- A shard whose moments are +0: factors +0 with μ = 1 (R259, R345). -/
def UpdTensor.zeroMoments (t : UpdTensor) (rows : Nat) (d : ShardData) : ShardData :=
  let n := rows * t.width
  { d with
    m := List.replicate n 0
    v := if t.isFactored then [] else List.replicate n 0
    r := if t.isFactored then List.replicate (rows * t.rank) 0 else []
    cols := if t.isFactored then List.replicate t.width 0 else []
    mu := if t.isFactored then List.replicate t.rank one32 else [] }

/-! ### Scalars (R242) -/

def UpdTensor.scalars (t : UpdTensor) (lr applied : Nat) : Scalars :=
  let n := applied + 1
  let corr := fun (b : Nat) => narrow32 (dDiv d1 (dSub d1 (dPow (wide64 b) n)))
  let eta := dMul (wide64 lr) (wide64 t.lrMult.toNat)
  let dk := if t.decay = 1 then dMul eta (wide64 t.weightDecay.toNat) else 0
  ⟨BitVec.ofNat 32 (narrow32 eta), BitVec.ofNat 32 (narrow32 dk), BitVec.ofNat 32 (corr t.beta1.toNat), BitVec.ofNat 32 (corr t.beta2.toNat)⟩

/-- clip of R242. -/
def clipFactor (clipNorm g : Nat) : Nat :=
  if fAbs clipNorm = 0 ∨ f32Le g clipNorm then one32 else narrow32 (dDiv (wide64 clipNorm) (wide64 g))

/-! ### The learning-rate schedule (R245) -/

def lrSegments (b : Bytes) : List LrSegment :=
  (chunks 16 b).map fun s => ⟨BitVec.ofNat 32 (u32At s 0), BitVec.ofNat 8 (u8At s 4), BitVec.ofNat 32 (u32At s 8), BitVec.ofNat 32 (u32At s 12)⟩

def usedSegments (l : List LrSegment) : List LrSegment := l.takeWhile fun s => s.start != 0xFFFFFFFF

/-- Scheduled rate for a count of applied updates. -/
def scheduledRate (b : Bytes) (n : Nat) : Nat :=
  let l := usedSegments (lrSegments b)
  let i := (l.filter fun s => decide (s.start.toNat ≤ n)).length - 1
  match l[i]? with
  | none => 0
  | some s =>
    let x := n - s.start.toNat
    let len := ((l[i + 1]?).map fun y => y.start.toNat - s.start.toNat).getD 1
    let p0 := wide64 s.p0.toNat
    let p1 := wide64 s.p1.toNat
    let xd := dOfNat x
    match s.kind.toNat with
    | 0 => s.p0.toNat
    | 1 => narrow32 (dAdd p0 (dDiv (dMul (dSub p1 p0) xd) (dOfNat len)))
    | 2 => narrow32 (dAdd p1 (dDiv (dMul (dSub p0 p1) (dAdd d1 (Config.cosPi x len).toNat)) (dOfNat 2)))
    | _ => narrow32 (dDiv p0 (Fmt.f64.sqrt false .rne (dAdd d1 (dDiv xd p1))).1)

/-- Finite and at least 0. -/
def nonNegative (a : Nat) : Bool := fFinite a && (decide (a < 2 ^ 31) || a == 2 ^ 31)

/-- The rules of R245: offset of the field that breaks one. -/
def scheduleBad (b : Bytes) : Option Nat :=
  let all := lrSegments b
  let l := usedSegments all
  let n := l.length
  if b.length ≠ 1024 then some b.length
  else if l.isEmpty then some 0
  else
    ((List.range n).findSome? fun i =>
      match l[i]? with
      | none => none
      | some s =>
        let o := 16 * i
        let prev := if i = 0 then 0 else ((l[i - 1]?).map (·.start.toNat)).getD 0
        firstOf [
          (if i = 0 then s.start != 0 else decide (s.start.toNat ≤ prev), o),
          (decide (3 < s.kind.toNat) || (i + 1 == n && s.kind != 0 && s.kind != 3), o + 4),
          (leAt b (o + 5) 3 != 0, o + 5),
          (!nonNegative s.p0.toNat, o + 8),
          (s.kind != 0 && !nonNegative s.p1.toNat, o + 12),
          (s.kind == 3 && fAbs s.p1.toNat == 0, o + 12)])
where
  firstOf : List (Bool × Nat) → Option Nat
    | [] => none
    | (x, o) :: r => if x then some o else firstOf r

end Sys2Proof.Machine
end

