-- ==== Sys2Proof/Machine/RoundOps.lean ====
section
/-! DEFINITION. Machine/RoundOps.lean: the round state of a shard in LPDDR6 (R334, R335), the close of a round (R336) and
the merge with the outer optimiser (R344, R345), element by element. -/

namespace Sys2Proof.Machine

/-! ### Round state -/

/-- Tag of an empty round block, or of a delta area without a pending round. -/
def noRound : Nat := 0xFFFFFFFF

/-- Offsets of the planes of a round block: base, momentum, feedback residual. -/
def roundPlane (pair : Bool) (n i : Nat) : Nat :=
  let base := alignUp 4096 (n * if pair then 8 else 4)
  if i = 0 then 4096 else if i = 1 then 4096 + base else 4096 + base + alignUp 4096 (4 * n)

/-- Bytes of a round block slot, and of a delta area. -/
def roundBlockBytes (pair : Bool) (n : Nat) : Nat := roundPlane pair n 2 + 4 * n
def deltaAreaBytes (n : Nat) : Nat := 4096 + alignUp 4096 (4 * n) + 4 * n

/-- C of Table 13-2: bytes of one outbound or receive slot. -/
def deltaSlotBytes (fmt rows cols : Nat) : Nat := imageCount rows cols * imageBytes fmt

/-- A round block: base planes, momentum, feedback residual. -/
structure RoundBlock where
  bHi : List Nat
  bLo : List Nat
  v : List Nat
  e : List Nat
deriving DecidableEq, Repr, Inhabited

def RoundBlock.ofBytes (pair : Bool) (n : Nat) (b : Bytes) : RoundBlock where
  bHi := f32List b 4096 n
  bLo := if pair then f32List b (4096 + 4 * n) n else []
  v := f32List b (roundPlane pair n 1) n
  e := f32List b (roundPlane pair n 2) n

def RoundBlock.bytes (x : RoundBlock) (round shard : Nat) : Bytes :=
  let pad := fun (b : Bytes) => b ++ zeros (alignUp 4096 b.length - b.length)
  pad (leBytes 4 round ++ leBytes 4 shard ++ zeros 24) ++ pad (f32Bytes x.bHi ++ f32Bytes x.bLo) ++ pad (f32Bytes x.v) ++
  f32Bytes x.e

/-- A delta area: the round it holds, D_TRUE and E_NEW. -/
def deltaArea (round : Nat) (dTrue eNew : List Nat) : Bytes :=
  let pad := fun (b : Bytes) => b ++ zeros (alignUp 4096 b.length - b.length)
  pad (leBytes 4 round ++ zeros 28) ++ pad (f32Bytes dTrue) ++ f32Bytes eNew

/-! ### The close (R336) -/

structure CloseOut where
  dTrue : List Nat
  eNew : List Nat
  /-- Images as the outbound slot holds them, at DELTA_RATE, and what was dropped. -/
  images : List Bytes
  dropped : Nat
  nonfinite : Bool
  flags : Nat

/-- The delta of each element from base and weights. -/
def deltaOf (b : RoundBlock) (d : ShardData) : List FV :=
  (List.range d.wHi.length).map fun n =>
    uAdd (uSub (fv (b.bHi.getD n 0)) (fv (d.wHi.getD n 0))) (uSub (fv (b.bLo.getD n 0)) (fv (d.wLo.getD n 0)))

/-- x of a delta, as the images of the outbound slot with what their decoding reads and what was dropped, and the flags
of the conversion. -/
def deltaImages (fmt rate key tensor rowFirst rows cols : Nat) (sr : Bool) (x : List Nat) :
    Flagged (List (Bytes × Bytes × Nat)) :=
  let q := convertTensor fmt true 0 rows cols (fun i j => Fmt.f32.decode (x.getD (i * cols + j) 0)) fun i j =>
    rndOf (if sr then 4 else 0) key tensor (rowFirst * cols + i * cols + j)
  (q.1.map fun im =>
    if rate = 0 then (im, im, 0)
    else
      let e := encodeImage fmt rate im
      (e.image, (decodeImage fmt rate e.image).getD im, e.dropped.length), q.2)

/-- x of R336: what is compressed and sent. -/
def deltaX (feedback : Bool) (b : RoundBlock) (dt : List FV) : List FV :=
  if feedback then dt.zipWith (fun d e => uAdd d (fv e)) b.e else dt

/-- The close of one shard. -/
def closeShard (fmt rate key tensor rowFirst rows cols : Nat) (sr feedback : Bool) (b : RoundBlock) (d : ShardData) : CloseOut :=
  let dt := deltaOf b d
  let x := deltaX feedback b dt
  let q := deltaImages fmt rate key tensor rowFirst rows cols sr (x.map Prod.fst)
  let dec := q.1.map (fun (y : Bytes × Bytes × Nat) => y.2.1)
  let eNew := if feedback then (List.range x.length).map fun n =>
      uSub (x.getD n (fv 0)) (uNum (imageValue fmt 0 dec cols (n / cols) (n % cols)))
    else x.map fun _ => fv 0
  ⟨dt.map Prod.fst, eNew.map Prod.fst, q.1.map (fun (y : Bytes × Bytes × Nat) => y.1), q.1.foldl (fun n y => n + y.2.2) 0,
    x.any fun v => !fFinite v.1, flagsOf x ||| q.2 ||| flagsOf eNew⟩

/-! ### The merge (R344, R345) -/

/-- ω of a staleness: STALE_FACTOR^s, rounded once. -/
def staleWeight (factor s : Nat) : Nat := narrow32 (dPow (wide64 factor) s)

/-- One contribution taken: its weight and its decoded images. -/
structure Taken where
  weight : Nat
  images : List Bytes

structure MergeOut where
  block : RoundBlock
  shard : ShardData
  flags : Nat

/-- Sum of the weights. -/
def weightSum (l : List Nat) : Nat := l.foldl fAdd 0

/-- Base, momentum and weights of one element after a merge. -/
structure MergedElem where
  bHi : FV
  bLo : FV
  v : FV
  wHi : FV
  wLo : FV

/-- One element of the merge: `ds` are the weighted contributions' weights and values. -/
def mergeElem (t : UpdTensor) (fast : Bool) (mu lr w : Nat) (zero : Bool) (ds : List (Nat × FV)) (bh bl v dt wh wl : Nat) :
    MergedElem :=
  let s := ds.foldl (fun (s : FV × FV) x => uPair s.1 s.2 (uMul (fv x.1) x.2)) (fv 0, fv 0)
  let mg := if fAbs w = 0 then fv 0 else uDiv fast s.1 (fv w)
  let v := uFma (fv mu) (fv v) mg
  let step := uMul (fv lr) (uFma (fv mu) v mg)
  let b := if t.isPair then uPair (fv bh) (fv bl) (uNeg step) else (uSub (fv bh) step, fv 0)
  let corr := uSub (fv dt) step
  let wn := if zero then (b.1, fv 0)
    else if t.isPair then uPair (fv wh) (fv wl) corr
    else (uAdd (fv wh) corr, fv 0)
  ⟨b.1, b.2, v, wn.1, wn.2⟩

/-- The merge of one shard after its inner update, its compute copy not yet converted; `zero` is R345. -/
def mergeShard (t : UpdTensor) (u : UpdIn) (fmt mu lr rows : Nat) (zero : Bool) (l : List Taken) (b : RoundBlock)
    (dTrue eNew : List Nat) (d : ShardData) : MergeOut :=
  let cols := t.width
  let w := weightSum (l.map (·.weight))
  let els : List MergedElem := (List.range (rows * cols)).map fun n =>
    mergeElem t u.fast mu lr w zero
      (l.map fun x => (x.weight, uNum (imageValue fmt 0 x.images cols (n / cols) (n % cols))))
      (b.bHi.getD n 0) (b.bLo.getD n 0) (b.v.getD n 0) (dTrue.getD n 0) (d.wHi.getD n 0) (d.wLo.getD n 0)
  let fl := els.foldl (fun a x => a ||| x.bHi.2 ||| x.bLo.2 ||| x.v.2 ||| x.wHi.2 ||| x.wLo.2) 0
  let nb : RoundBlock := ⟨els.map (fun x => x.bHi.1), if t.isPair then els.map (fun x => x.bLo.1) else [], els.map (fun x => x.v.1),
    if zero then els.map (fun _ => 0) else eNew⟩
  let d := { d with wHi := els.map (fun x => x.wHi.1), wLo := if t.isPair then els.map (fun x => x.wLo.1) else [] }
  ⟨nb, if zero then t.zeroMoments rows d else d, fl⟩

end Sys2Proof.Machine
end

