-- ==== Sys2Proof/Machine/SlkFec.lean ====
section
/-! DEFINITION. Machine/SlkFec.lean: what a site-link packet is made of: the header's bytes (Table 14-3), the keys of R372,
and the packet FEC of R377 over GF(2^16). -/

namespace Sys2Proof.Machine

/-! ### The header (R366) -/

/-- The 48 bytes of the header, big-endian. -/
def slkHeaderBytes (h : SlkHeader) : Bytes :=
  [h.vt, h.flags, h.cls, h.srcSite, h.dstSite, h.parityCount, h.groupIndex, h.groupSize] ++
  beBytes 2 h.srcModule.toNat ++ beBytes 2 h.dstModule.toNat ++ beBytes 2 h.stream.toNat ++ beBytes 2 h.reserved0.toNat ++
  beBytes 4 h.epoch.toNat ++ beBytes 4 h.group.toNat ++ beBytes 8 h.pn.toNat ++ beBytes 4 h.round.toNat ++
  beBytes 4 h.fragment.toNat ++ beBytes 4 h.msgFragments.toNat ++ beBytes 4 h.reserved1.toNat

/-- A header read back from its bytes. -/
def slkHeaderOf (b : Bytes) : SlkHeader where
  vt := BitVec.ofNat 8 (beAt b 0 1)
  flags := BitVec.ofNat 8 (beAt b 1 1)
  cls := BitVec.ofNat 8 (beAt b 2 1)
  srcSite := BitVec.ofNat 8 (beAt b 3 1)
  dstSite := BitVec.ofNat 8 (beAt b 4 1)
  parityCount := BitVec.ofNat 8 (beAt b 5 1)
  groupIndex := BitVec.ofNat 8 (beAt b 6 1)
  groupSize := BitVec.ofNat 8 (beAt b 7 1)
  srcModule := BitVec.ofNat 16 (beAt b 8 2)
  dstModule := BitVec.ofNat 16 (beAt b 10 2)
  stream := BitVec.ofNat 16 (beAt b 12 2)
  reserved0 := BitVec.ofNat 16 (beAt b 14 2)
  epoch := BitVec.ofNat 32 (beAt b 16 4)
  group := BitVec.ofNat 32 (beAt b 20 4)
  pn := BitVec.ofNat 64 (beAt b 24 8)
  round := BitVec.ofNat 32 (beAt b 32 4)
  fragment := BitVec.ofNat 32 (beAt b 36 4)
  msgFragments := BitVec.ofNat 32 (beAt b 40 4)
  reserved1 := BitVec.ofNat 32 (beAt b 44 4)

def slkHeaderSize : Nat := 48

/-- Bytes of a frame on the port: MAC addresses and EtherType, header, body, FCS. -/
def slkFrameBytes (f : SlkFrame) : Nat := 14 + slkHeaderSize + f.body.length + 4

/-! ### Keys (R372) -/

/-- "CW4872 site link" in ASCII. -/
def slkLabel : Bytes := [0x43, 0x57, 0x34, 0x38, 0x37, 0x32, 0x20, 0x73, 0x69, 0x74, 0x65, 0x20, 0x6C, 0x69, 0x6E, 0x6B]

/-- A key of one direction: two PRF blocks of the KDF in counter mode. -/
def slkKdf (master : Bytes) (srcSite dstSite srcModule dstModule start epoch : Nat) : Bytes :=
  let tail := slkLabel ++ [0#8] ++ beBytes 1 srcSite ++ beBytes 1 dstSite ++ beBytes 2 srcModule ++ beBytes 2 dstModule ++
    beBytes 8 start ++ beBytes 4 epoch ++ beBytes 4 256
  cmac master (beBytes 4 1 ++ tail) ++ cmac master (beBytes 4 2 ++ tail)

/-- Epoch of the hello key. -/
def helloEpoch : Nat := 0xFFFFFFFF

/-- Nonce of a packet: four zero bytes and PN. -/
def slkNonce (pn : Nat) : Bytes := zeros 4 ++ beBytes 8 pn

/-! ### GF(2^16) with x^16 + x^12 + x^3 + x + 1 -/

def gf16Double (a : Nat) : Nat := if 32768 ≤ a then (2 * a) ^^^ 0x1100B else 2 * a

def gf16MulAux : Nat → Nat → Nat → Nat → Nat
  | 0, _, _, acc => acc
  | n + 1, a, b, acc => gf16MulAux n (gf16Double a) (b / 2) (if b % 2 = 1 then acc ^^^ a else acc)

def gf16Mul (a b : Nat) : Nat := gf16MulAux 16 a b 0

/-- Product of the powers a^2, a^4, … up to a^(2^15): a^(2^16 − 2). -/
def gf16InvAux : Nat → Nat → Nat → Nat
  | 0, _, acc => acc
  | n + 1, sq, acc => let s := gf16Mul sq sq; gf16InvAux n s (gf16Mul acc s)

def gf16Inv (a : Nat) : Nat := gf16InvAux 15 a 1

/-- (x_j ⊕ y_i)^−1 with x_j = 64 + j and y_i = i. -/
def cauchy (j i : Nat) : Nat := gf16Inv ((64 + j) ^^^ i)

/-- a · x added to `acc`, symbol by symbol. -/
def gf16Axpy (a : Nat) (x acc : List Nat) : List Nat := acc.zipWith (fun s v => s ^^^ gf16Mul a v) x

/-! ### Coded units and parity (R377) -/

/-- Coded unit of a sealed packet, before padding: its length, then header through tag. -/
def codedUnit (packet : Bytes) : Bytes := beBytes 2 packet.length ++ packet

/-- Symbols of a unit padded to `n` bytes. -/
def unitSymbols (n : Nat) (unit : Bytes) : List Nat := (chunks 2 (padTo n unit)).map beNat

def symbolBytes (l : List Nat) : Bytes := (l.map (beBytes 2)).flatten

/-- Length of the group's longest unit, made even. -/
def unitSpan (units : List Bytes) : Nat := alignUp 2 (units.foldl (fun m u => Nat.max m u.length) 0)

/-- Symbols of parity packet j over the units of a group. -/
def paritySymbols (units : List Bytes) (j : Nat) : List Nat :=
  let n := unitSpan units
  ((List.range units.length).zip units).foldl (fun acc x => gf16Axpy (cauchy j x.1) (unitSymbols n x.2) acc)
    (List.replicate (n / 2) 0)

/-! ### Reconstruction (R379) -/

/-- One step of the elimination: row `k` is normed and taken out of every other. -/
def gf16Pivot (rows : List (List Nat)) (k : Nat) : List (List Nat) :=
  let r := rows.getD k []
  let inv := gf16Inv (r.getD k 0)
  let r := r.map (gf16Mul inv)
  ((List.range rows.length).zip rows).map fun x => if x.1 = k then r else gf16Axpy (x.2.getD k 0) r x.2

/-- Missing units, in the order of `missing`: the parity symbols less what the units held give, under the inverse of the
Cauchy matrix. -/
def recoverUnits (n : Nat) (held : List (Nat × Bytes)) (parity : List (Nat × Bytes)) (missing : List Nat) : List Bytes :=
  let rows := (parity.take missing.length).map fun p =>
    let rest := held.foldl (fun acc u => gf16Axpy (cauchy p.1 u.1) (unitSymbols n u.2) acc) (unitSymbols n p.2)
    missing.map (cauchy p.1) ++ rest
  let done := (List.range missing.length).foldl gf16Pivot rows
  done.map fun r => symbolBytes (r.drop missing.length)

/-- A packet's bytes from its unit. -/
def unitPacket (u : Bytes) : Bytes := (u.drop 2).take (beAt u 0 2)

end Sys2Proof.Machine
end

