-- ==== Sys2Proof/Machine/SlkOps.lean ====
section
/-! DEFINITION. Machine/SlkOps.lean: the sending side of the site links (R363 to R381): ports, sessions and their keys,
sealing, FEC groups, flow contexts and messages. -/

namespace Sys2Proof.Machine

/-! ### Ports and partners -/

def Chip.slkUp (c : Chip) (p : Nat) : Bool := c.reg (Obj.slkPortState p) == 2

/-- Next up port after `p`, in turn (R384). -/
def Chip.slkNextPort (c : Chip) : Option Nat := ([c.slk.nextPort % 2, (c.slk.nextPort + 1) % 2]).find? c.slkUp

/-- Key of a partner module. -/
def slkPartner (site module : Nat) : Nat := site * 65536 + module
def partnerSite (p : Nat) : Nat := p / 65536
def partnerModule (p : Nat) : Nat := p % 65536

/-- This module's own number and site, as its frames carry them. -/
def Chip.slkModule (c : Chip) : Nat := c.reg Obj.bzModuleNumber
def Chip.slkSite (c : Chip) : Nat := c.reg Obj.rndSiteIndex

/-- The module of this module's own number at a site, with which rounds are exchanged (R329). -/
def Chip.slkPeer (c : Chip) (site : Nat) : Nat := slkPartner site c.slkModule

/-- SLK_STATE (Table 14-7). -/
def Chip.slkRefresh (c : Chip) : Chip :=
  let v := if !(c.slkUp 0 || c.slkUp 1) then 0 else if c.slk.sessions.any fun e => e.2.up then 2 else 1
  c.setReg Obj.slkState v

/-- The MAC header of a site-link frame (R366). -/
def Chip.slkMac (c : Chip) (h : SlkHeader) : MacHeader :=
  let addr (site n : Nat) := BitVec.ofNat 48 (0x024C * 2 ^ 32 + c.reg Obj.slkDomain * 2 ^ 24 + site * 2 ^ 16 + n)
  ⟨addr h.dstSite.toNat h.dstModule.toNat, addr h.srcSite.toNat h.srcModule.toNat,
    BitVec.ofNat 16 (c.reg Obj.slkEthertype)⟩

/-- A frame leaves on a port. -/
def Chip.slkEmit (c : Chip) (p : Nat) (f : SlkFrame) : Chip :=
  (c.count (Obj.slkPortBytesTx p) (slkFrameBytes f) 64).emit (.slk p (c.slkMac f.hdr) f)

/-! ### Use of the cipher engine (R373, R391) -/

/-- A request that the site links make of the cipher engine is counted there. -/
def Chip.cipherUsed (c : Chip) (bytes : Nat) (ok : Bool) : Chip :=
  let c := (c.count Obj.cipherRequests 1 64).count Obj.cipherBytes bytes 64
  if ok then c else c.count Obj.cipherAuthFailed 1 64

/-- Key of a slot that holds type 1. -/
def Chip.slotKey (c : Chip) (n : Nat) : Option Bytes :=
  let k := Sparse.get (⟨0, []⟩ : KeySlot) c.cipher.slots n
  if k.type = 1 then some k.key else none

def Chip.setSlot (c : Chip) (n : Nat) (k : KeySlot) : Chip :=
  { c with cipher := { c.cipher with slots := Sparse.put ⟨0, []⟩ c.cipher.slots n k } }

/-! ### Sessions and their keys (R371 to R375) -/

/-- Places of a session's keys from its base slot on. -/
def keyHelloTx : Nat := 0
def keyHelloRx : Nat := 1
def keyTx : Nat := 2
def keyTxNext : Nat := 3
def keyRxPrev : Nat := 4
def keyRx : Nat := 5
def keyRxNext : Nat := 6

/-- Site-link slots serve 128 sessions, eight slots each (DESIGN CHOICE, assumption log 45). -/
def sessionBase (i : Nat) : Nat := 3072 + 8 * i
def sessionsMax : Nat := 128

def SlkSession.start (base : Nat) : SlkSession := ⟨base, none, false, false, false, 0, 0, false, 0, false, false, 0, false⟩

def Chip.session (c : Chip) (p : Nat) : Option SlkSession := (c.slk.sessions.find? fun e => e.1 == p).map fun e => e.2

def Chip.setSession (c : Chip) (p : Nat) (s : SlkSession) : Chip :=
  { c with slk := { c.slk with sessions := Sparse.insert c.slk.sessions p s } }

/-- The partner's session, begun where there is none and a place for its keys is free. -/
def Chip.openSession (c : Chip) (p : Nat) : Chip :=
  match c.session p with
  | some _ => c
  | none =>
    match (List.range sessionsMax).find? fun i => !(c.slk.sessions.any fun e => e.2.base == sessionBase i) with
    | none => c
    | some i => c.setSession p (SlkSession.start (sessionBase i))

/-- A key of the direction from this module to the partner, or from the partner, derived under the master key of
SLK_MASTER_SLOT into a slot; the slot stays empty without a master key. -/
def Chip.deriveKey (c : Chip) (p slot : Nat) (out : Bool) (start epoch : Nat) : Chip :=
  match c.slotKey (c.reg Obj.slkMasterSlot) with
  | none => c.setSlot slot ⟨0, []⟩
  | some m =>
    let s := c.slkSite
    let n := c.slkModule
    let k := if out then slkKdf m s (partnerSite p) n (partnerModule p) start epoch
      else slkKdf m (partnerSite p) s (partnerModule p) n start epoch
    (c.setSlot slot ⟨1, k⟩).cipherUsed 0 true

/-- The epochs of a partner module of this module's own number are those of SLK_PARTNER_EPOCH_TX and _RX. -/
def Chip.showEpochs (c : Chip) (p : Nat) : Chip :=
  match c.session p with
  | none => c
  | some s =>
    if p = c.slkPeer (partnerSite p) ∧ partnerSite p < 64 then
      (c.setReg (Obj.slkPartnerEpochTx (partnerSite p)) s.epochTx.toNat).setReg (Obj.slkPartnerEpochRx (partnerSite p)) s.epochRx.toNat
    else c

/-- The transmit direction begins an epoch: its key and the next one. -/
def Chip.beginEpoch (c : Chip) (p : Nat) (e : BitVec 32) : Chip :=
  match c.session p with
  | none => c
  | some s =>
    let own := c.reg Obj.startCount
    let c := c.setSession p { s with epochTx := e, pnTx := 0, used := true }
    ((c.deriveKey p (s.base + keyTx) true own e.toNat).deriveKey p (s.base + keyTxNext) true own (e + 1).toNat).showEpochs p

/-- R374: the direction moves to the next epoch. -/
def Chip.nextEpoch (c : Chip) (p : Nat) : Chip :=
  match c.session p with
  | none => c
  | some s => c.beginEpoch p (s.epochTx + 1)

/-- The receive direction stands at an epoch; the previous one is live only where it is said to be. -/
def Chip.beginReceive (c : Chip) (p : Nat) (e : BitVec 32) (known previous : Bool) : Chip :=
  match c.session p with
  | none => c
  | some s =>
    let start := (s.peerStart.map fun x => x.toNat).getD 0
    let old := Sparse.get (⟨0, []⟩ : KeySlot) c.cipher.slots (s.base + keyRx)
    let c := c.setSlot (s.base + keyRxPrev) (if previous then old else ⟨0, []⟩)
    let c := c.setSession p { s with epochRx := e, rxKnown := known, previous := previous }
    ((c.deriveKey p (s.base + keyRx) false start e.toNat).deriveKey p (s.base + keyRxNext) false start (e + 1).toNat).showEpochs p

/-! ### Sealing (R373) -/

/-- A header of this module for a partner, with what every kind carries. -/
def Chip.slkHeader (c : Chip) (p kind cls stream : Nat) : SlkHeader :=
  ⟨BitVec.ofNat 8 (16 + kind), 0, BitVec.ofNat 8 cls, BitVec.ofNat 8 c.slkSite, BitVec.ofNat 8 (partnerSite p), 0, 0, 0,
    BitVec.ofNat 16 c.slkModule, BitVec.ofNat 16 (partnerModule p), BitVec.ofNat 16 stream, 0, 0, 0, 0, 0, 0, 0, 0⟩

/-- A packet sealed under the epoch in force with the next PN; nothing where there is no key. -/
def Chip.slkSeal (c : Chip) (p : Nat) (h : SlkHeader) (plain : Bytes) : Option SlkFrame × Chip :=
  let c := match c.session p with
    | some s => if c.reg Obj.slkRekeyPackets ≤ s.pnTx then c.nextEpoch p else c
    | none => c
  match c.session p with
  | none => (none, c)
  | some s =>
    match c.slotKey (s.base + keyTx) with
    | none => (none, c)
    | some k =>
      let h := { h with epoch := s.epochTx, pn := BitVec.ofNat 64 s.pnTx }
      let x := gcmSeal k (slkNonce s.pnTx) (slkHeaderBytes h) plain
      let c := (c.setSession p { s with pnTx := s.pnTx + 1 }).cipherUsed (plain.length + slkHeaderSize) true
      (some ⟨true, true, h, x.1 ++ x.2⟩, c)

/-- A sealed control packet leaves on the next up port. -/
def Chip.slkControl (c : Chip) (p kind : Nat) (plain : Bytes) : Chip :=
  match c.slkNextPort with
  | none => c
  | some port =>
    match c.slkSeal p (c.slkHeader p kind 1 (0x1000 + c.slkModule)) plain with
    | (some f, c) => ({ c with slk := { c.slk with nextPort := port + 1 } }).slkEmit port f
    | (none, c) => c

/-- Hello: group, own start counter, the partner's as last seen, and the tag (R371). -/
def Chip.slkHelloTo (c : Chip) (p : Nat) : Chip :=
  match c.slkNextPort with
  | none => c
  | some port =>
    let c := c.openSession p
    match c.session p with
    | none => c
    | some s =>
      let c := c.deriveKey p (s.base + keyHelloTx) true 0 helloEpoch
      match c.slotKey (s.base + keyHelloTx) with
      | none => c
      | some k =>
        let h := c.slkHeader p 3 1 0
        let fields := beBytes 8 (c.reg Obj.rndGroupId) ++ beBytes 8 (c.reg Obj.startCount) ++
          beBytes 8 ((s.peerStart.map fun x => x.toNat).getD 0)
        let c := c.cipherUsed (slkHeaderSize + 24) true
        ({ c with slk := { c.slk with nextPort := port + 1 } }).slkEmit port
          ⟨true, true, h, fields ++ cmac k (slkHeaderBytes h ++ fields)⟩

/-! ### FEC groups (R377, R378) -/

/-- A group closes: its parity packets follow on its port. -/
def Chip.fecClose (c : Chip) (g : FecTx) : Chip :=
  let c := { c with slk := { c.slk with fecTx := c.slk.fecTx.filter fun x => x != g } }
  c.each (List.range g.parity) fun c j =>
    let h := { c.slkHeader g.partner 1 0 0 with
      parityCount := BitVec.ofNat 8 g.parity, groupIndex := BitVec.ofNat 8 (64 + j), groupSize := BitVec.ofNat 8 g.units.length
      group := g.group }
    c.slkEmit g.port ⟨true, true, h, symbolBytes (paritySymbols g.units j)⟩

/-- The group a data packet joins; one of another parity is closed first. -/
def Chip.fecJoin (c : Chip) (port p parity : Nat) : FecTx × Chip :=
  let fresh := fun (c : Chip) =>
    let g : FecTx := ⟨port, p, BitVec.ofNat 32 c.slk.nextGroup, [], parity⟩
    (g, { c with slk := { c.slk with nextGroup := c.slk.nextGroup + 1, fecTx := c.slk.fecTx ++ [g] } })
  match c.slk.fecTx.find? fun g => g.port == port && g.partner == p with
  | none => fresh c
  | some g => if g.parity = parity then (g, c) else fresh (c.fecClose g)

/-- A sealed data packet is in its group, which closes at 64. -/
def Chip.fecPut (c : Chip) (g : FecTx) (f : SlkFrame) : Chip :=
  let g' := { g with units := g.units ++ [codedUnit (slkHeaderBytes f.hdr ++ f.body)] }
  let l := c.slk.fecTx.map fun x => if x = g then g' else x
  let c := { c with slk := { c.slk with fecTx := l } }
  if 64 ≤ g'.units.length then c.fecClose g' else c

/-! ### Flow contexts and messages (R367, R369, R370) -/

def FlowContext.blank : FlowContext := ⟨0, 0, 0, 0, 0, 0, 0, 0, 0, [], [], [], [], 0, none, [], none⟩

/-- Context of round traffic: site, class and direction (0 transmit, 1 receive). -/
def roundContext (site cls dir : Nat) : Nat := 6 * site + 2 * cls + dir

/-- A context as it stands: those of round traffic take site, class, stream and parity from their number. -/
def Chip.context (c : Chip) (n : Nat) : FlowContext :=
  let x := Sparse.get FlowContext.blank c.slk.contexts n
  if n < 384 then
    { x with
      state := if n % 2 = 0 then 1 else 2, cls := BitVec.ofNat 8 (n % 6 / 2), site := n / 6, parity := c.reg Obj.slkRoundParity
      stream := BitVec.ofNat 16 (n % 6 / 2 * 0x1000 + c.slkModule), partnerModule := BitVec.ofNat 16 c.slkModule }
  else x

def Chip.setContext (c : Chip) (n : Nat) (x : FlowContext) : Chip :=
  let y := if n < 384 then { FlowContext.blank with
      rx := x.rx, tx := x.tx, completed := x.completed, toAck := x.toAck, unackedRx := x.unackedRx, number := x.number, ready := x.ready }
    else x
  { c with slk := { c.slk with contexts := Sparse.put FlowContext.blank c.slk.contexts n y } }

/-- Partner module of a context. -/
def FlowContext.partner (x : FlowContext) : Nat := slkPartner x.site x.partnerModule.toNat

def fragmentBytes : Nat := 8192
def fragmentWindow : Nat := 262144

def TxMessage.count (m : TxMessage) : Nat := ceilDiv m.bytes.length fragmentBytes

/-- A fragment is formed from its source, sealed and sent (R381, R384); `again` marks a re-send. It stays unsent without
a session, a key or a port. -/
def Chip.slkFragment (c : Chip) (n : Nat) (m : TxMessage) (f : Nat) (again : Bool) : Bool × Chip :=
  let x := c.context n
  let p := x.partner
  match c.slkNextPort, c.session p with
  | some port, some s =>
    if !s.up || (c.slotKey (s.base + keyTx)).isNone then (false, c)
    else
      let h := { c.slkHeader p 0 x.cls.toNat x.stream.toNat with
        flags := BitVec.ofNat 8 ((if f = 0 then 1 else 0) + (if again then 2 else 0) + if f + 1 = m.count then 4 else 0)
        round := m.round, fragment := BitVec.ofNat 32 f, msgFragments := BitVec.ofNat 32 m.count }
      let body := slice m.bytes (f * fragmentBytes) fragmentBytes
      let c := { c with slk := { c.slk with nextPort := port + 1 } }
      if x.parity = 0 then
        match c.slkSeal p h body with
        | (some y, c) => (true, c.slkEmit port y)
        | (none, c) => (false, c)
      else
        let (g, c) := c.fecJoin port p x.parity
        let h := { h with
          parityCount := BitVec.ofNat 8 x.parity, groupIndex := BitVec.ofNat 8 g.units.length, group := g.group }
        match c.slkSeal p h body with
        | (some y, c) => (true, (c.slkEmit port y).fecPut g y)
        | (none, c) => (false, c)
  | _, _ => (false, c)

/-- The fragments of a message not yet sent leave, as far as the partner's window reaches; `k` bounds them. -/
def Chip.pumpMessage (c : Chip) (n : Nat) (m : TxMessage) : Nat → TxMessage × Chip
  | 0 => (m, c)
  | k + 1 =>
    if m.next < m.count ∧ m.next < m.base + fragmentWindow then
      match c.slkFragment n m m.next false with
      | (true, c) => c.pumpMessage n { m with next := m.next + 1 } k
      | (false, c) => (m, c)
    else (m, c)

/-- Every message of a transmit context goes on as far as it can. -/
def Chip.pumpContext (c : Chip) (n : Nat) : Chip :=
  let r := (c.context n).tx.foldl (fun (a : List TxMessage × Chip) m =>
    let (m, c) := a.2.pumpMessage n m (m.count + 1)
    (a.1 ++ [m], c)) ([], c)
  r.2.setContext n { r.2.context n with tx := r.1 }

/-- A message joins a transmit context (R367). An empty one has no fragment. -/
def Chip.contextSend (c : Chip) (n : Nat) (round : BitVec 32) (b : Bytes) : Chip :=
  if b.isEmpty then c
  else
    let x := c.context n
    let kept := x.tx.filter fun m => m.round != round
    (c.setContext n { x with tx := kept ++ [⟨round, b, 0, 0, []⟩] }).pumpContext n

/-- The same under the next message number of the context, counted from 0 (DESIGN CHOICE, assumption log 46). -/
def Chip.contextSendNext (c : Chip) (n : Nat) (b : Bytes) : Chip :=
  let x := c.context n
  let k := x.number.getD 0
  (c.setContext n { x with number := some (k + 1) }).contextSend n (BitVec.ofNat 32 k) b

/-- A contribution goes to the partner module of a site, with its round in the fragment identity (R338). -/
def Chip.slkContribution (c : Chip) (site round : Nat) (b : Bytes) : Chip :=
  c.contextSend (roundContext site 0 0) (BitVec.ofNat 32 round) b

/-- Own contributions whose outbound slot another round takes are withdrawn (R338, R381). -/
def Chip.slkWithdrawTx (c : Chip) (sites : List Nat) (before : Nat) : Chip :=
  c.each sites fun c j =>
    let n := roundContext j 0 0
    let x := c.context n
    c.setContext n { x with tx := x.tx.filter fun m => decide (before ≤ m.round.toNat) }

/-- A contribution of a partner is given up: its window is free (R346, R382). -/
def Chip.slkWithdrawRx (c : Chip) (site round : Nat) : Chip :=
  let n := roundContext site 0 1
  let x := c.context n
  c.setContext n { x with rx := x.rx.filter fun m => m.round.toNat != round }

/-- Every incomplete message to a partner counts as unsent, and goes out again (R385). -/
def Chip.slkResendAll (c : Chip) (p : Nat) : Chip :=
  let ns := (c.slk.contexts.map fun e => e.1).filter fun n => let x := c.context n; x.state == 1 && x.partner == p
  c.each ns fun c n =>
    let x := c.context n
    (c.setContext n { x with tx := x.tx.map fun m => { m with next := 0, base := 0, held := [] } }).pumpContext n

end Sys2Proof.Machine
end

