-- ==== Sys2Proof/Machine/Update.lean ====
section
/-! DEFINITION. Machine/Update.lean: the update of committed parameter state (R242 to R254): shard headers, the journal,
one shard's update with the merge and close of its round state, and the engines' order. -/

namespace Sys2Proof.Machine

/-! ### Shard headers (R247, R248) -/

abbrev Ver := Nat × Nat

/-- The version of an empty slot. -/
def noVersion : Ver := (0xFFFFFFFF, 0xFFFFFFFF)

/-- A version ordered by round and then step. -/
def Ver.before (a b : Ver) : Bool := decide (a.1 < b.1) || (a.1 == b.1 && decide (a.2 < b.2))

structure ShardHeader where
  v0 : Ver
  v1 : Ver
  active : Nat
  shard : Nat
  applied0 : Nat
  applied1 : Nat
deriving DecidableEq, Repr, Inhabited

def ShardHeader.ofBytes (b : Bytes) : ShardHeader :=
  ⟨(u32At b 0, u32At b 4), (u32At b 8, u32At b 0x0C), u8At b 0x10 % 2, u32At b 0x14, u32At b 0x18, u32At b 0x1C⟩

def ShardHeader.bytes (h : ShardHeader) : Bytes :=
  leBytes 4 h.v0.1 ++ leBytes 4 h.v0.2 ++ leBytes 4 h.v1.1 ++ leBytes 4 h.v1.2 ++ leBytes 1 h.active ++ zeros 3 ++
  leBytes 4 h.shard ++ leBytes 4 h.applied0 ++ leBytes 4 h.applied1

def ShardHeader.version (h : ShardHeader) (n : Nat) : Ver := if n = 0 then h.v0 else h.v1
def ShardHeader.current (h : ShardHeader) : Ver := h.version h.active
def ShardHeader.applied (h : ShardHeader) : Nat := if h.active = 0 then h.applied0 else h.applied1
def ShardHeader.target (h : ShardHeader) : Nat := 1 - h.active

/-- The header after a flip to the other slot with this version and count. -/
def ShardHeader.flip (h : ShardHeader) (id : Nat) (v : Ver) (applied : Nat) : ShardHeader :=
  if h.active = 0 then { h with v1 := v, applied1 := applied, active := 1, shard := id }
  else { h with v0 := v, applied0 := applied, active := 0, shard := id }

def UpdShard.slotAddr (s : UpdShard) (n : Nat) : Nat := if n = 0 then s.slot0Addr else s.slot1Addr
def UpdShard.isParked (s : UpdShard) : Bool := s.peer != 0xFFFF

/-- Header of a shard: a local one is read, a parked one is what the owner last fetched or wrote. -/
def Chip.shardHeader (c : Chip) (s : UpdShard) : (ShardHeader ⊕ Nat) × Chip :=
  if s.isParked then (.inl (ShardHeader.ofBytes (Sparse.get [] c.upd.parked s.shardId.toNat)), c)
  else
    match c.readMem [] s.headerAddr 32 with
    | (.inl b, c) => (.inl (ShardHeader.ofBytes b), c)
    | (.inr a, c) => (.inr a, c)

/-- Where the owner reads a shard's committed state: the active slot, or the staged copy of a parked shard. -/
def UpdShard.stateAddr (s : UpdShard) (h : ShardHeader) : Nat := if s.isParked then s.stageAddr else s.slotAddr h.active

/-! ### The journal (R251) -/

def engines : Nat := 24

def jBegin : Nat := 1
def jScalars : Nat := 2
def jDone : Nat := 3
def jImportBegin : Nat := 4
def jImportDone : Nat := 5

/-- A journal record (Table 9-8). -/
def journalRecord (kind round step tensor a b d e : Nat) : Bytes :=
  leBytes 1 kind ++ zeros 3 ++ leBytes 4 round ++ leBytes 4 step ++ leBytes 4 tensor ++ leBytes 4 a ++ leBytes 4 b ++
  leBytes 4 d ++ leBytes 4 e

def Chip.journal (c : Chip) (g : Nat) : List Bytes := Sparse.get [] c.upd.journal g

def Chip.setJournal (c : Chip) (g : Nat) (l : List Bytes) : Chip :=
  { c with upd := { c.upd with journal := Sparse.put [] c.upd.journal g l } }

/-- Records with which a new step's begin: those from the latest DONE or IMPORT_DONE on may be overwritten no sooner. -/
def journalKept (l : List Bytes) : List Bytes :=
  match l.getLast? with
  | some r => if u8At r 0 = jDone ∨ u8At r 0 = jImportDone then [r] else l
  | none => []

def Chip.journalAll (c : Chip) (r : Bytes) : Chip :=
  c.each (List.range engines) fun c g => c.setJournal g (c.journal g ++ [r])

/-- What the latest BEGIN without a DONE says, with its SCALARS. -/
structure JournalStep where
  round : Nat
  step : Nat
  g : Nat
  clip : Nat
  lr : Nat
  applied : Nat
  scal : List (Nat × Scalars)
deriving DecidableEq, Repr, Inhabited

/-- The unfinished step of a journal, walking it oldest record first. -/
def journalOpen (l : List Bytes) : Option JournalStep :=
  l.foldl (fun (m : Option JournalStep) r =>
    let f := fun i => u32At r (4 * i)
    match u8At r 0, m with
    | 1, _ => some ⟨f 1, f 2, f 4, f 5, f 6, f 7, []⟩
    | 2, some j => some { j with scal := j.scal ++
        [(f 3, ⟨BitVec.ofNat 32 (f 4), BitVec.ofNat 32 (f 5), BitVec.ofNat 32 (f 6), BitVec.ofNat 32 (f 7)⟩)] }
    | 3, _ => none
    | _, m => m) none

/-- An IMPORT_BEGIN without its IMPORT_DONE: the version imported. -/
def journalImport (l : List Bytes) : Option Ver :=
  l.foldl (fun (m : Option Ver) r =>
    if u8At r 0 = jImportBegin then some (u32At r 4, u32At r 8) else if u8At r 0 = jImportDone then none else m) none

def JournalStep.scalarsOf (j : JournalStep) (tensor : Nat) : Scalars :=
  ((j.scal.find? fun x => x.1 == tensor).map (·.2)).getD ⟨0, 0, 0, 0⟩

/-! ### Reading what an update needs -/

/-- Ranges of memory read one after another; the first without data stops. -/
def Chip.readMany (c : Chip) : List (Nat × Nat) → (List Bytes ⊕ Nat) × Chip
  | [] => (.inl [], c)
  | (a, n) :: r =>
    match c.readMem [] a n with
    | (.inr x, c) => (.inr x, c)
    | (.inl b, c) =>
      match Chip.readMany c r with
      | (.inl l, c) => (.inl (b :: l), c)
      | (.inr x, c) => (.inr x, c)

/-- Several runs of `n` images of one format. -/
def Chip.readRuns (c : Chip) (code n : Nat) : List Nat → (List (List Bytes) ⊕ Nat) × Chip
  | [] => (.inl [], c)
  | a :: r =>
    match c.readTensorImages code a 0 n with
    | (.inr x, c) => (.inr x, c)
    | (.inl b, c) =>
      match Chip.readRuns c code n r with
      | (.inl l, c) => (.inl (b :: l), c)
      | (.inr x, c) => (.inr x, c)

/-- Round settings of Table 13-9 that the close and the merge use. -/
structure RoundSettings where
  fmt : Nat
  rate : Nat
  sr : Bool
  feedback : Bool
  lr : Nat
  mu : Nat
  factor : Nat
  site : Nat

def Chip.roundSettings (c : Chip) : RoundSettings :=
  ⟨c.reg Obj.deltaFormat, c.reg Obj.deltaRate, c.reg Obj.deltaRound == 4, c.reg Obj.errorFeedback == 1, c.reg Obj.outerLr,
    c.reg Obj.outerMomentum, c.reg Obj.staleFactor, c.reg Obj.rndSiteIndex⟩

/-- The merge that a step of this round applies (R332, R359). -/
def Chip.mergeAt (c : Chip) (round : Nat) : Option Merge := c.rnd.decided.bind fun m => if m.round = round then some m else none

/-- The contributions a merge takes, in ascending (site, round). -/
def Merge.taken (m : Merge) : List (Nat × Nat) := (m.entries.filter fun e => e.2.2 == 1).map fun e => (e.1, e.2.1)

/-- ω of a contribution of round `r` at this merge. -/
def Merge.weight (m : Merge) (factor r : Nat) : Nat := staleWeight factor (m.round - r)

/-- Where a taken contribution's images of a shard lie: own in the outbound slot, a partner's in its receive slot. -/
def Chip.takenAddr (c : Chip) (z : RoundSettings) (rs : RoundShard) (size : Nat) (e : Nat × Nat) : Option Nat :=
  if e.1 = z.site then some (rs.out + e.2 % Nat.max 1 c.rnd.outSlots * size)
  else (c.rnd.contributions.find? fun x => x.site == e.1 && x.round == e.2).map fun x => rs.rx + x.slot * size

/-- Everything one shard's update reads. -/
structure ShardInput where
  header : ShardHeader
  state : Bytes
  grads : List Bytes
  /-- Active round block and the other one's number, delta area, contributions with their weights. -/
  block : Bytes
  blockTo : Nat
  delta : Bytes
  taken : List Taken

/-- The round part of the reads. -/
def Chip.readRound (c : Chip) (t : UpdTensor) (s : UpdShard) (rs : RoundShard) (h : ShardHeader) (m : Option Merge) :
    ((Bytes × Nat × Bytes × List Taken) ⊕ Nat) × Chip :=
  let n := s.rowCount * t.width
  let z := c.roundSettings
  match c.readMany [(rs.block0, 32), (rs.block1, 32)] with
  | (.inr a, c) => (.inr a, c)
  | (.inl hs, c) =>
    let act := if u32At (hs.getD 1 []) 0 = h.current.1 && u32At (hs.getD 0 []) 0 != h.current.1 then 1 else 0
    match c.readMany [(if act = 0 then rs.block0 else rs.block1, roundBlockBytes t.isPair n), (rs.delta, deltaAreaBytes n)] with
    | (.inr a, c) => (.inr a, c)
    | (.inl bs, c) =>
      let size := deltaSlotBytes z.fmt s.rowCount t.width
      let es := match m with
        | none => []
        | some m => m.taken.filterMap fun e => (c.takenAddr z rs size e).map fun a => (m.weight z.factor e.2, a)
      match c.readRuns z.fmt (imageCount s.rowCount t.width) (es.map (·.2)) with
      | (.inr a, c) => (.inr a, c)
      | (.inl l, c) => (.inl (bs.getD 0 [], 1 - act, bs.getD 1 [], (es.zip l).map fun x => ⟨x.1.1, x.2⟩), c)

def Chip.readShard (c : Chip) (t : UpdTensor) (s : UpdShard) (rs : Option RoundShard) (m : Option Merge) :
    (ShardInput ⊕ Nat) × Chip :=
  match c.shardHeader s with
  | (.inr a, c) => (.inr a, c)
  | (.inl h, c) =>
    match c.readMem [] (s.stateAddr h) (t.slotBytes s.rowCount) with
    | (.inr a, c) => (.inr a, c)
    | (.inl st, c) =>
      match c.readTensorImages 3 s.gradAddr 0 (imageCount s.rowCount t.width) with
      | (.inr a, c) => (.inr a, c)
      | (.inl gs, c) =>
        match rs with
        | none => (.inl ⟨h, st, gs, [], 0, [], []⟩, c)
        | some rs =>
          match c.readRound t s rs h m with
          | (.inr a, c) => (.inr a, c)
          | (.inl r, c) => (.inl ⟨h, st, gs, r.1, r.2.1, r.2.2.1, r.2.2.2⟩, c)

/-! ### One shard (R243, R336, R344) -/

/-- What one shard's update writes. -/
structure ShardOutput where
  data : ShardData
  slot : Bytes
  moments : Bytes
  header : ShardHeader
  flags : Nat
  nonfinite : Nat
  block : Option Bytes
  close : Option CloseOut

/-- What governs a shard's update at this module. -/
def Chip.updIn (c : Chip) (j : JournalStep) (t : UpdTensor) (s : UpdShard) : UpdIn :=
  let arith := c.reg (Obj.regionArith t.region.toNat)
  { fast := !bit arith 4, prop := bit arith 3, rnd := arith % 8
    key := stepKey (c.reg Obj.srRunSeed) j.round j.step, clip := j.clip
    k := signed 8 (Sparse.get 0#8 c.step.scaleK (2 * bits t.tensorId.toNat 47 32)).toNat
    copyK := signed 8 (c.scaleOf t.copyTensorId.toNat t.copyFormat.toNat).toNat
    scal := j.scalarsOf s.tensor, rowFirst := s.rowFirst }

/-- Inner update, merge, copy, close, in that order (R336). -/
def computeShard (t : UpdTensor) (s : UpdShard) (u : UpdIn) (z : RoundSettings) (j : JournalStep) (rs : Option RoundShard)
    (m : Option Merge) (close : Option Nat) (i : ShardInput) : ShardOutput :=
  let rows := s.rowCount
  let cols := t.width
  let n := rows * cols
  let (d, f1) := t.update u rows (fun a b => tensorElem i.grads cols 16 a b) (t.readSlot rows i.state)
  let zero := (m.map (·.ownNonfinite)).getD false
  let b := RoundBlock.ofBytes t.isPair n i.block
  let mo := m.map fun _ => mergeShard t u z.fmt z.mu z.lr rows zero i.taken b (f32List i.delta 4096 n)
    (f32List i.delta (4096 + alignUp 4096 (4 * n)) n) d
  let d := (mo.map (·.shard)).getD d
  let (copy, f2) := t.copyOf u rows d
  let d := { d with copy := copy }
  let (mc, f3) := if t.mForm = 0 then t.momentCodes u d.m else ([], 0)
  let b := (mo.map (·.block)).getD b
  let co := match rs, close with
    | some r, some _ => some (closeShard z.fmt z.rate u.key r.deltaTensor.toNat s.rowFirst rows cols z.sr z.feedback b d)
    | _, _ => none
  let slot := t.slotImage d mc
  { data := d, slot := slot
    moments := slice slot (t.partAt rows 2) ((t.partBytes rows).getD 2 0)
    header := i.header.flip s.shardId.toNat (j.round, j.step) (if zero then 0 else i.header.applied + 1)
    flags := t.readFlags rows i.state ||| f1 ||| f2 ||| f3 ||| t.writeFlags d ||| (mo.map (·.flags)).getD 0 |||
      (co.map (·.flags)).getD 0
    nonfinite := d.nonfinite
    block := m.bind fun m => mo.map fun x => x.block.bytes m.round s.shardId.toNat
    close := co }

/-- Fingerprints of the new weights and first moment (points 3 and 4 of R279). -/
def Chip.shardPrints (c : Chip) (t : UpdTensor) (s : UpdShard) (o : ShardOutput) : Chip :=
  let n := s.rowCount * t.width
  let dec := fun (x : Nat) => Fmt.f32.decode x
  let ws := (List.range n).map fun i =>
    if t.isPair then [dec (o.data.wHi.getD i 0), dec (o.data.wLo.getD i 0)] else [dec (o.data.wHi.getD i 0)]
  let c := c.fingerprint t.tensorId.toNat s.shardId.toNat 3 t.wFormat.toNat 0 ws (o.slot.take ((t.partBytes s.rowCount).getD 0 0))
  let ms := if t.mForm = 0 then (List.range n).map fun i => [Fmt.bf16.decode (u16At o.moments (2 * i))]
    else (q8Values true n o.moments).map fun v => [dec v.1]
  c.fingerprint t.tensorId.toNat s.shardId.toNat 4 (if t.mForm = 0 then 2 else 0x10) 0 ms o.moments

/-- Images written one after another as they are, at a rate. -/
def Chip.putImages (c : Chip) (code base rate : Nat) (l : List Bytes) : Chip :=
  c.each ((List.range l.length).zip l) fun c x => c.putImage (base + x.1 * imageBytes code) rate x.2 (imageBytes code)

/-- A close's writes: D_TRUE, E_NEW, the delta area header and the outbound slot (R336, R337). -/
def Chip.writeClose (c : Chip) (z : RoundSettings) (rs : RoundShard) (size n : Nat) (o : CloseOut) : Chip :=
  let c := c.writeMem rs.delta (deltaArea n o.dTrue o.eNew)
  let c := c.putImages z.fmt (rs.out + n % Nat.max 1 c.rnd.outSlots * size) z.rate o.images
  let c := c.count Obj.rndDeltaDropped o.dropped 64
  if o.nonfinite && !c.rnd.ownNonfinite then
    ({ c with rnd := { c.rnd with ownNonfinite := true } }).occur 9 1 .rnd noRegion n 0
  else c

/-- The new state of a shard is written, and then made current (R248, R254). -/
def Chip.flipShard (c : Chip) (t : UpdTensor) (s : UpdShard) (slotTo : Nat) (slot : Bytes) (h : ShardHeader) : Chip :=
  if s.isParked then
    let c := c.writeMem s.stageAddr slot
    let c := { c with upd := { c.upd with
      parked := Sparse.put [] c.upd.parked s.shardId.toNat h.bytes, unwritten := c.upd.unwritten ++ [s.shardId] } }
    (c.emit (.peerWrite s.peer (s.slotAddr slotTo) slot)).emit (.peerWrite s.peer s.headerAddr h.bytes)
  else (c.writeMem (s.slotAddr slotTo) (slot.take (t.slotBytes s.rowCount))).writeMem s.headerAddr h.bytes

/-- One shard updated and flipped; or the address of a read that delivered no data. -/
def Chip.updateShard (c : Chip) (j : JournalStep) (t : UpdTensor) (s : UpdShard) : Option Nat × Chip :=
  let m := c.mergeAt j.round
  let close := c.rnd.controlClose
  let rs := if m.isSome || close.isSome then c.rnd.shards.find? fun r => r.shardId == s.shardId else none
  match c.readShard t s rs m with
  | (.inr a, c) => (some a, c)
  | (.inl i, c) =>
    let z := c.roundSettings
    let o := computeShard t s (c.updIn j t s) z j rs m close i
    let c := c.raise t.region.toNat o.flags s.headerAddr
    let c := if o.nonfinite = 0 then c
      else (c.count Obj.updNonfiniteCount o.nonfinite 64).occur 5 1 .upd noRegion s.headerAddr o.nonfinite
    let c := match rs, o.block with
      | some r, some b => (c.writeMem (if i.blockTo = 0 then r.block0 else r.block1) b).writeMem r.delta (leBytes 4 noRound)
      | _, _ => c
    let c := match rs, close, o.close with
      | some r, some n, some co => c.writeClose z r (deltaSlotBytes z.fmt s.rowCount t.width) n co
      | _, _, _ => c
    let c := c.shardPrints t s o
    (none, c.flipShard t s i.header.target o.slot o.header)

/-! ### The engines (R249, R250) -/

def Chip.ownShard (c : Chip) (id : BitVec 32) : Option UpdShard := c.upd.shards.find? fun s => s.shardId == id

/-- How far the engines have come. -/
structure EngineRun where
  chip : Chip
  /-- Shards still to write, and engines that wait at a held slot. -/
  left : List (BitVec 32)
  blocked : List Nat
  /-- Address of a read that delivered no data, which ends the run. -/
  bad : Option Nat

/-- One shard's turn. -/
def EngineRun.shard (r : EngineRun) (id : BitVec 32) : EngineRun :=
  let keep := { r with left := r.left ++ [id] }
  if r.bad.isSome then keep
  else
    match r.chip.ownShard id with
    | none => r
    | some s =>
      if r.blocked.contains s.group then keep
      else
        match r.chip.upd.tensors[s.tensor]?, journalOpen (r.chip.journal s.group), r.chip.shardHeader s with
        | some t, some j, (.inl h, c) =>
          if !Ver.before h.current (j.round, j.step) then { r with chip := c }
          else if c.holdsOn id.toNat h.target != 0 && !s.isParked then { keep with blocked := r.blocked ++ [s.group] }
          else
            match c.updateShard j t s with
            | (none, c) => { r with chip := c }
            | (some a, c) => { keep with chip := c, bad := some a }
        | some _, some _, (.inr a, c) => { keep with chip := c, bad := some a }
        | _, _, _ => r

/-- An update cannot go on: committed state is lost (R223, R254). Stepping halts with STEP_STATE 6. -/
def Chip.stateLostHalt (c : Chip) (addr : Nat) : Chip :=
  ((c.occur 4 3 .step noRegion addr 0).haltStepping 6).event 4 0 6 0

/-- The engines write every shard they can. -/
def Chip.runUpdates (c : Chip) : Chip :=
  let r := c.upd.waiting.foldl EngineRun.shard ⟨c, [], [], none⟩
  let c := { r.chip with upd := { r.chip.upd with waiting := r.left } }
  match r.bad with
  | none => c
  | some a => ({ c with upd := { c.upd with parkedLost := true } }).stateLostHalt a

def insertShard (x : BitVec 32) : List (BitVec 32) → List (BitVec 32)
  | [] => [x]
  | y :: r => if x.toNat ≤ y.toNat then x :: y :: r else y :: insertShard x r

/-- Shards in ascending SHARD_ID. -/
def Chip.shardOrder (c : Chip) : List (BitVec 32) := (c.upd.shards.map (·.shardId)).foldl (fun m x => insertShard x m) []

/-! ### Begin (R242, R251, R359) -/

/-- The summary of the record that the running replay takes (R246, R286). -/
def Chip.replaySummary (c : Chip) : Option Bytes :=
  if c.sil.replay.running then (c.sil.replay.records[c.sil.replay.pos]?).map fun r => sectionOf r 1 else none

/-- Scalars of every tensor that engine `g` updates, one record each. -/
def Chip.scalarRecords (c : Chip) (g lr : Nat) : List Bytes × Chip :=
  (List.range c.upd.tensors.length).foldl (fun (a : List Bytes × Chip) i =>
    match a.2.upd.tensors[i]?, a.2.upd.shards.find? fun s => s.tensor == i && s.group == g with
    | some t, some s =>
      let (h, c) := a.2.shardHeader s
      let n := match h with | .inl h => h.applied | .inr _ => 0
      let x := t.scalars lr n
      (a.1 ++ [journalRecord jScalars c.step.round (c.reg Obj.stepNumber) i x.eta.toNat x.dk.toNat x.c1.toNat x.c2.toNat], c)
    | _, _ => a) ([], c)

/-- The round this committed step closes, if it closes one (R331, R332). -/
def Chip.closingRound (c : Chip) : Option Nat :=
  let steps := c.reg Obj.roundSteps
  let n := c.reg Obj.rndStepsInRound + 1
  let merging := (c.mergeAt c.step.round).isSome
  if c.reg Obj.rndEnable = 1 && decide (steps ≤ n) && (c.rnd.pending.isNone || (merging && n == steps)) then
    some (c.reg Obj.rndRoundClosed + 1)
  else none

/-- The ingot served is still on its way (R354). -/
def Chip.ingotSending (c : Chip) : Bool :=
  match c.rnd.ingot.serving with
  | some x => !(c.context (roundContext x.1 2 0)).tx.isEmpty
  | none => false

/-- A merge two rounds on ends the stream of the ingot it would overwrite (R354). -/
def Chip.endIngotStream (c : Chip) (merge : Nat) : Chip :=
  match c.rnd.ingot.serving with
  | some (site, round) =>
    if round + 2 ≤ merge then
      let n := roundContext site 2 0
      let c := c.setContext n { c.context n with tx := [] }
      { c with rnd := { c.rnd with ingot := { c.rnd.ingot with serving := none } } }
    else c
  | none => c

/-- The update of a committed step begins. -/
def Chip.updateBegin (c : Chip) : Chip :=
  if !c.step.inStep || !c.step.committing || c.step.records.isNone || c.upd.running then c
  else
    let g := c.upd.g.toNat
    let rec? := c.replaySummary
    let applied := c.reg Obj.updatesApplied
    let lr := match rec? with
      | some b => u32At b 0x38
      | none => scheduledRate (c.blob Obj.lrSchedule) applied
    let clip := match rec? with
      | some b => u32At b 0x3C
      | none => clipFactor (c.reg Obj.clipNorm) g
    let c := { c with
      rnd := { c.rnd with
        controlClose := c.closingRound, ownNonfinite := c.rnd.ownNonfinite && (c.mergeAt c.step.round).isNone }
      upd := { c.upd with running := true, lr := BitVec.ofNat 32 lr, clip := BitVec.ofNat 32 clip, waiting := c.shardOrder
                          unwritten := [], parkedLost := false, stuck := [] } }
    let c := match c.mergeAt c.step.round with
      | some m => c.endIngotStream m.round
      | none => c
    let begin_ := journalRecord jBegin c.step.round (c.reg Obj.stepNumber) 0 g clip lr applied
    let c := c.each (List.range engines) fun c e =>
      let (l, c) := c.scalarRecords e lr
      c.setJournal e (journalKept (c.journal e) ++ [begin_] ++ l)
    c.runUpdates

/-- UPDATE_BEGIN. -/
def execUpdateBegin (s : State) : Host.Outcome State Fault Refusal := s.on Chip.updateBegin

end Sys2Proof.Machine
end

