-- ==== Sys2Proof/Machine/Accord.lean ====
section
/-! DEFINITION. Machine/Accord.lean: anneal rounds as the commit sees them: accord records (R347, R348), what a merge leaves
(R346), the close of a round and the sending of contributions (R331, R338). -/

namespace Sys2Proof.Machine

/-! ### Partners -/

/-- Partner sites of the group, in order. -/
def Chip.partnerSites (c : Chip) : List Nat :=
  (List.range 64).filter fun j => bit (c.reg Obj.rndSites) j && j != c.reg Obj.rndSiteIndex

/-- RND_PARTNER_STATE of a site; a member not heard of is unreachable. -/
def Chip.partnerState (c : Chip) (j : Nat) : Nat :=
  if !bit (c.reg Obj.rndSites) j || j == c.reg Obj.rndSiteIndex then 0 else Sparse.get 1 c.rnd.partners j

def Chip.setPartnerState (c : Chip) (j v : Nat) : Chip :=
  { c with rnd := { c.rnd with partners := Sparse.put 1 c.rnd.partners j v } }

def partnerUnreachable : Nat := 1
def partnerReachable : Nat := 2
def partnerRefused : Nat := 3
def partnerReconciling : Nat := 4
def partnerDiverged : Nat := 5

/-! ### Accord records (Tables 13-5 and 13-6) -/

/-- An entry: site, status, staleness, round, weight. -/
def accordEntry (site status staleness round weight : Nat) : Bytes :=
  leBytes 1 site ++ leBytes 1 status ++ leBytes 1 staleness ++ zeros 1 ++ leBytes 4 round ++ leBytes 4 weight ++ zeros 4

/-- Entries of a record as (site, status, round). -/
def accordEntries (r : Bytes) : List (Nat × Nat × Nat) :=
  (chunks 16 (slice r 64 (16 * u16At r 0x12))).map fun e => (u8At e 0, u8At e 1, u32At e 4)

def accordRound (r : Bytes) : Nat := u32At r 8

/-- PREV_DIGEST of the next record. -/
def Chip.accordPrev (c : Chip) : Bytes :=
  match c.rnd.history.getLast? with
  | none => zeros 16
  | some r => shake256 16 r

def accordHeader (group round step site flags count w lr mu key vote : Nat) (prev : Bytes) : Bytes :=
  leBytes 8 group ++ leBytes 4 round ++ leBytes 4 step ++ leBytes 1 site ++ leBytes 1 flags ++ leBytes 2 count ++
  leBytes 4 w ++ leBytes 4 lr ++ leBytes 4 mu ++ leBytes 8 key ++ leBytes 4 vote ++ zeros 4 ++ prev

/-- The record of a merge that the step `step` commits. -/
def Chip.accordRecord (c : Chip) (m : Merge) (step : Nat) : Bytes :=
  let z := c.roundSettings
  let w := weightSum (m.taken.map fun e => m.weight z.factor e.2)
  let flags := (if m.round = 1 then 1 else 0) + (if m.ownNonfinite then 2 else 0) + if m.resent then 4 else 0
  accordHeader (c.reg Obj.rndGroupId) m.round step z.site flags m.entries.length w z.lr z.mu m.voteKey.toNat m.voteStep.toNat
    c.accordPrev ++
  (m.entries.map fun e => accordEntry e.1 e.2.2 (m.round - e.2.1) e.2.1
    (if e.2.2 = 1 then m.weight z.factor e.2.1 else 0)).flatten

/-- A record joins the accord history, of which the latest RND_HISTORY are kept (R348). -/
def Chip.pushAccord (c : Chip) (r : Bytes) : Chip :=
  let l := c.rnd.history ++ [r]
  { c with rnd := { c.rnd with history := l.drop (l.length - c.reg Obj.rndHistory) } }

/-- The history names (site, round) with one of these statuses. -/
def historyNames (h : List Bytes) (statuses : List Nat) (site round : Nat) : Bool :=
  h.any fun r => (accordEntries r).any fun e => e.1 == site && e.2.2 == round && statuses.contains e.2.1

/-! ### What a merge leaves (R346) -/

/-- The merge has been committed by the step of this number. -/
def Chip.mergeCommitted (c : Chip) (m : Merge) (step : Nat) : Chip :=
  let r := c.accordRecord m step
  let me := c.reg Obj.rndSiteIndex
  let st := fun (n : Nat) => (m.entries.filter fun e => e.2.2 == n && e.1 != me)
  let merged := st 1
  let c := c.pushAccord r
  let c := c.record 4 0 [r] m.voteTime m.voteMono
  let c := c.count Obj.rndContribMerged merged.length 64
  let c := c.count Obj.rndContribStale (merged.filter fun e => decide (e.2.1 < m.round)).length 64
  let c := c.count Obj.rndContribMissing (st 3).length 64
  let c := c.count Obj.rndContribDiscarded (st 4).length 32
  let gone := fun (s n : Nat) => m.entries.any fun e => e.1 == s && e.2.1 == n && e.2.2 != 3
  let pm := merged.foldl (fun p e => Sparse.put 0 p e.1 (Nat.max (Sparse.get 0 p e.1) e.2.1)) c.rnd.partnerMerged
  let c := { c with rnd := { c.rnd with
    decided := none, control := none, pending := none, windowPassed := false, ready := false, frozen := []
    merges := (m.round, step, c.reg Obj.updatesApplied) :: c.rnd.merges.take 1
    contributions := c.rnd.contributions.filter fun x => !gone x.site x.round
    rejected := c.rnd.rejected.filter fun x => decide (m.round < x.2 + c.reg Obj.staleBound)
    resent := c.rnd.resent.filter fun x => !gone x.1 x.2
    partnerMerged := pm } }
  let c := c.each (st 4) fun c e => c.slkWithdrawRx e.1 e.2.1
  let c := c.setReg Obj.rndRoundMerged m.round
  if m.ownNonfinite then c.log .rnd 0x0101 noRegion m.round 0 else c

/-! ### The close and the contribution (R331, R338) -/

/-- Contribution of a round as it lies in the outbound slots, every image at its stored rate, shards in table order. -/
def Chip.outboundBytes (c : Chip) (round : Nat) : Bytes × Chip :=
  let z := c.roundSettings
  c.rnd.shards.foldl (fun (a : Bytes × Chip) rs =>
    match a.2.ownShard rs.shardId with
    | none => a
    | some s =>
      match a.2.upd.tensors[s.tensor]? with
      | none => a
      | some t =>
        let size := deltaSlotBytes z.fmt s.rowCount t.width
        let base := rs.out + round % Nat.max 1 a.2.rnd.outSlots * size
        (List.range (imageCount s.rowCount t.width)).foldl (fun (a : Bytes × Chip) i =>
          match a.2.readImage [] z.fmt (base + i * imageBytes z.fmt) true with
          | (.ok d _, c) => (a.1 ++ d, c)
          | (_, c) => (a.1, c)) a) ([], c)

/-- The own contribution of a round goes to one partner. -/
def Chip.sendContribution (c : Chip) (site round : Nat) : Chip :=
  let (b, c) := c.outboundBytes round
  c.slkContribution site round b

/-- RND_STATE of Table 13-9 as the rounds stand; an ingot fetch and a wait under R352 have their own. -/
def Chip.refreshRounds (c : Chip) : Chip :=
  let v := if c.reg Obj.rndEnable = 0 then 0
    else if c.reg Obj.rndState = 4 ∨ c.reg Obj.rndState = 5 then c.reg Obj.rndState
    else if c.rnd.decided.isSome then 3
    else if c.rnd.pending.isSome then 2 else 1
  c.setReg Obj.rndState v

/-- A committed step as the rounds count it: the merge it applied, the round it closed (R331, R338). -/
def Chip.roundsCommitted (c : Chip) (round step : Nat) : Chip :=
  let close := c.rnd.controlClose
  let merge := c.mergeAt round
  let c := match merge with
    | some m => c.mergeCommitted m step
    | none => c
  let c := { c with rnd := { c.rnd with controlClose := none } }
  let c := if c.reg Obj.rndEnable = 0 then c
    else
      match close with
      | none => c.count Obj.rndStepsInRound 1 32
      | some n =>
        let c := (c.setReg Obj.rndStepsInRound 0).setReg Obj.rndRoundClosed n
        let c := { c with rnd := { c.rnd with
          held := c.rnd.held.filter (fun i => decide (n < i + c.rnd.outSlots)) ++ [n], pending := some n, closeMono := c.time.mono, windowPassed := false, ready := false, frozen := [] } }
        let c := c.slkWithdrawTx c.partnerSites (n + 1 - c.rnd.outSlots)
        c.each (c.partnerSites.filter fun j => c.partnerState j == partnerReachable) fun c j => c.sendContribution j n
  c.refreshRounds

end Sys2Proof.Machine
end

