-- ==== Sys2Proof/Machine/UpdTable.lean ====
section
/-! DEFINITION. Machine/UpdTable.lean: the update table and the learning-rate schedule (R240, R241, R245), and the gather
service of the engines with its holds (R249, R250, R254). -/

namespace Sys2Proof.Machine

/-! ### The update table -/

def updTensorAt (b : Bytes) (o : Nat) : UpdTensor where
  tensorId := BitVec.ofNat 64 (u64At b o)
  mTensorId := BitVec.ofNat 64 (u64At b (o + 8))
  copyTensorId := BitVec.ofNat 64 (u64At b (o + 0x10))
  region := BitVec.ofNat 16 (u16At b (o + 0x18))
  wFormat := BitVec.ofNat 8 (u8At b (o + 0x1A))
  copyFormat := BitVec.ofNat 8 (u8At b (o + 0x1B))
  mForm := BitVec.ofNat 8 (u8At b (o + 0x1C))
  vForm := BitVec.ofNat 8 (u8At b (o + 0x1D))
  decay := BitVec.ofNat 8 (u8At b (o + 0x1E))
  beta1 := BitVec.ofNat 32 (u32At b (o + 0x20))
  beta2 := BitVec.ofNat 32 (u32At b (o + 0x24))
  eps := BitVec.ofNat 32 (u32At b (o + 0x28))
  eps1 := BitVec.ofNat 32 (u32At b (o + 0x2C))
  weightDecay := BitVec.ofNat 32 (u32At b (o + 0x30))
  lrMult := BitVec.ofNat 32 (u32At b (o + 0x34))
  rows := BitVec.ofNat 32 (u32At b (o + 0x38))
  cols := BitVec.ofNat 32 (u32At b (o + 0x3C))

def updShardAt (b : Bytes) (o : Nat) : UpdShard where
  shardId := BitVec.ofNat 32 (u32At b o)
  tensor := u32At b (o + 4)
  rowFirst := u32At b (o + 8)
  rowCount := u32At b (o + 0x0C)
  headerAddr := u64At b (o + 0x10)
  slot0Addr := u64At b (o + 0x18)
  slot1Addr := u64At b (o + 0x20)
  gradAddr := u64At b (o + 0x28)
  peer := BitVec.ofNat 16 (u16At b (o + 0x30))
  group := u8At b (o + 0x32)
  stageAddr := u64At b (o + 0x38)

def tblTensors (b : Bytes) : List (Nat × UpdTensor) :=
  (List.range (u32At b 0x10)).map fun i => let o := u64At b 0x18 + 64 * i; (o, updTensorAt b o)

def tblShards (b : Bytes) : List (Nat × UpdShard) :=
  (List.range (u32At b 0x14)).map fun i => let o := u64At b 0x20 + 64 * i; (o, updShardAt b o)

/-- Offset of the first bad field of the header (0x01 of Table 9-5). -/
def badUpdHeader (b : Bytes) : Option Nat :=
  firstOf [
    (decide (b.length < 64), 0), (u32At b 0 != 0x50555443, 0), (u16At b 4 != 1, 4), (u16At b 6 != 0, 6),
    (u32At b 0x10 == 0 || decide (65536 < u32At b 0x10), 0x10),
    (u32At b 0x14 == 0 || decide (1048576 < u32At b 0x14), 0x14),
    (decide (b.length < u64At b 0x18 + 64 * u32At b 0x10), 0x18),
    (decide (b.length < u64At b 0x20 + 64 * u32At b 0x14), 0x20),
    (!allZero (slice b 0x28 24), 0x28)] |>.orElse fun _ =>
  ((tblTensors b).findSome? fun x => if u8At b (x.1 + 0x1F) = 0 then none else some (x.1 + 0x1F)).orElse fun _ =>
  (tblShards b).findSome? fun x => firstOf [(u8At b (x.1 + 0x33) != 0, x.1 + 0x33), (u32At b (x.1 + 0x34) != 0, x.1 + 0x34)]

/-- Casting slot that holds a CASTING_ID. -/
def Chip.slotOfId (c : Chip) (id : Nat) : Option Nat := (c.array.castings.find? fun e => e.2.id.toNat == id).map (·.1)

/-- 0x02: no such casting, or a region that is not its own. -/
def Chip.badUpdCasting (c : Chip) (b : Bytes) : Option Nat :=
  match c.slotOfId (u64At b 8) with
  | none => some 8
  | some slot => (tblTensors b).findSome? fun x =>
    let h := x.2.region.toNat
    if h / 64 = slot ∧ (c.array.regionOf h).isSome then none else some (x.1 + 0x18)

/-- Finite and above 0. -/
def positiveF (a : Nat) : Bool := nonNegative a && fAbs a != 0

/-- 0 ≤ a < 1. -/
def belowOne (a : Nat) : Bool := nonNegative a && f32Lt a one32

/-- 0x04: an id that appears twice, a reserved form, a parameter outside its range. -/
def badUpdTensors : List (BitVec 64) → List (Nat × UpdTensor) → Option Nat
  | _, [] => none
  | seen, (o, t) :: r =>
    let w := t.wFormat.toNat
    let cf := t.copyFormat.toNat
    let v := t.vForm.toNat
    (firstOf [
      (seen.contains t.tensorId, o), (w != 0 && w != 0xC, o + 0x1A), (cf != 0xFF && decide (0xB < cf), o + 0x1B),
      (decide (1 < t.mForm.toNat), o + 0x1C), ((v == 0 || decide (4 < v)) && v != 0x10, o + 0x1D),
      (decide (1 < t.decay.toNat), o + 0x1E), (!belowOne t.beta1.toNat, o + 0x20),
      (!belowOne t.beta2.toNat || fAbs t.beta2.toNat == 0, o + 0x24), (!positiveF t.eps.toNat, o + 0x28),
      (v != 0x10 && !positiveF t.eps1.toNat, o + 0x2C), (!nonNegative t.weightDecay.toNat, o + 0x30),
      (!nonNegative t.lrMult.toNat, o + 0x34), (v != 0x10 && (t.rows == 1 || t.cols == 1), o + 0x1D)]).orElse fun _ =>
    badUpdTensors (t.tensorId :: seen) r

/-- A range lies in one piece of a casting's footprint and in no reserved region. -/
def Chip.inFootprint (c : Chip) (slot a n : Nat) : Bool :=
  (c.mem.footprints.any fun f => f.casting == slot && decide (f.base ≤ a) && decide (a + n ≤ f.base + f.bytes)) &&
  !inReserved a n

/-- Bytes of a gradient staging area: the hi-plane images of the shard. -/
def gradBytes (t : UpdTensor) (rows : Nat) : Nat := imageCount rows t.width * imageBytes 3

/-- Local parts of a shard: address, length, offset of the field that names it. -/
def shardParts (t : UpdTensor) (o : Nat) (s : UpdShard) : List (Nat × Nat × Nat) :=
  let slot := t.slotBytes s.rowCount
  if s.isParked then [(s.gradAddr, gradBytes t s.rowCount, o + 0x28), (s.stageAddr, slot, o + 0x38)]
  else [(s.headerAddr, 32, o + 0x10), (s.slot0Addr, slot, o + 0x18), (s.slot1Addr, slot, o + 0x20),
    (s.gradAddr, gradBytes t s.rowCount, o + 0x28)]

/-- A tensor's shards in row order. -/
def insertByRow (x : Nat × UpdShard) : List (Nat × UpdShard) → List (Nat × UpdShard)
  | [] => [x]
  | y :: r => if x.2.rowFirst ≤ y.2.rowFirst then x :: y :: r else y :: insertByRow x r

/-- Each shard of a tensor begins where the one before it ends; offset of the first that does not. -/
def rowGap : List (Nat × UpdShard) → Option Nat
  | x :: y :: r => if y.2.rowFirst = x.2.rowFirst + x.2.rowCount then rowGap (y :: r) else some (y.1 + 8)
  | _ => none

/-- 0x05. -/
def Chip.badUpdShards (c : Chip) (b : Bytes) (slot : Nat) : Option Nat :=
  let ts := (tblTensors b).map (·.2)
  let ss := tblShards b
  let one := ss.findSome? fun x =>
    let (o, s) := x
    match ts[s.tensor]? with
    | none => some (o + 4)
    | some t =>
      firstOf [
        ((ss.filter fun y => y.2.shardId == s.shardId && decide (y.1 < o)).length != 0, o),
        (s.rowCount == 0 || decide (t.rows.toNat < s.rowFirst + s.rowCount), o + 0x0C),
        (t.hasCopy && s.rowFirst % 32 != 0, o + 8), (decide (23 < s.group), o + 0x32)]
  one.orElse fun _ =>
  ((List.range ts.length).findSome? fun i =>
    rowGap ((ss.filter fun x => x.2.tensor == i).foldl (fun m x => insertByRow x m) [])).orElse fun _ =>
  let parts := (ss.map fun x => match ts[x.2.tensor]? with
    | none => []
    | some t => (shardParts t x.1 x.2).filter fun p => p.1 != 0 || !x.2.isParked).flatten
  (parts.findSome? fun p => if c.inFootprint slot p.1 p.2.1 then none else some p.2.2).orElse fun _ => clashIn [] parts

/-- 0x07. -/
def Chip.badUpdParked (c : Chip) (b : Bytes) : Option Nat :=
  (tblShards b).findSome? fun x =>
    if x.2.isParked then firstOf [(decide (c.reg Obj.bzSiteModules ≤ x.2.peer.toNat), x.1 + 0x30), (x.2.stageAddr == 0, x.1 + 0x38)]
    else none

/-- The checks of Table 9-5 that a table meets, in order: reason code and offset. -/
def Chip.badUpdTable (c : Chip) (b : Bytes) : Option (Nat × Nat) :=
  ((badUpdHeader b).map fun o => (1, o)).orElse fun _ =>
  ((c.badUpdCasting b).map fun o => (2, o)).orElse fun _ =>
  ((badUpdTensors [] (tblTensors b)).map fun o => (4, o)).orElse fun _ =>
  ((c.badUpdShards b ((c.slotOfId (u64At b 8)).getD 0)).map fun o => (5, o)).orElse fun _ =>
  (c.badUpdParked b).map fun o => (7, o)

/-- A refused table, schedule or import (R241). -/
def Chip.updRefused (c : Chip) (code addr : Nat) : Chip := (c.setReg Obj.updLastReason code).occurCode 5 0 .upd code noRegion addr 0

/-- The table takes effect. -/
def Chip.useUpdTable (c : Chip) (b : Bytes) : Chip :=
  let ss : List UpdShard := (tblShards b).map Prod.snd
  let c := { c with upd := { c.upd with
    castingId := BitVec.ofNat 64 (u64At b 8), tensors := (tblTensors b).map Prod.snd, shards := ss
    fetched := [], unwritten := [], stuck := [], parked := [] } }
  ((c.setReg Obj.updLastReason 0).setReg Obj.shardCount ss.length).setReg Obj.shardsParked
    (ss.filter UpdShard.isParked).length

def updateTableRule (d : ObjDef) : WriteRule where
  cond := fun c _ _ b _ => if (c.badUpdTable b).isNone then stOk else stOutOfRange
  eff := fun c _ key b => (c.store d key b).useUpdTable b
  note := fun c _ b _ =>
    match c.badUpdTable b with
    | some x => c.updRefused x.1 x.2
    | none => c

/-- UPDATE_TABLE_WRITE. -/
def execUpdateTableWrite (rq : Fin 17) (table : Bytes) (s : State) : Host.Outcome State Fault Refusal :=
  s.on fun c => c.writeAs rq Obj.updateTable ObjType.domain.code table updateTableRule

def lrScheduleRule (d : ObjDef) : WriteRule where
  cond := fun _ _ _ b _ => if (scheduleBad b).isNone then stOk else stOutOfRange
  eff := fun c _ key b => (c.store d key b).setReg Obj.updLastReason 0
  note := fun c _ b _ =>
    match scheduleBad b with
    | some o => c.updRefused 6 o
    | none => c

/-- LR_SCHEDULE_WRITE. -/
def execLrScheduleWrite (rq : Fin 17) (schedule : Bytes) (s : State) : Host.Outcome State Fault Refusal :=
  s.on fun c => c.writeAs rq Obj.lrSchedule ObjType.blob.code schedule lrScheduleRule

/-! ### Gathers served and holds (R236, R249, R250) -/

/-- What a gather takes of a slot: the compute copy, or the hi plane where none is kept. -/
def UpdTensor.gatherPart (t : UpdTensor) (rows : Nat) : Nat × Nat :=
  if t.hasCopy then (t.partAt rows 1, (t.partBytes rows).getD 1 0) else (0, 4 * rows * t.width)

def Version.ver (v : Version) : Ver := (v.round.toNat, v.step.toNat)

def Ver.version (v : Ver) : Version := ⟨BitVec.ofNat 32 v.1, BitVec.ofNat 32 v.2⟩

/-- Slot that a gather is served from. -/
def ShardHeader.slotFor (h : ShardHeader) (v : Option Version) : Option Nat :=
  match v with
  | none => some h.active
  | some v =>
    if Version.ver v = noVersion then none
    else if h.current = Version.ver v then some h.active
    else if h.version h.target = Version.ver v then some h.target
    else none

/-- A gather that names a version in neither slot. -/
def Chip.versionGone (c : Chip) (s : UpdShard) : Chip :=
  (c.count Obj.versionGoneCount 1 32).occur 5 2 .upd noRegion s.headerAddr s.shardId.toNat

/-- A gather is served from a slot, or refused (R249); state without data is lost (R223). -/
def Chip.serveGather (c : Chip) (peer : BitVec 16) (shard : BitVec 32) (v : Option Version) (hold : Bool) : Chip :=
  match c.ownShard shard with
  | none => c
  | some s =>
    match c.upd.tensors[s.tensor]? with
    | none => c
    | some t =>
      match c.shardHeader s with
      | (.inr a, c) => (c.abort abStateLost a).emit (.gatherServed peer shard (Ver.version noVersion) [])
      | (.inl h, c) =>
        let refuse := fun (c : Chip) => (c.versionGone s).emit (.gatherServed peer shard (Ver.version noVersion) [])
        match h.slotFor v with
        | none => refuse c
        | some n =>
          if s.isParked && n != h.active then refuse c
          else
            let (o, len) := t.gatherPart s.rowCount
            let base := if s.isParked then s.stageAddr else s.slotAddr n
            match c.readMem [] (base + o) len with
            | (.inr a, c) => (c.abort abStateLost a).emit (.gatherServed peer shard (Ver.version noVersion) [])
            | (.inl b, c) =>
              let c := if hold then c.setHolds shard.toNat n (c.holdsOn shard.toNat n + 1) else c
              c.emit (.gatherServed peer shard (Ver.version (h.version n)) b)

/-- GATHER_REQUEST. -/
def execGatherRequest (peer : BitVec 16) (shard : BitVec 32) (version : Option Version) (hold : Bool) (s : State) :
    Host.Outcome State Fault Refusal :=
  s.on fun c => c.serveGather peer shard version hold

/-- An update that waited goes on. -/
def Chip.resumeUpdates (c : Chip) : Chip := if c.upd.running && !c.upd.waiting.isEmpty then c.runUpdates else c

/-- HOLD_RELEASE. -/
def execHoldRelease (shard : BitVec 32) (slot : Fin 2) (s : State) : Host.Outcome State Fault Refusal :=
  s.on fun c =>
    let n := c.holdsOn shard.toNat slot
    if n = 0 then c else (c.setHolds shard.toNat slot (n - 1)).resumeUpdates

/-- Holds of a slot that a writer has waited on for HOLD_WAIT_LIMIT are revoked (R250). -/
def Chip.revokeHolds (c : Chip) (s : UpdShard) (slot : Nat) : Chip :=
  let n := c.holdsOn s.shardId.toNat slot
  ((c.setHolds s.shardId.toNat slot 0).count Obj.holdsRevoked 1 32).occur 5 3 .upd noRegion s.headerAddr n

/-- HOLD_WAIT_EXPIRY. -/
def execHoldWaitExpiry (shard : BitVec 32) (s : State) : Host.Outcome State Fault Refusal :=
  s.on fun c =>
    match c.ownShard shard with
    | none => c
    | some s =>
      if !c.upd.running || !c.upd.waiting.contains shard then c
      else
        match c.shardHeader s with
        | (.inl h, c) => if c.holdsOn shard.toNat h.target = 0 then c else (c.revokeHolds s h.target).resumeUpdates
        | (.inr _, c) => c

/-- A parked write-back has failed for SLOW_TIER_TIMEOUT (R254): no DONE, STEP_STATE_LOST, halt; the new state stays in
staging. -/
def Chip.slowTier (c : Chip) (shard : BitVec 32) : Chip :=
  match c.ownShard shard with
  | none => c
  | some s =>
    if c.upd.running && c.upd.unwritten.contains shard && !c.upd.stuck.contains shard then
      ({ c with upd := { c.upd with parkedLost := true, stuck := c.upd.stuck ++ [shard] } }).stateLostHalt s.headerAddr
    else c

/-- SLOW_TIER_TIMEOUT. -/
def execSlowTierTimeout (shard : BitVec 32) (s : State) : Host.Outcome State Fault Refusal := s.on fun c => c.slowTier shard

end Sys2Proof.Machine
end

