-- ==== Sys2Proof/Machine/CkptOps.lean ====
section
/-! DEFINITION. Machine/CkptOps.lean: checkpoints (R257 to R259, R357, R358): the file of a module's committed state, and
its import by slot and flip. -/

namespace Sys2Proof.Machine

def ckptMagic : Nat := 0x4B435743

/-- Sections as (KIND, SHARD_ID, APPLIED, bytes). -/
abbrev CkptSection := Nat × Nat × Nat × Bytes

/-- SCALE_TABLE: k, then held and form (Table 8-9). -/
def Chip.scaleTableBytes (c : Chip) : Bytes :=
  ((List.range 8192).map fun i =>
    let form := if i % 2 = 0 then Sparse.get 0 c.step.forms (i / 2) else 0
    leBytes 1 (Sparse.get 0#8 c.step.scaleK i).toNat ++ leBytes 1 ((if c.step.held.contains i then 1 else 0) + 2 * form)).flatten

/-- The scale table section: SCALE_TABLE, then grow of each index (R258). -/
def Chip.scaleSection (c : Chip) : Bytes :=
  c.scaleTableBytes ++ ((List.range 8192).map fun i => leBytes 4 (Sparse.get 0 c.step.grow i)).flatten

def fill4096 (b : Bytes) : Bytes := b ++ zeros (alignUp 4096 b.length - b.length)

/-- Committed state of every owned shard, in table order; none where a read delivers no data. -/
def Chip.shardSections (c : Chip) : List UpdShard → Option (List CkptSection) × Chip
  | [] => (some [], c)
  | s :: r =>
    match c.upd.tensors[s.tensor]?, c.shardHeader s with
    | some t, (.inl h, c) =>
      match c.readMem [] (s.stateAddr h) (t.slotBytes s.rowCount) with
      | (.inl b, c) =>
        match Chip.shardSections c r with
        | (some l, c) => (some ((1, s.shardId.toNat, h.applied, b) :: l), c)
        | (none, c) => (none, c)
      | (.inr _, c) => (none, c)
    | _, (_, c) => (none, c)

/-- Number of the active round block: the one whose tag is the round of the active version (R334). -/
def activeBlock (tag0 tag1 round : Nat) : Nat := if tag1 = round && tag0 != round then 1 else 0

/-- The round base section: each owned shard's active round block, and its delta area while a round is closed and not
merged, every part filled to 4,096 bytes (R358). -/
def Chip.roundSection (c : Chip) : List RoundShard → Option Bytes × Chip
  | [] => (some [], c)
  | rs :: r =>
    match c.ownShard rs.shardId with
    | none => Chip.roundSection c r
    | some s =>
      match c.upd.tensors[s.tensor]?, c.shardHeader s with
      | some t, (.inl h, c) =>
        let n := s.rowCount * t.width
        match c.readMany [(rs.block0, 32), (rs.block1, 32)] with
        | (.inr _, c) => (none, c)
        | (.inl hs, c) =>
          let a := activeBlock (u32At (hs.getD 0 []) 0) (u32At (hs.getD 1 []) 0) h.current.1
          let parts := [(if a = 0 then rs.block0 else rs.block1, roundBlockBytes t.isPair n)] ++
            if c.rnd.pending.isSome then [(rs.delta, deltaAreaBytes n)] else []
          match c.readMany parts with
          | (.inr _, c) => (none, c)
          | (.inl bs, c) =>
            match Chip.roundSection c r with
            | (some x, c) => (some ((bs.map fill4096).flatten ++ x), c)
            | (none, c) => (none, c)
      | _, (_, c) => (none, c)

/-- All sections of the file. -/
def Chip.ckptSections (c : Chip) : Option (List CkptSection) × Chip :=
  match c.shardSections c.upd.shards with
  | (none, c) => (none, c)
  | (some l, c) =>
    let l := l ++ [(2, 0, 0, c.blob Obj.updateTable), (3, 0, 0, c.scaleSection)]
    if c.rnd.shards.isEmpty then (some l, c)
    else
      match c.roundSection c.rnd.shards with
      | (some b, c) => (some (l ++ [(4, 0, 0, b)]), c)
      | (none, c) => (none, c)

/-- A section table and its sections, the first of which begins at the first 4,096-byte boundary behind the table;
`at_` is the file offset of the table. -/
def sectionTable (at_ : Nat) (l : List CkptSection) : Bytes :=
  let first := alignUp 4096 (at_ + 32 * l.length)
  let t := (l.foldl (fun (a : Bytes × Nat) x =>
    (a.1 ++ (leBytes 2 x.1 ++ zeros 2 ++ leBytes 4 x.2.1 ++ leBytes 8 a.2 ++ leBytes 8 x.2.2.2.length ++ leBytes 4 x.2.2.1 ++ zeros 4),
      a.2 + alignUp 4096 x.2.2.2.length)) ([], first)).1
  t ++ zeros (first - at_ - t.length) ++ (l.map fun x => fill4096 x.2.2.2).flatten

/-- The key of CKPT_KEY_SLOT, where it is an XTS-AES-256 key. -/
def Chip.ckptKey (c : Chip) : Option Bytes :=
  (c.cipher.slots.find? fun e => e.1 == c.reg Obj.ckptKeySlot && e.2.type == 2).map fun e => e.2.key

def ckptDigest (header plain : Bytes) : Bytes := shake256 64 (header.take 0x40 ++ plain)

/-- The checkpoint file (R258). -/
def Chip.ckptFile (c : Chip) (key : Bytes) (l : List CkptSection) : Bytes :=
  let plain := sectionTable 4096 l
  let h := leBytes 4 ckptMagic ++ leBytes 2 1 ++ zeros 2 ++ leBytes 8 c.upd.castingId.toNat ++ leBytes 8 (c.reg Obj.srRunSeed) ++
    leBytes 4 (c.reg Obj.shardVersionRound) ++ leBytes 4 (c.reg Obj.shardVersionStep) ++ leBytes 8 (c.reg Obj.updatesApplied) ++
    leBytes 4 l.length ++ leBytes 4 0 ++ leBytes 8 (4096 + plain.length) ++ zeros 8
  let h := h ++ ckptDigest h plain
  h ++ zeros (4096 - h.length) ++ xtsCrypt true key 1 4096 plain

/-! ### Export (R257) -/

/-- The export is over: stepping resumes if it ran before the request. -/
def Chip.exportDone (c : Chip) (finish : Chip → Origin → Chip) : Chip :=
  let o := c.upd.exportOrigin
  let c := { c with
    upd := { c.upd with exportOrigin := none, exportBytes := [] }
    step := { c.step with on := c.step.on || c.step.resume, resume := false } }
  let c := (c.setReg Obj.ckptState 0).setReg Obj.ckptBytes 0
  let c := match o with
    | some o => finish c o
    | none => c
  c.refreshMark

/-- The file is presented at a step boundary; without its key, or with state that cannot be read, the request fails. -/
def Chip.presentExport (c : Chip) : Chip :=
  if c.reg Obj.ckptState = 1 && !c.step.inStep then
    match c.ckptKey with
    | none => c.exportDone fun c o => c.complete o Obj.ckptRequest 0x0A 0
    | some k =>
      match c.ckptSections with
      | (none, c) => c.exportDone fun c o => c.completeFailed o Obj.ckptRequest 0
      | (some l, c) =>
        let f := c.ckptFile k l
        let c := { c with upd := { c.upd with exportBytes := f } }
        ((c.setReg Obj.ckptState 2).setReg Obj.ckptBytes f.length).setBlob Obj.ckptExport f
  else c

/-- The whole file has been read once, or the export is ended (R257). -/
def Chip.endExport (c : Chip) : Chip :=
  if c.reg Obj.ckptState = 1 ∨ c.reg Obj.ckptState = 2 then
    (c.exportDone fun c o => c.complete o Obj.ckptRequest 0 0).setBlob Obj.ckptExport []
  else c

/-- An export is asked for. -/
def Chip.startExport (c : Chip) (o : Origin) : Chip :=
  let c := { c with
    upd := { c.upd with exportOrigin := some o }
    step := { c.step with resume := c.step.on, on := false } }
  let c := c.setReg Obj.ckptState 1
  (if c.step.inStep then c else c.setReg Obj.stepState (if c.reg Obj.stepState ≤ 4 then 0 else c.reg Obj.stepState)).presentExport.refreshMark

/-- CKPT_REQUEST: 1 exports, 2 ends the export. One export at a time. -/
def ckptRequestRule : WriteRule where
  cond := fun c _ _ b _ => if leNat b = 1 ∧ c.reg Obj.ckptState ≠ 0 then stState else stOk
  eff := fun c o _ b => if leNat b = 1 then c.startExport o else (c.endExport).complete o Obj.ckptRequest 0 0

/-- CKPT_EXPORT_START. -/
def execCkptExportStart (rq : Fin 17) (s : State) : Host.Outcome State Fault Refusal :=
  s.on fun c => c.write rq Obj.ckptRequest [1#8] ckptRequestRule

/-- CKPT_EXPORT_END. -/
def execCkptExportEnd (rq : Fin 17) (s : State) : Host.Outcome State Fault Refusal :=
  s.on fun c => c.write rq Obj.ckptRequest [2#8] ckptRequestRule

/-! ### Import (R259) -/

/-- Section entries of a table at `at_` in `b`: (entry offset, KIND, SHARD_ID, OFFSET, LENGTH, APPLIED). -/
structure SectionAt where
  entry : Nat
  kind : Nat
  shard : Nat
  offset : Nat
  len : Nat
  applied : Nat

def sectionsAt (b : Bytes) (at_ n : Nat) : List SectionAt :=
  (List.range n).map fun i =>
    let o := at_ + 32 * i
    ⟨o, u16At b o, u32At b (o + 4), u64At b (o + 8), u64At b (o + 16), u32At b (o + 24)⟩

/-- First bad field of the section table of a file of `total` bytes; `kinds` are those the file may carry. -/
def badSections (b : Bytes) (at_ n total : Nat) (kinds : List Nat) : Option Nat :=
  if b.length < at_ + 32 * n then some at_
  else (sectionsAt b at_ n).findSome? fun s =>
    firstOf [
      (!kinds.contains s.kind, s.entry), (u16At b (s.entry + 2) != 0, s.entry + 2),
      (s.kind != 1 && s.shard != 0, s.entry + 4),
      (!aligned 4096 s.offset || decide (total < s.offset + s.len), s.entry + 8),
      (u32At b (s.entry + 28) != 0, s.entry + 28)]

def ckptKinds : List Nat := [1, 2, 3, 4]

/-- 0x01 on the clear header page. -/
def badCkptHeader (b : Bytes) : Option Nat :=
  firstOf [
    (decide (b.length < 4096) || !aligned 4096 b.length, 0), (u32At b 0 != ckptMagic, 0), (u16At b 4 != 1, 4),
    (u16At b 6 != 0, 6), (u32At b 0x28 == 0, 0x28), (decide (1 < u32At b 0x2C), 0x2C), (u64At b 0x30 != b.length, 0x30),
    (!allZero (slice b 0x38 8), 0x38), (!allZero (slice b 0x80 (4096 - 0x80)), 0x80)]

def ckptMomentsZero (b : Bytes) : Bool := bit (u32At b 0x2C) 0

/-- Bytes a shard section holds at least: the slot, or weights and compute copy alone. -/
def UpdTensor.sectionBytes (t : UpdTensor) (rows : Nat) (zero : Bool) : Nat :=
  if zero then (if t.hasCopy then t.partAt rows 1 + (t.partBytes rows).getD 1 0 else (t.partBytes rows).getD 0 0)
  else t.slotBytes rows

/-- A shard section for every owned shard, long enough for its state. -/
def Chip.missingShard (c : Chip) (l : List SectionAt) (zero : Bool) : Bool :=
  c.upd.shards.any fun s =>
    match c.upd.tensors[s.tensor]? with
    | none => true
    | some t => !(l.any fun x => x.kind == 1 && x.shard == s.shardId.toNat && decide (t.sectionBytes s.rowCount zero ≤ x.len))

/-- What an import finds: the clear text, or its reason code and offset. -/
def Chip.openCkpt (c : Chip) (b : Bytes) : Bytes ⊕ (Nat × Nat) :=
  match badCkptHeader b with
  | some o => .inr (1, o)
  | none =>
    match c.slotOfId (u64At b 8) with
    | none => .inr (2, 8)
    | some _ =>
      match c.ckptKey with
      | none => .inr (0x0A, 0)
      | some k =>
        let f := b.take 4096 ++ xtsCrypt false k 1 4096 (b.drop 4096)
        let n := u32At b 0x28
        match badSections f 4096 n f.length ckptKinds with
        | some o => .inr (1, o)
        | none =>
          if slice b 0x40 64 ≠ ckptDigest (b.take 0x40) (f.drop 4096) then .inr (3, 0x40)
          else if c.missingShard (sectionsAt f 4096 n) (ckptMomentsZero b) then .inr (8, 4096)
          else .inl f

def pickSection (f : Bytes) (l : List SectionAt) (kind shard : Nat) : Option (SectionAt × Bytes) :=
  (l.find? fun x => x.kind == kind && x.shard == shard).map fun x => (x, slice f x.offset x.len)

/-- The slot image of a shard from its section; under MOMENTS_ZERO the moments are +0 (R259). -/
def UpdTensor.importSlot (t : UpdTensor) (rows : Nat) (zero : Bool) (b : Bytes) : Bytes :=
  if zero then
    let d := t.zeroMoments rows (t.readSlot rows b)
    t.slotImage d (d.m.map fun _ => 0)
  else b.take (t.slotBytes rows)

/-- Holds on a slot that an import writes are revoked; a write waits for them no longer than R250 allows. -/
def Chip.clearHolds (c : Chip) (s : UpdShard) (slot : Nat) : Chip :=
  if c.holdsOn s.shardId.toNat slot = 0 then c else c.revokeHolds s slot

/-- One shard written and flipped to a version. -/
def Chip.importShard (c : Chip) (t : UpdTensor) (s : UpdShard) (v : Ver) (applied : Nat) (slot : Bytes) : Chip :=
  let (h, c) := match c.shardHeader s with
    | (.inl h, c) => (h, c)
    | (.inr _, c) => let (b, c) := c.freeBytes 32; (ShardHeader.ofBytes b, c)
  (c.clearHolds s h.target).flipShard t s h.target slot (h.flip s.shardId.toNat v applied)

/-- Scale table and grow counts restored. -/
def Chip.importScales (c : Chip) (b : Bytes) : Chip :=
  let ks := (List.range 8192).foldl (fun m i => Sparse.put 0#8 m i (BitVec.ofNat 8 (u8At b (2 * i)))) ([] : Sparse (BitVec 8))
  let gs := (List.range 8192).foldl (fun m i => Sparse.put 0 m i (u32At b (16384 + 4 * i))) ([] : Sparse Nat)
  { c with step := { c.step with scaleK := ks, grow := gs, nextK := [] } }

/-- Round state of a shard without a round base: base equal to the weights, v and e +0, tag 0, delta area empty (R357). -/
def Chip.freshRound (c : Chip) (t : UpdTensor) (s : UpdShard) (rs : RoundShard) (slot : Bytes) : Chip :=
  let n := s.rowCount * t.width
  let d := t.readSlot s.rowCount slot
  let z := List.replicate n 0
  let b : RoundBlock := ⟨d.wHi, d.wLo, z, z⟩
  ((c.writeMem rs.block0 (b.bytes 0 s.shardId.toNat)).writeMem rs.block1 (leBytes 4 noRound)).writeMem rs.delta (leBytes 4 noRound)

/-- Round state of a shard from a round base: block 0 takes the block under the checkpoint's round; a pending round's
outbound slot is compressed again from the delta area (R358). -/
def Chip.takeRound (c : Chip) (t : UpdTensor) (s : UpdShard) (rs : RoundShard) (v : Ver) (block : Bytes) (delta : Option Bytes) :
    Chip :=
  let n := s.rowCount * t.width
  let z := c.roundSettings
  let b := RoundBlock.ofBytes t.isPair n block
  let c := (c.writeMem rs.block0 (b.bytes v.1 s.shardId.toNat)).writeMem rs.block1 (leBytes 4 noRound)
  match delta with
  | none => c.writeMem rs.delta (leBytes 4 noRound)
  | some d =>
    let x := deltaX z.feedback b ((f32List d 4096 n).map fv)
    let ims := (deltaImages z.fmt z.rate (stepKey (c.reg Obj.srRunSeed) v.1 v.2) rs.deltaTensor.toNat s.rowFirst s.rowCount t.width z.sr
      (x.map Prod.fst)).1
    (c.writeMem rs.delta d).putImages z.fmt
      (rs.out + u32At d 0 % Nat.max 1 c.rnd.outSlots * deltaSlotBytes z.fmt s.rowCount t.width) z.rate (ims.map fun x => x.1)

/-- Every shard's round state from a round base section; `pending` says whether it holds delta areas. -/
def Chip.takeRounds (c : Chip) (v : Ver) (pending : Bool) : List RoundShard → Bytes → Chip
  | [], _ => c
  | rs :: r, b =>
    match c.ownShard rs.shardId with
    | none => Chip.takeRounds c v pending r b
    | some s =>
      match c.upd.tensors[s.tensor]? with
      | none => Chip.takeRounds c v pending r b
      | some t =>
        let n := s.rowCount * t.width
        let k := alignUp 4096 (roundBlockBytes t.isPair n)
        let d := if pending then alignUp 4096 (deltaAreaBytes n) else 0
        let delta := if pending then some (slice b k (deltaAreaBytes n)) else none
        Chip.takeRounds (c.takeRound t s rs v (b.take (roundBlockBytes t.isPair n)) delta) v pending r (b.drop (k + d))

/-- Bytes of a round base section of this module's shards without delta areas. -/
def Chip.roundBaseBytes (c : Chip) : Nat :=
  c.rnd.shards.foldl (fun a rs =>
    match (c.ownShard rs.shardId).bind fun s => (c.upd.tensors[s.tensor]?).map fun t => (s, t) with
    | none => a
    | some (s, t) => a + alignUp 4096 (roundBlockBytes t.isPair (s.rowCount * t.width))) 0

/-- Round numbers after an import: the version's round is merged; a pending round is closed, and its first delta area
names it. -/
def Chip.importedRounds (c : Chip) (v : Ver) (pending : Option Nat) : Chip :=
  let c := { c with rnd := { c.rnd with
    pending := pending, closeMono := c.time.mono, windowPassed := false, ready := false, frozen := [], decided := none
    held := pending.toList, merges := [], control := none, controlClose := none, contributions := [], rejected := [], resent := [], history := [], ownNonfinite := false } }
  (((c.setReg Obj.rndRoundMerged v.1).setReg Obj.rndRoundClosed (pending.getD v.1)).setReg Obj.rndStepsInRound 0).refreshRounds

/-- The module stands at an imported version (R259): counts, patina, holds; the next step is the one after it. -/
def Chip.atVersion (c : Chip) (v : Ver) (applied : Nat) : Chip :=
  let c := ((((c.setReg Obj.updatesApplied applied).setReg Obj.shardVersionRound v.1).setReg Obj.shardVersionStep v.2).setReg
    Obj.stepCommitted v.2).setReg Obj.stepNumber v.2
  { c.emptyPatina with
    step := { c.emptyPatina.step with round := v.1, inStep := false, committing := false, combined := none, records := none, latest := [] }
    upd := { c.upd with running := false, waiting := [], unwritten := [], parkedLost := false, stuck := [] } }

/-- A verified checkpoint takes effect. -/
def Chip.takeCkpt (c : Chip) (f : Bytes) : Chip :=
  let l := sectionsAt f 4096 (u32At f 0x28)
  let v : Ver := (u32At f 0x18, u32At f 0x1C)
  let zero := ckptMomentsZero f
  let c := c.each (List.range engines) fun c g =>
    c.setJournal g (journalKept (c.journal g) ++ [journalRecord jImportBegin v.1 v.2 0 0 0 0 0])
  let base := pickSection f l 4 0
  let c := c.each c.upd.shards fun c s =>
    match c.upd.tensors[s.tensor]?, pickSection f l 1 s.shardId.toNat with
    | some t, some (x, b) =>
      let slot := t.importSlot s.rowCount zero b
      let c := c.importShard t s v x.applied slot
      match c.rnd.shards.find? fun r => r.shardId == s.shardId, base with
      | some rs, none => c.freshRound t s rs slot
      | _, _ => c
    | _, _ => c
  let n := c.roundBaseBytes
  let pend := base.isSome && decide (n < (base.map fun x => x.2.length).getD 0)
  let c := match base with
    | some x => c.takeRounds v pend c.rnd.shards x.2
    | none => c
  let c := match pickSection f l 3 0 with
    | some x => c.importScales x.2
    | none => c
  let first := ((c.rnd.shards.head?).bind fun rs => c.ownShard rs.shardId).bind fun s =>
    (c.upd.tensors[s.tensor]?).map fun t => alignUp 4096 (roundBlockBytes t.isPair (s.rowCount * t.width))
  let pending := if pend then first.map fun o => u32At ((base.map fun x => x.2).getD []) o else none
  let c := (c.atVersion v (u64At f 0x20)).journalAll (journalRecord jImportDone v.1 v.2 0 0 0 0 0)
  (c.importedRounds v pending).setReg Obj.updLastReason 0

def Chip.importStatus (c : Chip) : Nat := if c.upd.tensors.isEmpty || c.reg Obj.ckptState != 0 then stState else stOk

/-- CKPT_IMPORT: the file is checked and taken, or refused with the codes of Table 9-5. An update table must be in
force. -/
def ckptImportRule : WriteRule where
  cond := fun c _ _ _ _ => c.importStatus
  opens := fun c _ => c.importStatus
  eff := fun c o key b =>
    match c.openCkpt b with
    | .inr (code, off) => (c.updRefused code off).complete o key code off
    | .inl f => (c.takeCkpt f).complete o key 0 0

/-- CKPT_IMPORT. -/
def execCkptImport (rq : Fin 17) (file : Bytes) (s : State) : Host.Outcome State Fault Refusal :=
  s.on fun c => c.write rq Obj.ckptImport file ckptImportRule

end Sys2Proof.Machine
end

