-- ==== Sys2Proof/Machine/DmaOps.lean ====
section
/-! DEFINITION. Machine/DmaOps.lean: a DMA channel at work (R405 to R417): completions, triggers, passes, stops and
errors. -/

namespace Sys2Proof.Machine

/-! ### Channels -/

def Chip.dmaChan (c : Chip) (ch : Nat) : DmaChannel := Sparse.get DmaChannel.blank c.dma ch

def Chip.setDma (c : Chip) (ch : Nat) (x : DmaChannel) : Chip := { c with dma := Sparse.put DmaChannel.blank c.dma ch x }

/-- States of DMA_STATE (Table 16-6). -/
def dmaIdle : Nat := 0
def dmaWaiting : Nat := 1
def dmaRunning : Nat := 2
def dmaFailed : Nat := 3
def dmaStopped : Nat := 4

def Chip.dmaStateOf (c : Chip) (ch : Nat) : Nat := c.reg (Obj.dmaState ch)

/-- A descriptor of a channel; one that was never written is 64 zero bytes. -/
def DmaChannel.desc (x : DmaChannel) (i : Nat) : DmaDesc := DmaDesc.ofBytes (x.descs.getD i (zeros 64))

/-! ### Completions (R411) -/

def dmaRing : Nat := 64

/-- An entry of the completion ring. -/
def dmaEntry (status kind desc pass bytes time : Nat) : Bytes :=
  leBytes 1 status ++ leBytes 1 kind ++ leBytes 1 desc ++ leBytes 1 pass ++ leBytes 4 bytes ++ leBytes 8 time

/-- An entry is posted; where the ring is full it waits, and the channel holds. -/
def Chip.dmaPost (c : Chip) (ch status kind bytes : Nat) : Chip :=
  let x := c.dmaChan ch
  let e := dmaEntry status kind x.cur x.pass bytes c.now64
  if x.ring.length < dmaRing && x.held.isEmpty then c.setDma ch { x with ring := x.ring ++ [e] }
  else c.setDma ch { x with held := x.held ++ [e], heldSince := if x.held.isEmpty then c.time.mono else x.heldSince }

/-- The entries held are returned and freed, and those that waited take their places; the hold ends where all have. -/
def Chip.dmaTake (c : Chip) (ch : Nat) : Bytes × Chip :=
  let x := c.dmaChan ch
  let c := c.setDma ch { x with ring := x.held.take dmaRing, held := x.held.drop dmaRing, heldSince := c.time.mono }
  (x.ring.flatten, if x.held.isEmpty then c else c.count (Obj.dmaHoldNs ch) (c.time.mono - x.heldSince) 64)

/-! ### Triggers (R408, R409) -/

/-- A pass begins, or the channel waits for the trigger of its descriptor. -/
def Chip.dmaAwait (c : Chip) (ch : Nat) : Chip :=
  let x := c.dmaChan ch
  let d := x.desc x.cur
  if d.trigger = 1 ∨ d.trigger = 2 then
    if x.trigger then (c.setDma ch { x with trigger := false, half := false }).setReg (Obj.dmaState ch) dmaRunning
    else c.setReg (Obj.dmaState ch) dmaWaiting
  else (c.setDma ch { x with half := false }).setReg (Obj.dmaState ch) dmaRunning

/-- A descriptor is reached. -/
def Chip.dmaReach (c : Chip) (ch i : Nat) : Chip :=
  (c.setDma ch { c.dmaChan ch with cur := i, pass := 0, half := false, reached := c.time.mono }).dmaAwait ch

/-- The channel starts at DMA_START_DESC, pass 0. -/
def Chip.dmaBegin (c : Chip) (ch : Nat) : Chip :=
  let c := (c.setDma ch { c.dmaChan ch with trigger := false, stopAsked := false }).setReg (Obj.dmaBytesDone ch) 0
  (c.setReg (Obj.dmaEnable ch) 1).dmaReach ch (c.reg (Obj.dmaStartDesc ch))

/-- A timer or chained trigger reaches a channel. -/
def Chip.dmaTriggered (c : Chip) (ch : Nat) : Chip :=
  let x := c.dmaChan ch
  let st := c.dmaStateOf ch
  if st = dmaWaiting then (c.setDma ch { x with half := false }).setReg (Obj.dmaState ch) dmaRunning
  else if st = dmaRunning then
    if x.trigger then (c.count Obj.dmaTriggersLost 1 64).occur 11 3 .dma noRegion ch 0
    else c.setDma ch { x with trigger := true }
  else c

/-- A half or full notification of channel `src` triggers the channels chained to it. -/
def Chip.dmaChain (c : Chip) (src : Nat) (half : Bool) : Chip :=
  c.each (((c.dma.map (·.1)).filter fun ch => decide (ch < 512)).filter fun ch =>
    let x := c.dmaChan ch
    let d := x.desc x.cur
    d.trigger == 2 && bits d.arg 8 0 == src && bit d.arg 9 == half) fun c ch => c.dmaTriggered ch

/-! ### Stops (R413, R414) -/

/-- Route of a route-bound channel, with its casting slot. -/
def Chip.dmaRoute (c : Chip) (x : DmaChannel) : Option (Nat × Route) :=
  x.route.bind fun r => (c.array.casting r.1).bind fun k => (k.routes.find? fun y => y.route == r.2).map fun y => (r.1, y)

/-- The bytes that a stopped pass would have written hold undefined values at their destinations (R413). -/
def Chip.dmaUndefined (c : Chip) (ch : Nat) : Chip :=
  let x := c.dmaChan ch
  let d := x.desc x.cur
  let rows := (List.range d.rows).filter fun r => (d.rowBad ch x.route.isSome x.pass r).isNone
  if c.dmaStateOf ch ≠ dmaRunning ∨ d.badFields.isSome then c
  else if spaceOf d.dst = 0 then
    c.each rows fun c r => let (b, c) := c.freeBytes d.rowBytes; c.writeMem (d.dstAt x.pass r) b
  else
    match c.dmaRoute x with
    | some (_, r) =>
      if r.kind = 1 ∨ r.kind = 3 then
        let p := c.array.physical r.dst.toNat
        match (c.tile p).queue? r.dstQueue.toNat with
        | some q =>
          let (b, c) := c.freeBytes q.slotBytes
          if q.slot q.nextMove = .free then
            c.setTile p { c.tile p with mem := Memory.writeBytes (c.tile p).mem (q.base + q.nextMove * q.slotBytes) b }
          else c
        | none => c
      else c
    | none =>
      if spaceOf d.dst = 2 then
        c.each rows fun c r =>
          let (b, c) := c.freeBytes d.rowBytes
          { c with linkMem := Memory.writeBytes c.linkMem (within (d.dstAt x.pass r)) b }
      else c

/-- An ordinary channel stops at once: the bytes of its entry, DMA_BYTES_DONE and its pass count are free values. -/
def Chip.dmaStopNow (c : Chip) (ch : Nat) : Chip :=
  let st := c.dmaStateOf ch
  if st = dmaIdle ∨ st = dmaStopped ∨ st = dmaFailed then c.setReg (Obj.dmaEnable ch) 0
  else
    let c := c.dmaUndefined ch
    let (b, c) := c.freeNat 32
    let (n, c) := c.freeNat 64
    let (p, c) := c.freeNat 8
    let c := c.setDma ch { c.dmaChan ch with trigger := false, pass := p }
    (((c.dmaPost ch 0 4 b).setReg (Obj.dmaBytesDone ch) n).setReg (Obj.dmaState ch) dmaStopped).setReg (Obj.dmaEnable ch) 0

/-! ### Errors (R416, R417) -/

/-- An error completion; `since` is the fault log's next number when the pass began, so that an entry the cause has
written for the same address serves. -/
def Chip.dmaError (c : Chip) (ch status addr bytes since : Nat) : Chip :=
  let c := ((c.dmaPost ch status 3 bytes).setReg (Obj.dmaLastStatus ch) status).count Obj.dmaErrors 1 64
  let c := (c.setReg (Obj.dmaState ch) dmaFailed).setReg (Obj.dmaEnable ch) 0
  let told := c.flt.entries.any fun e => decide (since ≤ e.seq) && e.address.toNat == addr
  let c := if told then c.setSticky 11 4 else c.occurCode 11 2 .dma status noRegion addr 0
  if (c.dmaChan ch).route.isSome then c.abort (if status = dmaNoData then abMem else abDma) addr else c

/-! ### A pass (R407, R412) -/

/-- An image with element (r, c) moved to (c, r), each plane alike. -/
def transposeImage (fmt : Nat) (im : Bytes) : Bytes :=
  match TFmt.ofCode fmt with
  | none => im
  | some f =>
    let w := f.elem.width
    let plane := fun i =>
      let es := planeElems f im i
      leBytes (128 * w) (packElems w ((List.range 1024).map fun e => es.getD (32 * (e % 32) + e / 32) 0))
    plane 0 ++ if f.pair then plane 1 else []

/-- A row of images as read: each with its stored rate. -/
def Chip.readRowImages (c : Chip) (flips : List (Nat × Flips)) (d : DmaDesc) (a : Nat) : Nat → (List (Bytes × Nat) ⊕ Nat × Nat) × Chip
  | 0 => (.inl [], c)
  | n + 1 =>
    match c.readImage flips d.fmt a d.through with
    | (.ok b r, c) =>
      match Chip.readRowImages c flips d (a + imageBytes d.fmt) n with
      | (.inl l, c) => (.inl ((b, r) :: l), c)
      | (.inr x, c) => (.inr x, c)
    | (.noData x, c) => (.inr (dmaNoData, x), c)
    | (.badMap, c) => (.inr (dmaBadMap, a), c)

/-- A row of a message or of the link-die side as images. -/
def rowImages (d : DmaDesc) (b : Bytes) : List (Bytes × Nat) :=
  if d.images then (chunks (imageBytes d.fmt) b).map fun im => (im, 0) else [(b, 0)]

/-- One row at its source; `outside` holds the bytes of a source that is not LPDDR6. -/
def Chip.readRow (c : Chip) (flips : List (Nat × Flips)) (d : DmaDesc) (i r : Nat) (outside : Bytes) :
    (List (Bytes × Nat) ⊕ Nat × Nat) × Chip :=
  if spaceOf d.src = 0 then
    if d.images then c.readRowImages flips d (d.srcAt i r) (d.rowBytes / Nat.max 1 (imageBytes d.fmt))
    else
      match c.readMem flips (d.srcAt i r) d.rowBytes with
      | (.inl b, c) => (.inl [(b, 0)], c)
      | (.inr a, c) => (.inr (dmaNoData, a), c)
  else (.inl (rowImages d (slice outside (r * d.rowBytes) d.rowBytes)), c)

/-- One row at a destination in LPDDR6, encoded at RATE, or as it was stored under PASS_THROUGH. -/
def Chip.writeRow (c : Chip) (d : DmaDesc) (i r : Nat) (l : List (Bytes × Nat)) : Chip :=
  if d.images then
    c.each ((List.range l.length).zip l) fun c x =>
      let a := d.dstAt i r + x.1 * imageBytes d.fmt
      if d.through then c.putImage a x.2.2 x.2.1 x.2.1.length else c.writeImage d.fmt d.rate d.tensor a x.2.1
  else c.each l fun c x => c.writeMem (d.dstAt i r) x.1

/-- How the rows of a pass went: the rows read, or a status with its address and the bytes moved before it. -/
structure PassResult where
  rows : List (List (Bytes × Nat))
  bad : Option (Nat × Nat)
deriving DecidableEq, Repr, Inhabited

/-- R186 for a status: a named address in a reserved region sets MEM_RESERVED_ACCESS with an entry of its own. -/
def Chip.noteReserved (c : Chip) (status addr : Nat) : Chip :=
  if status = dmaReserved then c.occur 3 3 .mem noRegion addr 0 else c

/-- Rows `r` onward, `n` of them; a row whose destination is LPDDR6 is written as soon as it is read. -/
def Chip.moveRows (c : Chip) (ch : Nat) (routed : Bool) (flips : List (Nat × Flips)) (d : DmaDesc) (i : Nat) (outside : Bytes)
    (r : Nat) : Nat → PassResult × Chip
  | 0 => (⟨[], none⟩, c)
  | n + 1 =>
    match d.rowBad ch routed i r with
    | some b => (⟨[], some (b.status, b.addr.getD d.src)⟩, c.noteReserved b.status (b.addr.getD 0))
    | none =>
      match c.readRow flips d i r outside with
      | (.inr x, c) => (⟨[], some x⟩, c)
      | (.inl l, c) =>
        let l := if d.transpose then l.map fun x => (transposeImage d.fmt x.1, x.2) else l
        let c := if spaceOf d.dst = 0 && !routed then c.writeRow d i r l else c
        let (x, c) := Chip.moveRows c ch routed flips d i outside (r + 1) n
        (⟨l :: x.rows, x.bad⟩, c)

/-- Bytes of a message from its rows. -/
def rowsData (l : List (List (Bytes × Nat))) : Bytes := (l.map fun r => (r.map (·.1)).flatten).flatten

/-- Whether a pass can end now, what its source gives, and the state with that taken; `wait` where the source has no
message yet or the destination no room (R157, R316). -/
inductive PassStart where
  | wait
  | go (outside : Bytes) (c : Chip)

def takeFirst (key : Nat) : List (Nat × Bytes) → Option (Bytes × List (Nat × Bytes))
  | [] => none
  | e :: r => if e.1 = key then some (e.2, r) else (takeFirst key r).map fun x => (x.1, e :: x.2)

/-- Flow context of a bulk stream that a channel serves: 1 supplies messages, 2 receives them (Table 14-4). -/
def Chip.bulkContext (c : Chip) (ch state : Nat) : Option Nat :=
  (c.slk.contexts.find? fun e => decide (384 ≤ e.1) && e.2.state.toNat == state && e.2.dmaChannel.toNat == ch).map fun e => e.1

/-- Source side of a pass. -/
def Chip.passSource (c : Chip) (ch : Nat) (x : DmaChannel) (d : DmaDesc) (env : PassEnv) : PassStart :=
  match c.dmaRoute x with
  | some (slot, r) =>
    if r.kind = 2 ∨ r.kind = 4 then
      match takeFirst (routeKey slot r.route.toNat) c.array.meshOut with
      | none => .wait
      | some (b, l) => .go b { c with array := { c.array with meshOut := l } }
    else if r.kind = 3 then
      match takeFirst (routeKey slot r.route.toNat) c.bz.inbox with
      | none => .wait
      | some (b, l) => .go b { c with bz := { c.bz with inbox := l } }
    else .go [] c
  | none =>
    if spaceOf d.src = 2 && (c.bulkContext ch 2).isSome then
      match takeFirst ch c.slk.inbox with
      | none => .wait
      | some (b, l) => .go b { c with slk := { c.slk with inbox := l } }
    else if spaceOf d.src = 2 then
      .go (if env.inbound.isEmpty then Memory.readBytes c.linkMem (within d.src) (d.rows * d.rowBytes)
        else padTo (d.rows * d.rowBytes) env.inbound) c
    else .go [] c

/-- The other end of a route has room: a free receive slot of the tile, a send credit of the binding. -/
def Chip.passRoom (c : Chip) (x : DmaChannel) : Bool :=
  match c.dmaRoute x with
  | none => true
  | some (slot, r) =>
    if r.kind = 1 ∨ r.kind = 3 then
      match (c.tile (c.array.physical r.dst.toNat)).queue? r.dstQueue.toNat with
      | some q => q.slot q.nextMove == .free
      | none => false
    else if r.kind = 4 then
      match c.bindingOf slot (c.reg Obj.bzModuleNumber) r.route.toNat with
      | none => false
      | some n =>
        match (c.bindings slot)[n]? with
        | none => false
        | some b => b.transfer != 0 || (c.bzFlow b.peerModule.toNat).lost || c.bzHasCredit (bindingChannel slot n)
    else true

/-- Destination side of a routed or link-die pass, once every row is read. -/
def Chip.passDeliver (c : Chip) (ch : Nat) (x : DmaChannel) (d : DmaDesc) (i : Nat) (rows : List (List (Bytes × Nat))) : Chip :=
  let data := rowsData rows
  match c.dmaRoute x with
  | some (slot, r) =>
    if r.kind = 1 ∨ r.kind = 3 then
      (c.deliver (c.array.physical r.dst.toNat) r.dstQueue.toNat data).2.watchMessage slot r.route.toNat data
    else if r.kind = 2 then c.each ((List.range rows.length).zip rows) fun c y => c.writeRow d i y.1 y.2
    else
      match c.bindingOf slot (c.reg Obj.bzModuleNumber) r.route.toNat with
      | none => c
      | some n =>
        match (c.bindings slot)[n]? with
        | none => c
        | some b =>
          if b.transfer = 0 then c.bzSendMessage (bindingChannel slot n) b.peerModule.toNat data
          else c.routeCollective slot r.route.toNat b d.fmt d.rate d.tensor data
  | none =>
    if spaceOf d.dst = 2 then
      match c.bulkContext ch 1 with
      | some n => c.contextSendNext n data
      | none =>
      let m := ((List.range rows.length).zip rows).foldl
        (fun m y => Memory.writeBytes m (within (d.dstAt i y.1)) ((y.2.map (·.1)).flatten)) c.linkMem
      { c with linkMem := m }
    else c

/-- A kind 4 route whose point-to-point peer is lost: its module number. -/
def Chip.passPeerLost (c : Chip) (x : DmaChannel) : Option Nat :=
  (c.dmaRoute x).bind fun sr =>
    if sr.2.kind != 4 then none
    else
      (c.bindingOf sr.1 (c.reg Obj.bzModuleNumber) sr.2.route.toNat).bind fun n => ((c.bindings sr.1)[n]?).bind fun b =>
        if b.transfer == 0 && (c.bzFlow b.peerModule.toNat).lost then some b.peerModule.toNat else none

/-- After a pass: the next pass, the next descriptor, a stop asked for, or the end of the ring. -/
def Chip.dmaNext (c : Chip) (ch : Nat) : Chip :=
  let x := c.dmaChan ch
  let d := x.desc x.cur
  if d.rep = 0 ∨ x.pass + 1 < d.rep then
    if d.rep = 0 && x.stopAsked then
      ((c.dmaPost ch 0 4 (d.rows * d.rowBytes)).setReg (Obj.dmaState ch) dmaStopped).setReg (Obj.dmaEnable ch) 0
    else (c.setDma ch { x with pass := x.pass + 1 }).dmaAwait ch
  else if x.stopAsked then
    let c := c.dmaPost ch 0 4 (d.rows * d.rowBytes)
    ((c.setDma ch { c.dmaChan ch with trigger := false }).setReg (Obj.dmaState ch) dmaStopped).setReg (Obj.dmaEnable ch) 0
  else if d.next = 0xFF then
    ((c.setDma ch { x with trigger := false }).setReg (Obj.dmaState ch) dmaIdle).setReg (Obj.dmaEnable ch) 0
  else c.dmaReach ch d.next

/-- The pass in progress ends. -/
def Chip.dmaPass (c : Chip) (ch : Nat) (env : PassEnv) : Chip :=
  let x := c.dmaChan ch
  let d := x.desc x.cur
  let routed := x.route.isSome
  let since := c.flt.nextSeq
  if c.dmaStateOf ch != dmaRunning || !x.held.isEmpty then c
  else
    match (d.badFields.orElse fun _ => d.badTranspose) with
    | some b => c.dmaError ch b.status x.cur 0 since
    | none =>
      match env.reported with
      | some (st, a) =>
        if st.toNat = dmaCipher then c.dmaError ch st.toNat x.cur (a.toNat % 256) since
        else c.dmaError ch st.toNat a.toNat 0 since
      | none =>
        match c.passPeerLost x with
        | some m => c.dmaError ch dmaPeerLost m 0 since
        | none =>
          if !c.passRoom x then c
          else
            match c.passSource ch x d env with
            | .wait => c
            | .go outside c =>
              let (r, c) := c.moveRows ch routed env.flips d x.pass outside 0 d.rows
              let moved := r.rows.length * d.rowBytes
              match r.bad with
              | some (st, a) =>
                (c.count (Obj.dmaBytesDone ch) (if routed then 0 else moved) 64).dmaError ch st a (if routed then 0 else moved) since
              | none =>
                let c := c.passDeliver ch x d x.pass r.rows
                let c := c.count (Obj.dmaBytesDone ch) moved 64
                let c := if d.transpose then c.count Obj.dmaTransposeBytes moved 64 else c
                let c := if d.half && decide (2 ≤ d.rows) && !(c.dmaChan ch).half then c.dmaPost ch 0 1 (ceilDiv d.rows 2 * d.rowBytes) else c
                let c := if d.full then c.dmaPost ch 0 2 moved else c
                let c := c.setReg (Obj.dmaLastStatus ch) 0
                (c.dmaNext ch).dmaChain ch false

/-- The first half of a pass's rows have reached their destinations. -/
def Chip.dmaHalf (c : Chip) (ch : Nat) : Chip :=
  let x := c.dmaChan ch
  let d := x.desc x.cur
  if c.dmaStateOf ch != dmaRunning || !x.held.isEmpty || x.half || decide (d.rows < 2) then c
  else
    let c := c.setDma ch { x with half := true }
    let c := if d.half then c.dmaPost ch 0 1 (ceilDiv d.rows 2 * d.rowBytes) else c
    c.dmaChain ch true

/-- The step sequencer restarts the rings of route-bound channels as slot 0 opens (R415). -/
def Chip.dmaRestartRoutes (c : Chip) : Chip :=
  c.each ((c.dma.filter fun e => decide (e.1 < 512) && e.2.route.isSome).map (·.1)) fun c ch => c.dmaBegin ch

/-- It stops them as a step is abandoned (R415). -/
def Chip.dmaStopRoutes (c : Chip) : Chip :=
  c.each ((c.dma.filter fun e => decide (e.1 < 512) && e.2.route.isSome).map (·.1)) fun c ch => c.dmaStopNow ch

end Sys2Proof.Machine
end

