-- ==== Sys2Proof/Machine/StepEnd.lean ====
section
/-! DEFINITION. Machine/StepEnd.lean: the end of a step (R172, R173, R221, R231, R232, R251, R286, R305): its times and its
record, what a step boundary settles, the commit on the module, and the stop without a combined word (R491). -/

namespace Sys2Proof.Machine

/-! ### Times (Table 8-9, R172) -/

/-- Phase times of the step that ends now. -/
def Chip.stepTimes (c : Chip) (outcome : Nat) : Chip :=
  let s := c.step
  let now := c.time.mono
  let c := (c.setReg Obj.stepTimeNs (now - s.openMono)).setReg Obj.slotsTimeNs (s.slotsEndMono - s.openMono)
  let c := (c.setReg Obj.reduceTimeNs (s.testedMono - s.slotsEndMono)).setReg Obj.decideTimeNs (s.decideMono - s.contributeMono)
  if outcome = 1 then c.setReg Obj.updateTimeNs (now - s.commitMono) else c

/-- Stall and busy times of every tile up to now. -/
def Chip.accountTiles (c : Chip) : Chip :=
  { c with array := { c.array with tiles := c.array.tiles.map fun e => (e.1, if e.2.region.isSome then e.2.account c.time.mono else e.2) } }

/-- Mean of one of the three times over a region's tiles. -/
def Chip.regionMean (c : Chip) (r : Region) (f : Tile → Nat) : Nat :=
  (r.tiles.foldl (fun n l => n + f (c.tile (c.array.physical l))) 0) / Nat.max 1 r.tiles.length

def Chip.regionTimes (c : Chip) : Chip :=
  let c := c.accountTiles
  c.each c.array.castings fun c e => c.each e.2.regions fun c r =>
    let h := regionIndex e.1 r.region
    ((c.setReg (Obj.stallInNs h) (c.regionMean r Tile.stallIn)).setReg (Obj.stallOutNs h) (c.regionMean r Tile.stallOut)).setReg
      (Obj.busyNs h) (c.regionMean r Tile.busy)

/-! ### The record, and its comparison in a replay (R231, R282, R286) -/

/-- The record that the running replay takes next. -/
def Chip.replayRecord (c : Chip) : Option Bytes :=
  if c.sil.replay.running then c.sil.replay.records[c.sil.replay.pos]? else none

/-- The record of a step as it would be written now. -/
def Chip.freshRecord (c : Chip) (outcome combined : Nat) : Bytes :=
  (((c.stepRecord outcome combined 2 []).sil.ring.getLast?).map fun (x : Nat × Bytes) => x.2).getD []

/-- The step's record is written, and the step is no longer in progress. -/
def Chip.recordStep (c : Chip) (outcome combined : Nat) : Chip :=
  let after := if c.sil.afterReplay then 1 else 0
  let closed := fun (c : Chip) => { c with step := { c.step with inStep := false, committing := false } }
  match c.replayRecord with
  | none => closed (c.stepRecord outcome combined after [])
  | some r =>
    let d := c.compareRecords r (c.freshRecord outcome combined)
    let c := closed (c.stepRecord outcome combined (2 + after) d)
    if d.isEmpty || c.sil.replay.diverged then c
    else
      let c := { c with sil := { c.sil with replay := { c.sil.replay with diverged := true } } }
      (c.setReg Obj.replayFirstDiverged (c.reg Obj.stepNumber)).occur 6 4 .sl noRegion (c.reg Obj.stepNumber) 0

/-- A replay ends: a KIND 5 record, and stepping stops (R287). -/
def Chip.finishReplay (c : Chip) (state : Nat) : Chip :=
  let o := c.sil.replay.origin
  let c := c.record 5 2 [] c.now c.time.mono
  let c := { c with
    sil := { c.sil with replay := { c.sil.replay with running := false, paused := false, origin := none } }
    step := { c.step with on := false } }
  (c.setReg Obj.replayState state).completeOpt o Obj.replayControl 0 0

/-- The replay goes on to its next record, or ends behind the last. -/
def Chip.replayAdvance (c : Chip) : Chip :=
  let r := c.sil.replay
  if !r.running then c
  else
    let c := { c with sil := { c.sil with replay := { r with pos := r.pos + 1 } } }
    match r.abandon with
    | some o =>
      let c := c.finishReplay 0
      ({ c with sil := { c.sil with replay := { c.sil.replay with abandon := none } } }).complete o Obj.replayControl 0 0
    | none => if r.pos + 1 < r.records.length then c else c.finishReplay (if r.diverged then 3 else 2)

/-! ### What a boundary settles -/

/-- An entry of the gather ledger (R305). -/
def Gather.entry (g : Gather) : Bytes :=
  let v := (g.served.map Version.ver).getD noVersion
  leBytes 4 g.shard.toNat ++ leBytes 2 g.layer.toNat ++ leBytes 1 g.pass ++ leBytes 1 (Nat.min 255 g.retries) ++ leBytes 4 v.1 ++
  leBytes 4 v.2 ++ leBytes 8 ((g.landed.getD g.issued) - g.issued)

/-- Next k of every index takes effect (R212, R226). -/
def Chip.applyNextK (c : Chip) : Chip :=
  { c with step := { c.step with
    scaleK := c.step.nextK.foldl (fun m e => Sparse.put 0#8 m e.1 e.2) c.step.scaleK, nextK := [] } }

/-- Regions that were stopping are stopped, and the writes that wait for it end (R173). -/
def Chip.stopRegions (c : Chip) : Chip :=
  let c := c.each c.array.castings fun c e => c.each e.2.regions fun c r =>
    let h := regionIndex e.1 r.region
    if c.regionState h = 3 then c.setRegionState h 1 else c
  c.each (c.array.castings.map (·.1)) fun c slot => c.settleStops slot

/-- The patina is emptied where that was asked (R227). -/
def Chip.settlePatina (c : Chip) : Chip :=
  if c.step.emptyPatina then
    let os := c.step.emptyOrigins
    let c := { c.emptyPatina with step := { c.emptyPatina.step with emptyPatina := false, emptyOrigins := [] } }
    c.completeAll os Obj.patinaEmpty 0 0
  else c

/-- A stop that was asked for is complete (R233). -/
def Chip.settleStop (c : Chip) : Chip :=
  if c.step.on then c
  else
    let c := if c.reg Obj.stepState ≤ 4 then c.setReg Obj.stepState 0 else c
    let os := c.step.stopOrigins
    ({ c with step := { c.step with stopOrigins := [] } }).completeAll os Obj.stepControl 0 0

/-! ### The start of an ingot fetch (R352, R355) -/

/-- Donor of a fetch: the operator's, else the one chosen under R351. -/
def Chip.ingotDonorSite (c : Chip) : Option Nat :=
  let d := c.reg Obj.ingotDonor
  if d = 0xFF then c.rnd.donor else some d

/-- The fetch begins: the donor is asked for its latest round, or for one that another module of this site has. -/
def Chip.requestIngot (c : Chip) (site : Nat) (round : Option Nat) : Chip :=
  let c := { c with rnd := { c.rnd with ingot := { c.rnd.ingot with bytes := [], asked := round, ready := none, retry := false } } }
  let c := (((c.setReg Obj.ingotState 1).setReg Obj.ingotBytes 0).setReg Obj.ingotReceived 0).setReg Obj.rndState 4
  c.emit (.ingotRequest site (round.map fun r => BitVec.ofNat 32 r))

/-- A fetch that is due begins once no step is in progress; without a known donor the site waits under R352. -/
def Chip.settleIngot (c : Chip) : Chip :=
  if c.rnd.ingot.due && !c.step.inStep then
    let c := { c with rnd := { c.rnd with ingot := { c.rnd.ingot with due := false } } }
    match c.ingotDonorSite with
    | none => c.setReg Obj.rndState 5
    | some d => (c.requestIngot d none).refreshMark
  else c

/-- A fetch is asked for: stepping stops at the boundary as by a write of 1 to STEP_CONTROL, and goes on after the import
if it ran (R352, R355). -/
def Chip.askIngot (c : Chip) (o : Option Origin) : Chip :=
  let c := { c with
    step := { c.step with on := false }
    rnd := { c.rnd with ingot := { c.rnd.ingot with due := true, origin := o, byStop := c.step.on || c.rnd.ingot.byStop } } }
  if c.step.inStep then c else c.settleStop.settleIngot

/-! ### The end of a step -/

/-- The holds of the parked fetches are released at their peers (R253, R297): on the version fetched. -/
def Chip.releaseParked (c : Chip) (outcome : Nat) : Chip :=
  c.each c.upd.fetched fun c id =>
    match c.ownShard id with
    | none => c
    | some s =>
      let h := ShardHeader.ofBytes (Sparse.get [] c.upd.parked id.toNat)
      c.emit (.holdRelease (some s.peer) id (Ver.version (if outcome = 1 then h.version h.target else h.current)))

/-- Step key shown while no step is in progress: that of the last committed one. -/
def Chip.committedKey (c : Chip) : Nat :=
  stepKey (c.reg Obj.srRunSeed) (c.reg Obj.shardVersionRound) (c.reg Obj.shardVersionStep)

/-- The step ends: 1 committed, 2 skipped, 3 abandoned without a combined word; `combined` as its record shows it. -/
def Chip.endStep (c : Chip) (outcome combined : Nat) : Chip :=
  let c := ((c.stepTimes outcome).regionTimes).recordStep outcome combined
  let n := c.reg Obj.stepNumber
  let c := (c.replayAdvance).applyNextK
  let c := if c.step.abandoned then c.dmaStopRoutes else c
  let c := (c.releaseHolds).releaseParked outcome
  let ledger := (c.map.gathers.map Gather.entry).flatten
  let c := { c with
    map := { c.map with ledger := ledger, gathers := [], uses := [] }
    bz := { c.bz with collectives := c.bz.collectives.filter fun x => x.step.toNat != n }
    upd := { c.upd with running := false, waiting := [], fetched := [] }
    step := { c.step with combined := none, records := none, own := [], deltaDrops := [] } }
  let c := c.tilesToIdle.setReg Obj.srStepKey c.committedKey
  let c := ((c.stopRegions).settlePatina).settleStop
  (c.presentExport).settleIngot.refreshMark

/-! ### The commit on the module (R251, R252) -/

/-- Every engine writes DONE; counts, versions and rounds take the committed step. -/
def Chip.commitVersion (c : Chip) (round step applied lr clip : Nat) : Chip :=
  let c := c.journalAll (journalRecord jDone round step 0 0 0 0 0)
  let c := ((c.setReg Obj.updatesApplied (applied + 1)).setReg Obj.shardVersionRound round).setReg Obj.shardVersionStep step
  let c := ((c.setReg Obj.stepCommitted step).setReg Obj.lrLast lr).setReg Obj.clipFactorLast clip
  { c with upd := { c.upd with unwritten := [], waiting := [], running := false, parkedLost := false, stuck := [] } }.roundsCommitted round step

/-- Every shard has been flipped, local and parked. -/
def Chip.updateWhole (c : Chip) : Bool := c.upd.running && c.upd.waiting.isEmpty && !c.upd.parkedLost

/-- The step is committed on the module. -/
def Chip.updateDone (c : Chip) : Chip :=
  if c.step.inStep && c.step.committing && c.updateWhole then
    let applied := ((journalOpen (c.journal 0)).map fun j => j.applied).getD (c.reg Obj.updatesApplied)
    let combined := (c.step.combined.map fun w => w.toNat).getD 0
    ((c.commitVersion c.step.round (c.reg Obj.stepNumber) applied c.upd.lr.toNat c.upd.clip.toNat).setReg Obj.skipsConsecutive 0).endStep
      1 combined
  else c

/-- UPDATE_DONE. -/
def execUpdateDone (s : State) : Host.Outcome State Fault Refusal := s.on Chip.updateDone

/-! ### A step without a combined word (R491) -/

/-- The step ends without the combined word: an entry, no commit, and stepping stops as STEP_CONTROL 1 does. -/
def Chip.stepLost (c : Chip) (addr : Nat) : Chip :=
  if c.step.inStep && !c.step.committing && c.step.combined.isNone then
    let c := c.log .step 0x0102 noRegion addr 0
    let c := { c with step := { c.step with on := false, abandoned := true } }
    let c := if (c.rnd.pending.isSome && c.rnd.decided.isNone && c.reg Obj.rndEnable == 1) then c.count Obj.rndVotesRepeated 1 32 else c
    (c.setReg Obj.assayLocalLast c.step.word.toNat).endStep 3 0xFFFFFFFF
  else c

end Sys2Proof.Machine
end

