-- ==== Sys2Proof/Machine/BzCmds.lean ====
section
/-! DEFINITION. Machine/BzCmds.lean: the commands of the Braze fabric (R307 to R328): its ports and their timers, the frames
of each class, retry, probes, numbering, and deadlines. -/

namespace Sys2Proof.Machine

/-! ### Ports (R308, R317) -/

/-- Every module of the site is probed. -/
def Chip.bzProbeAll (c : Chip) : Chip := c.each (List.range (c.reg Obj.bzSiteModules)) fun c m => c.bzProbe m

/-- Training has completed: the port is up and probes the site, or its lanes are out of order. A disabled port does not
train. -/
def Chip.bzPortTrained (c : Chip) (p : Nat) (lanesInOrder : Bool) : Chip :=
  let st := c.reg (Obj.bzPortState p)
  if c.board.phase ≠ .on ∨ st = 2 ∨ st = 4 then c
  else if lanesInOrder then (c.setBzPort p 2).bzProbeAll
  else c.setBzPort p 3

/-- BZ_PORT_UP. -/
def execBzPortUp (port : Fin 8) (lanesInOrder : Bool) (s : State) : Host.Outcome State Fault Refusal :=
  s.on fun c => c.bzPortTrained port lanesInOrder

/-- The port goes down, from whatever it was but disabled. -/
def Chip.bzPortLost (c : Chip) (p : Nat) : Chip := if c.reg (Obj.bzPortState p) = 4 then c else c.setBzPort p 0

/-- BZ_PORT_DOWN. -/
def execBzPortDown (port : Fin 8) (s : State) : Host.Outcome State Fault Refusal := s.on fun c => c.bzPortLost port

/-- A port that is not up retrains while it is enabled; so does one whose lanes were out of order (DESIGN CHOICE, assumption log 43). -/
def Chip.bzRetrain (c : Chip) (p : Nat) : Chip :=
  let st := c.reg (Obj.bzPortState p)
  if c.board.phase = .on ∧ c.reg (Obj.bzPortEnable p) = 1 ∧ (st = 0 ∨ st = 3) then c.setBzPort p 1 else c

/-- BZ_RETRAIN_TIMER. -/
def execBzRetrainTimer (port : Fin 8) (s : State) : Host.Outcome State Fault Refusal := s.on fun c => c.bzRetrain port

/-- BZ_PORT_ENABLE: false takes the port down and stops retraining, true lets it train again. -/
def bzEnableRule (p : Nat) (d : ObjDef) : WriteRule where
  cond := noCond
  eff := fun c _ key b =>
    let c := c.store d key b
    if leNat b = 0 then c.setBzPort p 4
    else if c.reg (Obj.bzPortState p) = 4 then c.setBzPort p 1 else c

/-- BZ_PORT_ENABLE_WRITE. -/
def execBzPortEnableWrite (rq : Fin 17) (port : Fin 8) (v : Byte) (s : State) : Host.Outcome State Fault Refusal :=
  s.on fun c => c.writeAs rq (Obj.bzPortEnable port) ObjType.bool.code [v] (bzEnableRule port)

/-! ### Frames (R311 to R323) -/

/-- BZ_MESSAGE_FRAME. -/
def execBzMessageFrame (port : Fin 8) (f : BzFrame) (s : State) : Host.Outcome State Fault Refusal :=
  s.on fun c => c.bzSequenced port 0 f

/-- BZ_ACK_FRAME. -/
def execBzAckFrame (port : Fin 8) (f : BzFrame) (s : State) : Host.Outcome State Fault Refusal :=
  s.on fun c => c.bzAckFrame port f

/-- BZ_CREDIT_FRAME. -/
def execBzCreditFrame (port : Fin 8) (f : BzFrame) (s : State) : Host.Outcome State Fault Refusal :=
  s.on fun c => c.bzCreditFrame port f

/-- BZ_OPERAND_FRAME. -/
def execBzOperandFrame (port : Fin 8) (f : BzFrame) (s : State) : Host.Outcome State Fault Refusal :=
  s.on fun c => c.bzSequenced port 3 f

/-- BZ_RESULT_FRAME. -/
def execBzResultFrame (port : Fin 8) (f : BzFrame) (s : State) : Host.Outcome State Fault Refusal :=
  s.on fun c => c.bzSequenced port 4 f

/-- BZ_TREE_FRAME. -/
def execBzTreeFrame (port : Fin 8) (f : BzFrame) (s : State) : Host.Outcome State Fault Refusal :=
  s.on fun c => c.bzSequenced port 5 f

/-- BZ_PROBE_FRAME. -/
def execBzProbeFrame (port : Fin 8) (f : BzFrame) (s : State) : Host.Outcome State Fault Refusal :=
  s.on fun c => c.bzProbeFrame port f

/-! ### Timers (R312, R313, R315) -/

/-- A frame has not been acknowledged in time. -/
def Chip.bzRetryAt (c : Chip) (peer : Nat) (seq : BitVec 32) : Chip :=
  match (c.bzFlow peer).unacked.find? fun x => x.frame.hdr.seq == seq with
  | some x => c.bzRetransmit peer x
  | none => c

/-- BZ_RETRY_TIMEOUT. -/
def execBzRetryTimeout (peer : BitVec 16) (seq : BitVec 32) (s : State) : Host.Outcome State Fault Refusal :=
  s.on fun c => c.bzRetryAt peer.toNat seq

/-- Every lost peer is probed. -/
def Chip.bzProbeLost (c : Chip) : Chip := c.each (c.bz.flows.filter fun e => e.2.lost) fun c e => c.bzProbe e.1

/-- BZ_PROBE_TIMER. -/
def execBzProbeTimer (s : State) : Host.Outcome State Fault Refusal := s.on Chip.bzProbeLost

/-- BZ_CREDIT_REPEAT. -/
def execBzCreditRepeat (binding : BitVec 32) (s : State) : Host.Outcome State Fault Refusal :=
  s.on fun c => c.bzRepeatCredit binding.toNat

/-! ### Numbering (R317) -/

/-- BZ_MODULE_NUMBER: a change of number ends a conflict. -/
def bzNumberRule (d : ObjDef) : WriteRule where
  cond := noCond
  eff := fun c _ key b =>
    let old := c.reg Obj.bzModuleNumber
    let c := c.store d key b
    let c := if c.reg Obj.bzModuleNumber = old then c else { c with bz := { c.bz with conflict := false } }
    c.bzRefreshState

/-- BZ_MODULE_NUMBER_WRITE. -/
def execBzModuleNumberWrite (rq : Fin 17) (v : BitVec 16) (s : State) : Host.Outcome State Fault Refusal :=
  s.on fun c => c.writeAs rq Obj.bzModuleNumber ObjType.u16.code (leBytes 2 v.toNat) bzNumberRule

/-! ### Deadlines (R325 to R327) -/

/-- A message of this binding is on its way: one of its frames is not acknowledged or has not left. -/
def Chip.messageOpen (c : Chip) (ch : Nat) : Bool :=
  c.bz.flows.any fun e =>
    (e.2.unacked.any fun x => bzClass x.frame == 0 && x.frame.hdr.channel.toNat == ch) ||
    e.2.waiting.any fun f => bzClass f == 0 && f.hdr.channel.toNat == ch

/-- What a deadline is of has been issued in the step in progress and is not complete. -/
def Chip.deadlineOpen (c : Chip) (number : Nat) : Bool :=
  let step := c.reg Obj.stepNumber
  match collKind number with
  | 0 => c.messageOpen number
  | 5 => c.step.contributed && if number = treeNumber 5 then c.step.combined.isNone else (c.treeNode number step).own.isSome && (c.treeNode number step).result.isNone
  | 6 => c.step.contributed && c.step.records.isNone
  | _ =>
    match c.collective number step with
    | some x => x.issued && !x.done
    | none => false

/-- In a replay an expiry counts only where the recorded step aborted on a deadline; any other waits for REPLAY_WAIT
(R287, R327). -/
def Chip.deadlineWaits (c : Chip) : Bool :=
  match c.replayRecord with
  | some r => !bit (u32At (sectionOf r 1) 0x30) abDeadline
  | none => false

/-- A deadline passes first (R326). A module without the combined word stops (R491). -/
def Chip.bzExpire (c : Chip) (number : Nat) : Chip :=
  if !c.step.inStep || !c.deadlineOpen number || c.deadlineWaits then c
  else
    let c := (c.count Obj.bzDeadlinesExpired 1 32).occur 8 7 .bz noRegion number 0
    let c := c.sillageEvent 0xF004 Unit2.bz.code number 0
    let c := c.abort abDeadline number
    let c := c.dropCollective number (c.reg Obj.stepNumber)
    if number = treeNumber 5 then c.stepLost number else c

/-- BZ_DEADLINE_EXPIRY. -/
def execBzDeadlineExpiry (collective : BitVec 32) (s : State) : Host.Outcome State Fault Refusal :=
  s.on fun c => c.bzExpire collective.toNat

end Sys2Proof.Machine
end

