-- ==== Sys2Proof/Machine/Cipher.lean ====
section
/-! DEFINITION. Machine/Cipher.lean: the cipher engine (R391 to R400): its request queue, the checks of Table 15-3, the
operations of Table 15-1, and the loading and erasing of keys. -/

namespace Sys2Proof.Machine

/-! ### Descriptors (Table 15-2) -/

structure CipherReq where
  op : Nat
  tagBytes : Nat
  slot : Nat
  aadBytes : Nat
  dataBytes : Nat
  unitBytes : Nat
  iv : Bytes
  src : Nat
  dst : Nat
  aad : Nat
  tag : Nat

def CipherReq.ofBytes (b : Bytes) : CipherReq where
  op := u8At b 0
  tagBytes := u8At b 1
  slot := u16At b 2
  aadBytes := u32At b 4
  dataBytes := u32At b 8
  unitBytes := u32At b 0x0C
  iv := slice b 0x10 16
  src := u64At b 0x20
  dst := u64At b 0x28
  aad := u64At b 0x30
  tag := u64At b 0x38

def CipherReq.gcm (r : CipherReq) : Bool := r.op == 1 || r.op == 2
def CipherReq.gmac (r : CipherReq) : Bool := r.op == 3 || r.op == 4
def CipherReq.ctr (r : CipherReq) : Bool := r.op == 5
def CipherReq.cmac (r : CipherReq) : Bool := r.op == 6 || r.op == 7
def CipherReq.xts (r : CipherReq) : Bool := r.op == 8 || r.op == 9
def CipherReq.tagged (r : CipherReq) : Bool := r.gcm || r.gmac || r.cmac

/-- Every field that the operation does not use is 0 (R394). -/
def CipherReq.unusedZero (r : CipherReq) : Bool :=
  (r.tagged || (r.tagBytes == 0 && r.tag == 0)) && (r.gcm || r.gmac || (r.aadBytes == 0 && r.aad == 0)) &&
  (!r.gmac || (r.dataBytes == 0 && r.src == 0)) && (r.xts || r.unitBytes == 0) && (!r.cmac || allZero r.iv) &&
  (!(r.gmac || r.cmac) || r.dst == 0)

/-- Buffers with their lengths. -/
def CipherReq.buffers (r : CipherReq) : List (Nat × Nat) :=
  [(r.src, r.dataBytes), (r.dst, if r.gmac || r.cmac then 0 else r.dataBytes), (r.aad, r.aadBytes), (r.tag, r.tagBytes)]

/-! ### Addresses (R186, R406) -/

/-- Requesters of the engine; control cores and privileged channels reach the reserved regions (R186). -/
def requesterKnown : CipherRequester → Bool
  | .siteLinkEngine | .siteLinkControl => true
  | .core n => n == 0 || n == 1 || n == 2 || (decide (4 ≤ n) && decide (n ≤ 8))
  | .dma ch => ch == 499 || ch == 500

def requesterSiteLink : CipherRequester → Bool
  | .siteLinkEngine | .siteLinkControl => true
  | _ => false

/-- A buffer lies within LPDDR6 (space 0) or control SRAM and buffers of the link die (space 2), where the requester may
reach it. -/
def cipherAddressOk (who : CipherRequester) (a n : Nat) : Bool :=
  n == 0 || spaceOf a == 2 ||
  (spaceOf a == 0 && decide (a + n ≤ memBytes) && (!inReserved a n || who != .siteLinkEngine))

/-- The bytes of a buffer; none where a read delivers no data. -/
def Chip.cipherRead (c : Chip) (a n : Nat) : Option Bytes × Chip :=
  if n = 0 then (some [], c)
  else if spaceOf a = 2 then (some (Memory.readBytes c.linkMem (within a) n), c)
  else
    match c.readMem [] a n with
    | (.inl b, c) => (some b, c)
    | (.inr _, c) => (none, c)

def Chip.cipherWrite (c : Chip) (a : Nat) (b : Bytes) : Chip :=
  if b.isEmpty then c
  else if spaceOf a = 2 then { c with linkMem := Memory.writeBytes c.linkMem (within a) b }
  else c.writeMem a b

/-! ### The checks of Table 15-3 -/

def csOk : Nat := 0x00
def csAuthFail : Nat := 0x01
def csOp : Nat := 0x02
def csKeyEmpty : Nat := 0x03
def csKeyType : Nat := 0x04
def csKeyReserved : Nat := 0x05
def csTagLength : Nat := 0x06
def csAadLength : Nat := 0x07
def csDataLength : Nat := 0x08
def csUnitLength : Nat := 0x09
def csCtrWrap : Nat := 0x0A
def csIv : Nat := 0x0B
def csAddress : Nat := 0x0C
def csQueueFull : Nat := 0x0E

def Chip.keySlot (c : Chip) (n : Nat) : KeySlot := Sparse.get ⟨0, []⟩ c.cipher.slots n

/-- Slots that only the site links may name. -/
def siteLinkSlot (n : Nat) : Bool := decide (3072 ≤ n)

/-- First status that applies at acceptance; a read that delivers no data shows only as the request is served. -/
def CipherReq.check (r : CipherReq) (who : CipherRequester) (k : KeySlot) : Nat :=
  let t := r.tagBytes
  ((firstOf [
    (r.op == 0 || decide (9 < r.op) || !r.unusedZero, csOp),
    (r.slot == 0 || (siteLinkSlot r.slot && !requesterSiteLink who) || decide (4095 < r.slot), csKeyReserved),
    (k.type == 0, csKeyEmpty),
    (k.type != (if r.xts then 2 else 1), csKeyType),
    ((r.gcm || r.gmac) && (decide (t < 12) || decide (16 < t)) || r.cmac && (decide (t < 8) || decide (16 < t)), csTagLength),
    ((r.gcm || r.gmac) && !allZero (r.iv.drop 12), csIv),
    (r.gcm && decide (65535 < r.aadBytes), csAadLength),
    (r.gcm && decide (65536 < r.dataBytes) || (r.ctr || r.xts) && r.dataBytes == 0, csDataLength),
    (r.xts && (decide (r.unitBytes < 16) || decide (16777216 < r.unitBytes) || r.dataBytes % Nat.max 1 r.unitBytes != 0), csUnitLength),
    (r.ctr && decide (2 ^ 32 < beNat (r.iv.drop 12) + ceilDiv r.dataBytes 16), csCtrWrap),
    (!(r.buffers.all fun x => cipherAddressOk who x.1 x.2), csAddress)]).getD csOk)

/-! ### Requests (R395, R396, R400) -/

def cipherQueueMax : Nat := 2048

def Chip.showDepth (c : Chip) : Chip := c.setReg Obj.cipherQueueDepth c.cipher.queue.length

/-- A completion is returned. An end with any status but 0x00 and 0x01 is an error (R395). -/
def Chip.cipherReturn (c : Chip) (who : CipherRequester) (desc st bytes : Nat) : Chip :=
  let c := c.emit (.cipher who (BitVec.ofNat 8 st) (BitVec.ofNat 32 bytes) (BitVec.ofNat 64 c.now64))
  if st = csOk ∨ st = csAuthFail then c
  else
    let c := (c.count Obj.cipherErrors 1 64).occurCode 11 1 .cipher st noRegion desc 0
    match who with
    | .dma ch => if ch < 512 ∧ c.dmaStateOf ch = dmaRunning then c.dmaError ch dmaCipher (c.dmaChan ch).cur st c.flt.nextSeq else c
    | _ => c

/-- A descriptor is placed in the queue: it takes the key it names as that stands now (R400). -/
def Chip.cipherRequest (c : Chip) (who : CipherRequester) (addr : BitVec 64) (desc : Bytes) : Chip :=
  if !requesterKnown who then c
  else if cipherQueueMax ≤ c.cipher.queue.length then c.cipherReturn who addr.toNat csQueueFull 0
  else
    let r := CipherReq.ofBytes desc
    let k := c.keySlot r.slot
    let j : CipherJob := ⟨who, addr, desc, k, BitVec.ofNat 8 (r.check who k)⟩
    ({ c with cipher := { c.cipher with queue := c.cipher.queue ++ [j] } }).showDepth

/-- CIPHER_REQUEST. -/
def execCipherRequest (who : CipherRequester) (descAddr : BitVec 64) (desc : Bytes) (s : State) : Host.Outcome State Fault Refusal :=
  s.on fun c => c.cipherRequest who descAddr desc

/-- What an operation gives: status, output data, output tag. -/
abbrev CipherResult := Nat × Bytes × Bytes

/-- The operation on its inputs; `tag` is the one given on verify and decrypt. -/
def CipherReq.run (r : CipherReq) (key data aad tag : Bytes) : CipherResult :=
  let nonce := r.iv.take 12
  let full := fun (aad data : Bytes) => gcmTag (aesRoundKeys key) nonce aad data
  match r.op with
  | 1 => let x := gcmSeal key nonce aad data; (csOk, x.1, x.2.take r.tagBytes)
  | 2 => match gcmOpen key nonce aad data tag with | some p => (csOk, p, []) | none => (csAuthFail, [], [])
  | 3 => (csOk, [], (full aad []).take r.tagBytes)
  | 4 => if (full aad []).take r.tagBytes = tag then (csOk, [], []) else (csAuthFail, [], [])
  | 5 => (csOk, ctrCrypt key r.iv data, [])
  | 6 => (csOk, [], (Sys2Proof.Machine.cmac key data).take r.tagBytes)
  | 7 => if (Sys2Proof.Machine.cmac key data).take r.tagBytes = tag then (csOk, [], []) else (csAuthFail, [], [])
  | 8 => (csOk, xtsCrypt true key (leNat r.iv) r.unitBytes data, [])
  | _ => (csOk, xtsCrypt false key (leNat r.iv) r.unitBytes data, [])

/-- The request verifies a tag. -/
def CipherReq.verifies (r : CipherReq) : Bool := r.op == 2 || r.op == 4 || r.op == 7

/-- An accepted request is served. -/
def Chip.cipherServe (c : Chip) (j : CipherJob) : Chip :=
  let r := CipherReq.ofBytes j.desc
  let c := c.count Obj.cipherRequests 1 64
  if j.status ≠ 0 then c.cipherReturn j.who j.descAddr.toNat j.status.toNat 0
  else
    let (data, c) := c.cipherRead r.src r.dataBytes
    let (aad, c) := c.cipherRead r.aad r.aadBytes
    let (tag, c) := if r.verifies then c.cipherRead r.tag r.tagBytes else (some [], c)
    match data, aad, tag with
    | some data, some aad, some tag =>
      let (st, out, t) := r.run j.key.key data aad tag
      let c := c.count Obj.cipherBytes (r.dataBytes + r.aadBytes) 64
      if st = csOk then ((c.cipherWrite r.dst out).cipherWrite r.tag t).cipherReturn j.who j.descAddr.toNat csOk r.dataBytes
      else (c.count Obj.cipherAuthFailed 1 64).cipherReturn j.who j.descAddr.toNat csAuthFail 0
    | _, _, _ => c.cipherReturn j.who j.descAddr.toNat csAddress 0

/-- GCM decryption by the site-link engine goes first (R61, R396). -/
def CipherJob.first (j : CipherJob) : Bool := j.who == .siteLinkEngine && u8At j.desc 0 == 2

/-- The next request to complete, and those that stay. -/
def nextJob (l : List CipherJob) : Option (CipherJob × List CipherJob) :=
  match l.find? CipherJob.first with
  | some j => some (j, l.erase j)
  | none =>
    match l with
    | [] => none
    | j :: r => some (j, r)

/-- The next request in the order of service completes. -/
def Chip.cipherComplete (c : Chip) : Chip :=
  match nextJob c.cipher.queue with
  | none => c
  | some (j, r) => (({ c with cipher := { c.cipher with queue := r } }).showDepth).cipherServe j

/-- CIPHER_COMPLETION. -/
def execCipherCompletion (s : State) : Host.Outcome State Fault Refusal := s.on Chip.cipherComplete

/-! ### Keys (R398 to R400) -/

/-- What a wrapped key gives: its target and key, or a code of Table 15-3. -/
def Chip.openWrap (c : Chip) (b : Bytes) : (Nat × KeySlot) ⊕ Nat :=
  let slot := u16At b 0
  let type := u8At b 2
  let wrap := c.keySlot (u16At b 4)
  let n := if type = 2 then 64 else 32
  let bad : Option Nat := firstOf [
    (u8At b 3 != 0 || u16At b 6 != 0 || u32At b 0x14 != 0, csOp),
    (slot == 0 || siteLinkSlot slot || siteLinkSlot (u16At b 4), csKeyReserved),
    (wrap.type == 0, csKeyEmpty),
    ((wrap.type != 1 && wrap.type != 3) || (type != 1 && type != 2), csKeyType),
    (b.length != 0x18 + n + 16, csDataLength)]
  match bad with
  | some x => .inr x
  | none =>
    match gcmOpen wrap.key (slice b 8 12) (b.take 0x18) (slice b 0x18 n) (slice b (0x18 + n) 16) with
    | none => .inr csAuthFail
    | some k => .inl (slot, ⟨BitVec.ofNat 8 type, k⟩)

/-- A refused load or erase shows its code. -/
def Chip.keyReason (c : Chip) (code : Nat) : Chip := c.setReg Obj.cipherKeyLastReason code

def keyLoadRule : WriteRule where
  cond := fun c _ _ b _ =>
    match c.openWrap b with
    | .inl _ => stOk
    | .inr x => if x = csKeyEmpty ∨ x = csKeyType then stState else stOutOfRange
  eff := fun c o key b =>
    match c.openWrap b with
    | .inl x => (c.setSlot x.1 x.2).complete o key 0 0
    | .inr _ => c
  note := fun c _ b _ =>
    match c.openWrap b with
    | .inl _ => c
    | .inr x => c.keyReason x

/-- CIPHER_KEY_LOAD. -/
def execCipherKeyLoad (rq : Fin 17) (blob : Bytes) (s : State) : Host.Outcome State Fault Refusal :=
  s.on fun c => c.write rq Obj.cipherKeyLoad blob keyLoadRule

def keyEraseRule : WriteRule where
  cond := fun _ _ _ b _ => if leNat b = 0 ∨ siteLinkSlot (leNat b) then stOutOfRange else stOk
  eff := fun c o key b => (c.setSlot (leNat b) ⟨0, []⟩).complete o key 0 0
  note := fun c _ _ _ => c.keyReason csKeyReserved

/-- CIPHER_KEY_ERASE. -/
def execCipherKeyErase (rq : Fin 17) (slot : BitVec 16) (s : State) : Host.Outcome State Fault Refusal :=
  s.on fun c => c.write rq Obj.cipherKeyErase (leBytes 2 slot.toNat) keyEraseRule

/-- CIPHER_KEY_STATE: the type of every slot. -/
def Chip.keyStates (c : Chip) : Bytes := (List.range 4096).map fun n => (c.keySlot n).type

end Sys2Proof.Machine
end

