-- ==== Sys2Proof/Machine/Dma.lean ====
section
/-! DEFINITION. Machine/Dma.lean: the commands of the DMA channels (R402 to R419): start, stop, descriptors, timers,
notifications and the read of completions. -/

namespace Sys2Proof.Machine

/-- Channels that only firmware writes (R404). -/
def dmaPrivileged (ch : Nat) : Bool := decide (496 ≤ ch)

/-- DMA_ENABLE and DMA_DESCRIPTORS are refused for privileged channels and for those bound to a casting (R404, R415). -/
def Chip.dmaReserved (c : Chip) (ch : Nat) : Bool := dmaPrivileged ch || (c.dmaChan ch).route.isSome

/-- A channel that works already goes on where a start finds it (DESIGN CHOICE, assumption log 44). -/
def Chip.dmaEnableWrite (c : Chip) (ch : Nat) (on : Bool) : Chip :=
  if on then
    if c.dmaStateOf ch = dmaWaiting ∨ c.dmaStateOf ch = dmaRunning then c else c.dmaBegin ch
  else c.dmaStopNow ch

def dmaEnableRule (ch : Nat) : WriteRule where
  cond := fun c _ _ _ _ => if c.dmaReserved ch then stWriteRefused else stOk
  eff := fun c _ _ b => c.dmaEnableWrite ch (leNat b == 1)

/-- DMA_START. -/
def execDmaStart (rq : Fin 17) (ch : Fin 512) (s : State) : Host.Outcome State Fault Refusal :=
  s.on fun c => c.write rq (Obj.dmaEnable ch) [1#8] (dmaEnableRule ch)

/-- DMA_STOP. -/
def execDmaStop (rq : Fin 17) (ch : Fin 512) (s : State) : Host.Outcome State Fault Refusal :=
  s.on fun c => c.write rq (Obj.dmaEnable ch) [0#8] (dmaEnableRule ch)

/-- Firmware stops a privileged channel: at the end of the descriptor in progress, at once where none is (R414). -/
def Chip.dmaFirmwareStop (c : Chip) (ch : Nat) : Chip :=
  let x := c.dmaChan ch
  let d := x.desc x.cur
  if !dmaPrivileged ch then c
  else if c.dmaStateOf ch = dmaRunning ∨ (c.dmaStateOf ch = dmaWaiting ∧ x.pass ≠ 0 ∧ d.rep ≠ 0) then
    c.setDma ch { x with stopAsked := true }
  else if c.dmaStateOf ch = dmaWaiting then
    let c := c.dmaPost ch 0 4 0
    ((c.setDma ch { c.dmaChan ch with trigger := false }).setReg (Obj.dmaState ch) dmaStopped).setReg (Obj.dmaEnable ch) 0
  else c

/-- DMA_PRIVILEGED_STOP. -/
def execDmaPrivilegedStop (ch : Fin 512) (s : State) : Host.Outcome State Fault Refusal := s.on fun c => c.dmaFirmwareStop ch

/-- Descriptors replaced, or emptied by a write of no bytes; channels 448 to 495 become the operator's and are freed
(R419). -/
def Chip.dmaDescriptors (c : Chip) (ch : Nat) (b : Bytes) : Chip :=
  let c := c.setDma ch { c.dmaChan ch with descs := if b.isEmpty then [] else chunks 64 b }
  if 448 ≤ ch ∧ ch < 496 then c.setReg (Obj.dmaOwner ch) (if b.isEmpty then 0 else 6) else c

def dmaDescriptorsRule (ch : Nat) : WriteRule where
  cond := fun c _ _ b _ =>
    if c.dmaReserved ch then stWriteRefused else if b.length = 0 ∨ b.length = 4096 then stOk else stLength
  opens := fun c _ => if c.dmaReserved ch then stWriteRefused else stOk
  eff := fun c _ _ b => c.dmaDescriptors ch b

/-- DMA_DESCRIPTORS_WRITE. -/
def execDmaDescriptorsWrite (rq : Fin 17) (ch : Fin 512) (data : Bytes) (s : State) : Host.Outcome State Fault Refusal :=
  s.on fun c => c.write rq (Obj.dmaDescriptors ch) data (dmaDescriptorsRule ch)

/-- DMA_START_DESC, which a privileged channel refuses too. -/
def dmaStartDescRule (ch : Nat) (d : ObjDef) : WriteRule where
  cond := fun _ _ _ _ _ => if dmaPrivileged ch then stWriteRefused else stOk
  eff := fun c _ key b => c.store d key b

/-- A timer period of the present descriptor expires (R409). -/
def Chip.dmaTimer (c : Chip) (ch : Nat) : Chip :=
  let x := c.dmaChan ch
  if (x.desc x.cur).trigger = 1 then c.dmaTriggered ch else c

/-- DMA_TIMER_TRIGGER. -/
def execDmaTimerTrigger (ch : Fin 512) (s : State) : Host.Outcome State Fault Refusal := s.on fun c => c.dmaTimer ch

/-- DMA_HALF_DONE. -/
def execDmaHalfDone (ch : Fin 512) (s : State) : Host.Outcome State Fault Refusal := s.on fun c => c.dmaHalf ch

/-- DMA_PASS_COMPLETE. -/
def execDmaPassComplete (ch : Fin 512) (env : PassEnv) (s : State) : Host.Outcome State Fault Refusal :=
  s.on fun c => c.dmaPass ch env

/-- A read of DMA_COMPLETIONS as one command: the entries go to the requester and are freed. -/
def Chip.dmaRead (c : Chip) (rq ch : Nat) : Chip :=
  let key := Obj.dmaCompletions ch
  if !c.board.modReady then c
  else
    match Obj.find (key / 256) (key % 256) with
    | none => c
    | some d =>
      let st := c.readStatus rq d key
      if st = stOk then
        let (b, c) := c.dmaTake ch
        c.answer rq key stOk b
      else (c.refuse key st).answer rq key st []

/-- DMA_COMPLETIONS_READ. -/
def execDmaCompletionsRead (rq : Fin 17) (ch : Fin 512) (s : State) : Host.Outcome State Fault Refusal :=
  s.on fun c => c.dmaRead rq ch

end Sys2Proof.Machine
end

