-- ==== Sys2Proof/Machine/Redo.lean ====
section
/-! DEFINITION. Machine/Redo.lean: a committed step applied again outside its step: the journal replay of a keeping start
(R252, R359), the step that a module one committed step behind takes from a peer (R458), and a parked write-back tried
again (R493). -/

namespace Sys2Proof.Machine

/-- The merge that an accord record describes. -/
def mergeOfAccord (r : Bytes) : Merge where
  round := accordRound r
  ownNonfinite := bit (u8At r 0x11) 1
  entries := (accordEntries r).map fun e => (e.1, e.2.2, e.2.1)
  voteStep := BitVec.ofNat 32 (u32At r 0x28)
  voteKey := BitVec.ofNat 64 (u64At r 0x20)
  voteTime := 0
  voteMono := 0
  resent := bit (u8At r 0x11) 2

/-- The unfinished step of the engines' journals. -/
def Chip.unfinished (c : Chip) : Option JournalStep := (List.range engines).findSome? fun g => journalOpen (c.journal g)

/-- The staged state of a parked shard and its header go to the peer again (R254). -/
def Chip.writeBack (c : Chip) (id : BitVec 32) : Chip :=
  match c.ownShard id with
  | none => c
  | some s =>
    match c.upd.tensors[s.tensor]? with
    | none => c
    | some t =>
      let h := ShardHeader.ofBytes (Sparse.get [] c.upd.parked id.toNat)
      match c.readMem [] s.stageAddr (t.slotBytes s.rowCount) with
      | (.inr _, c) => c
      | (.inl b, c) =>
        (c.emit (.peerWrite s.peer (s.slotAddr h.active) b)).emit (.peerWrite s.peer s.headerAddr h.bytes)

/-- The shards of a journal's step that are not yet at its version are updated; false where a read gave no data. A merge
is recognised by a round above the committed one. -/
def Chip.redoStep (c : Chip) (j : JournalStep) : Bool × Chip :=
  let d := if c.reg Obj.shardVersionRound < j.round then
      (match c.rnd.decided with
        | some m => some m
        | none => c.rnd.control.map mergeOfAccord)
    else none
  let c := c.each c.upd.unwritten Chip.writeBack
  let c := { c with
    rnd := { c.rnd with decided := d }
    step := { c.step with round := j.round }
    upd := { c.upd with
      running := true, waiting := c.shardOrder, lr := BitVec.ofNat 32 j.lr, clip := BitVec.ofNat 32 j.clip
      g := BitVec.ofNat 32 j.g, unwritten := [], parkedLost := false, stuck := [] } }
  let c := c.runUpdates
  (!c.upd.parkedLost, c)

/-- The step so redone is committed. -/
def Chip.commitRedone (c : Chip) (j : JournalStep) : Chip :=
  (c.commitVersion j.round j.step j.applied j.lr j.clip).setReg Obj.stepNumber (Nat.max j.step (c.reg Obj.stepNumber))

/-- An import cut short is finished: shards not yet flipped are flipped to the slot that holds the version (R252). -/
def Chip.redoImport (c : Chip) (v : Ver) : Chip :=
  let c := c.each c.upd.shards fun c s =>
    match c.shardHeader s with
    | (.inl h, c) =>
      if h.current = v then c
      else c.writeMem s.headerAddr (h.flip s.shardId.toNat v (if h.target = 0 then h.applied0 else h.applied1)).bytes
    | (.inr _, c) => c
  (c.journalAll (journalRecord jImportDone v.1 v.2 0 0 0 0 0)).atVersion v (c.reg Obj.updatesApplied)

/-- Event 0xF003 and the count of a replay (R252, R278). -/
def Chip.countReplay (c : Chip) (v : Ver) : Chip :=
  let c := (c.count Obj.journalReplays 1 32).sillageEvent 0xF003 Unit2.upd.code 0 (v.1 * 2 ^ 32 + v.2)
  { c with sil := { c.sil with afterReplay := true } }

/-- The journal replay of a keeping start (R252). A decided merge whose step never wrote BEGIN is discarded (R359). -/
def Chip.journalReplay (c : Chip) : Chip :=
  match c.unfinished with
  | some j =>
    match c.redoStep j with
    | (true, c) => (c.commitRedone j).countReplay (j.round, j.step)
    | (false, c) => c
  | none =>
    let c := { c with rnd := { c.rnd with decided := none, control := none, controlClose := none } }.refreshRounds
    match journalImport (c.journal 0) with
    | some v => (c.redoImport v).countReplay v
    | none => c

/-- What a peer one step behind takes from this module (R458): the records of the latest step, scale table, and the latest
accord record. -/
def Chip.mapReply (c : Chip) (digest : Bytes) : MapReply where
  digest := digest
  version := Ver.version (c.reg Obj.shardVersionRound, c.reg Obj.shardVersionStep)
  journal :=
    let of := fun (k : Nat) => ((List.range engines).map fun g => (c.journal g).filter fun r => u8At r 0 == k).flatten.eraseDups
    of jBegin ++ of jScalars
  scaleTable := c.scaleSection
  accord := c.rnd.history.getLast?.getD []

/-- The step that a peer one committed step ahead has committed is applied here from its records (R458): whether it could
be, and the state. -/
def Chip.catchUp (c : Chip) (r : MapReply) : Bool × Chip :=
  let l := r.journal
  match journalOpen l with
  | none => (false, c)
  | some j =>
    if (j.round, j.step) ≠ Version.ver r.version ∨ j.applied ≠ c.reg Obj.updatesApplied then (false, c)
    else
      let c := c.each (List.range engines) fun c g => c.setJournal g (journalKept (c.journal g) ++ l)
      let c := { c with
        step := { c.step with round := j.round }
        rnd := { c.rnd with
          decided := if c.reg Obj.shardVersionRound < j.round then some (mergeOfAccord r.accord) else none } }
      let c := { c with rnd := { c.rnd with controlClose := c.closingRound } }
      match c.redoStep j with
      | (false, c) => (false, c)
      | (true, c) =>
        let c := c.commitRedone j
        (true, if r.scaleTable.length = 49152 then c.importScales r.scaleTable else c)

end Sys2Proof.Machine
end

