-- ==== Sys2Proof/Machine/MapOps.lean ====
section
/-! DEFINITION. Machine/MapOps.lean: the site map (R289, R290), its agreement with the other modules (R291), and the exchange
of committed versions that runs with it (R458). -/

namespace Sys2Proof.Machine

/-! ### A site map read -/

def mapGroupAt (b : Bytes) (o : Nat) : MapGroup :=
  ⟨BitVec.ofNat 8 (u8At b (o + 2)), (List.range (u16At b (o + 4))).map fun i => BitVec.ofNat 16 (u16At b (u32At b (o + 8) + 2 * i)),
    u32At b (o + 0x0C)⟩

def mapLayerAt (b : Bytes) (o : Nat) : MapLayer :=
  ⟨BitVec.ofNat 16 (u16At b o), u16At b (o + 2), u8At b (o + 4), u8At b (o + 5) == 1, u64At b (o + 8), u64At b (o + 0x10)⟩

def mapBindingAt (b : Bytes) (o : Nat) : MapBinding :=
  ⟨BitVec.ofNat 16 (u16At b o), BitVec.ofNat 16 (u16At b (o + 2)), BitVec.ofNat 8 (u8At b (o + 4)), BitVec.ofNat 16 (u16At b (o + 6)),
    BitVec.ofNat 16 (u16At b (o + 8)), BitVec.ofNat 16 (u16At b (o + 0x0A)), u16At b (o + 0x0C), u16At b (o + 0x0E)⟩

def mapGroupOffs (b : Bytes) : List Nat := (List.range (u16At b 0x10)).map fun i => u32At b 0x18 + 16 * i
def mapLayerOffs (b : Bytes) : List Nat := (List.range (u16At b 0x12)).map fun i => u32At b 0x1C + 32 * i
def mapBindingOffs (b : Bytes) : List Nat := (List.range (u16At b 0x14)).map fun i => u32At b 0x20 + 16 * i

def mapDataOf (b : Bytes) : MapData where
  raw := b
  digest := slice b 0x28 24
  siteModules := u16At b 6
  groups := (mapGroupOffs b).map (mapGroupAt b)
  layers := (mapLayerOffs b).map (mapLayerAt b)
  bindings := (mapBindingOffs b).map (mapBindingAt b)

/-- DIGEST of a map (Table 11-1). -/
def mapDigest (b : Bytes) : Bytes := shake256 24 (splice b 0x28 (zeros 24))

/-! ### The checks of Table 11-5 -/

/-- 0x01. -/
def badMapHeader (b : Bytes) : Option Nat :=
  let gs := List.range (u16At b 0x10)
  (firstOf [
    (decide (b.length < 64), 0), (u32At b 0 != 0x504D5443, 0), (u16At b 4 != 1, 4),
    (u16At b 6 == 0 || decide (4096 < u16At b 6), 6),
    (u16At b 0x10 == 0 || decide (1024 < u16At b 0x10), 0x10), (decide (4096 < u16At b 0x12), 0x12),
    (decide (4096 < u16At b 0x14), 0x14), (u16At b 0x16 != 0, 0x16),
    (decide (b.length < u32At b 0x18 + 16 * u16At b 0x10), 0x18), (decide (b.length < u32At b 0x1C + 32 * u16At b 0x12), 0x1C),
    (decide (b.length < u32At b 0x20 + 16 * u16At b 0x14), 0x20), (u32At b 0x24 != b.length, 0x24)]).orElse fun _ =>
  (gs.findSome? fun i =>
    let o := u32At b 0x18 + 16 * i
    firstOf [
      (u16At b o != i, o), (decide (4 < u8At b (o + 2)), o + 2), (u8At b (o + 3) != 0, o + 3),
      (decide (4096 < u16At b (o + 4)), o + 4), (u16At b (o + 6) != 0, o + 6),
      (decide (b.length < u32At b (o + 8) + 2 * u16At b (o + 4)), o + 8), (u8At b (o + 2) != 3 && u32At b (o + 0x0C) != 0, o + 0x0C)]).orElse fun _ =>
  ((mapLayerOffs b).findSome? fun o => firstOf [
    (decide (1 < u8At b (o + 5)), o + 5), (u16At b (o + 6) != 0, o + 6), (u64At b (o + 0x18) != 0, o + 0x18)]).orElse fun _ =>
  (mapBindingOffs b).findSome? fun o => firstOf [(u8At b (o + 5) != 0, o + 5)]

/-- A list without repeats. -/
def noRepeats : List (BitVec 16) → Bool
  | [] => true
  | x :: r => !r.contains x && noRepeats r

/-- 0x04. -/
def badMapGroups (b : Bytes) : Option Nat :=
  (mapGroupOffs b).findSome? fun o =>
    let g := mapGroupAt b o
    firstOf [(g.members.isEmpty, o + 4), (!noRepeats g.members || g.members.any fun m => decide (u16At b 6 ≤ m.toNat), o + 8)]

/-- This module holds a layer: an update tensor or a scaled tensor of a tile names it. -/
def Chip.holdsLayer (c : Chip) (layer : Nat) : Bool :=
  !(c.upd.tensorsOf layer).isEmpty || c.step.held.contains (2 * layer) || c.step.held.contains (2 * layer + 1)

/-- 0x05. -/
def Chip.badMapLayers (c : Chip) (b : Bytes) (slot : Nat) : Option Nat :=
  let m := mapDataOf b
  let me := BitVec.ofNat 16 (c.reg Obj.bzModuleNumber)
  let os := mapLayerOffs b
  (os.findSome? fun o =>
    let l := mapLayerAt b o
    let g := m.groups[l.gradGroup]?
    firstOf [
      ((os.any fun p => decide (p < o) && u16At b p == l.layer.toNat), o),
      ((match g with
        | none => true
        | some g => g.kind != 0 || (c.holdsLayer l.layer.toNat && !g.members.contains me)), o + 2),
      (l.buffers == 0 || decide (4 < l.buffers), o + 4),
      (!c.inFootprint slot l.bufAddr (l.buffers * l.bufBytes), o + 8)]).orElse fun _ =>
  clashIn [] (os.map fun o => let l := mapLayerAt b o; (l.bufAddr, l.buffers * l.bufBytes, o + 8))

/-- Bytes of a message of a casting's route: a slot of the queue at its tile's end. -/
def Chip.routeSlotBytes (c : Chip) (r : Route) : Nat :=
  let q := fun (tile : BitVec 16) (n : BitVec 8) =>
    (((c.tile (c.array.physical tile.toNat)).queue? n.toNat).map fun (x : TileQueue) => x.slotBytes).getD 0
  if r.kind = 3 then q r.dst r.dstQueue else q r.src r.srcQueue

/-- A point-to-point binding and the one of its other end name each other. -/
def mutualPair (l : List MapBinding) (x : MapBinding) : Bool :=
  l.any fun y => y.transfer == 0 && y.module == x.peerModule && y.route == x.peerRoute && y.peerModule == x.module && y.peerRoute == x.route

/-- 0x06. -/
def Chip.badMapBindings (c : Chip) (b : Bytes) (slot : Nat) : Option Nat :=
  let m := mapDataOf b
  let me := BitVec.ofNat 16 (c.reg Obj.bzModuleNumber)
  let routes := (((c.array.casting slot).map fun k => k.routes).getD []).filter fun r => r.kind == 3 || r.kind == 4
  let os := mapBindingOffs b
  ((os.zip m.bindings).findSome? fun x =>
    let (o, y) := x
    firstOf [
      (decide (4 < y.transfer.toNat), o + 4),
      (y.module == me && !(routes.any fun r => r.route == y.route), o + 2),
      (os.any fun p => decide (p < o) && u16At b p == y.module.toNat && u16At b (p + 2) == y.route.toNat, o + 2),
      (y.transfer == 0 && !mutualPair m.bindings y, o + 8),
      (y.transfer != 0 && !(match m.groups[y.group.toNat]? with
        | some g => g.members.contains y.module
        | none => false), o + 6)]).orElse fun _ =>
  routes.findSome? fun r => if m.bindings.any fun y => y.module == me && y.route == r.route then none else some (u32At b 0x20)

/-- 0x07. -/
def badMapSequence (b : Bytes) : Option Nat :=
  (mapGroupOffs b).findSome? fun o =>
    let g := mapGroupAt b o
    if g.kind = 3 ∧ (g.seqChunk = 0 ∨ g.seqChunk % 32 ≠ 0 ∨ 8388608 < g.members.length * g.seqChunk) then some (o + 0x0C) else none

/-- 0x08. -/
def Chip.badMapExpert (c : Chip) (b : Bytes) (slot : Nat) : Option Nat :=
  let m := mapDataOf b
  let me := BitVec.ofNat 16 (c.reg Obj.bzModuleNumber)
  let routes := ((c.array.casting slot).map fun k => k.routes).getD []
  ((mapBindingOffs b).zip m.bindings).findSome? fun x =>
    let (o, y) := x
    let n := ((m.groups[y.group.toNat]?).map fun g => g.members.length).getD 0
    let bytes := if y.module = me then (routes.find? fun r => r.route == y.route).map c.routeSlotBytes else none
    if y.transfer = 4 then firstOf [
      (y.capacity == 0, o + 0x0C), (y.tokenBytes == 0, o + 0x0E),
      (match bytes with
        | some s => y.capacity * y.tokenBytes * n != s
        | none => false, o + 0x0C)]
    else none

/-- The first failed check of a map: reason code and offset. -/
def Chip.badMap (c : Chip) (b : Bytes) : Option (Nat × Nat) :=
  ((badMapHeader b).map fun o => (1, o)).orElse fun _ =>
  (if slice b 0x28 24 = mapDigest b then none else some (2, 0x28)).orElse fun _ =>
  match c.slotOfId (u64At b 8) with
  | none => some (3, 8)
  | some slot =>
    ((badMapGroups b).map fun o => (4, o)).orElse fun _ =>
    ((c.badMapLayers b slot).map fun o => (5, o)).orElse fun _ =>
    ((c.badMapBindings b slot).map fun o => (6, o)).orElse fun _ =>
    ((badMapSequence b).map fun o => (7, o)).orElse fun _ =>
    (c.badMapExpert b slot).map fun o => (8, o)

/-! ### Agreement (R291, R458) -/

/-- Map accepted last. -/
def Chip.lastMap (c : Chip) : Option MapData := c.map.last.bind fun s => c.mapOf s

/-- Modules that share a group with this one. -/
def Chip.mapPeers (c : Chip) (m : MapData) : List (BitVec 16) :=
  let me := BitVec.ofNat 16 (c.reg Obj.bzModuleNumber)
  (((m.groups.filter fun g => g.members.contains me).map fun g => g.members).flatten.filter fun x => x != me).eraseDups

/-- The map's digest and this module's version go to every peer; without peers the map is agreed. -/
def Chip.offerMap (c : Chip) : Chip :=
  match c.lastMap with
  | none => c
  | some m =>
    let ps := c.mapPeers m
    let c := { c with map := { c.map with agreed := [] } }
    if ps.isEmpty then c.setReg Obj.siteMapState 2
    else
      let r := c.mapReply m.digest
      c.each ps (fun c p => c.emit (.mapDigest p r)) |>.setReg Obj.siteMapState 1

/-- Receive slots of this module's point-to-point routes are granted to their senders as the map is agreed (R294, R316). -/
def Chip.grantRoutes (c : Chip) (slot : Nat) (m : MapData) : Chip :=
  let me := BitVec.ofNat 16 (c.reg Obj.bzModuleNumber)
  let routes := (((c.array.casting slot).map fun k => k.routes).getD []).filter fun r => r.kind == 3
  c.each routes fun c r =>
    if m.bindings.any fun y => y.module == me && y.route == r.route && y.transfer == 0 then
      let n := (((c.tile (c.array.physical r.dst.toNat)).queue? r.dstQueue.toNat).map fun (x : TileQueue) => x.depth).getD 0
      c.grantCredits slot r.route.toNat n
    else c

/-- The map takes effect, and its agreement begins. -/
def Chip.useMap (c : Chip) (b : Bytes) : Chip :=
  match c.slotOfId (u64At b 8) with
  | none => c
  | some slot =>
    let m := mapDataOf b
    let c := { c with map := { c.map with maps := Sparse.put none c.map.maps slot (some m), last := some slot } }
    (((c.setReg Obj.mapLastReason 0).setReg Obj.mapLastOffset 0).grantRoutes slot m).offerMap

def siteMapRule (d : ObjDef) : WriteRule where
  cond := fun c _ _ b _ => if (c.badMap b).isNone then stOk else stOutOfRange
  eff := fun c _ key b => (c.store d key b).useMap b
  note := fun c _ b _ =>
    match c.badMap b with
    | some x => ((c.setReg Obj.mapLastReason x.1).setReg Obj.mapLastOffset x.2).occurCode 7 0 .map x.1 noRegion x.2 0
    | none => c

/-- SITE_MAP_WRITE. -/
def execSiteMapWrite (rq : Fin 17) (map : Bytes) (s : State) : Host.Outcome State Fault Refusal :=
  s.on fun c => c.writeAs rq Obj.siteMap ObjType.domain.code map siteMapRule

/-- Versions that cannot be brought together: the site splits (R458). -/
def Chip.versionSplit (c : Chip) (peer : BitVec 16) : Chip :=
  (c.setReg Obj.siteMapState 3).occur 12 1 .rst noRegion peer.toNat 0

/-- Versions this module's first shard holds in its inactive slot: the one before the committed one. -/
def Chip.versionBefore (c : Chip) : Option Ver :=
  match c.upd.shards with
  | [] => none
  | s :: _ =>
    match c.shardHeader s with
    | (.inl h, _) => some (h.version h.target)
    | (.inr _, _) => none

/-- A peer's digest and version are judged (R291, R458). -/
def Chip.mapAnswer (c : Chip) (peer : BitVec 16) (r : MapReply) : Chip :=
  match c.lastMap with
  | none => c
  | some m =>
    let ps := c.mapPeers m
    if !ps.contains peer || (c.reg Obj.siteMapState != 1) then c
    else if r.digest ≠ m.digest then (c.setReg Obj.siteMapState 3).occur 7 1 .map noRegion peer.toNat 0
    else
      let mine : Ver := (c.reg Obj.shardVersionRound, c.reg Obj.shardVersionStep)
      let theirs := Version.ver r.version
      if theirs = mine then
        let c := { c with map := { c.map with agreed := if c.map.agreed.contains peer then c.map.agreed else c.map.agreed ++ [peer] } }
        if ps.all fun p => c.map.agreed.contains p then c.setReg Obj.siteMapState 2 else c
      else if Ver.before mine theirs then
        match c.catchUp r with
        | (true, c) => c.offerMap
        | (false, c) => c.versionSplit peer
      else if c.versionBefore = some theirs ∨ c.upd.shards.isEmpty then c
      else c.versionSplit peer

end Sys2Proof.Machine
end

