-- ==== Sys2Proof/Machine/Partners.lean ====
section
/-! DEFINITION. Machine/Partners.lean: the partner modules of an anneal group as the site links find them: greetings, presence
quotes over a session, and reachability (R330, R371, R479, R480). -/

namespace Sys2Proof.Machine

/-- What this module tells a partner of itself (R330). -/
def Chip.greeting (c : Chip) : Greeting where
  groupId := BitVec.ofNat 64 (c.reg Obj.rndGroupId)
  siteIndex := BitVec.ofNat 8 c.slkSite
  moduleNumber := BitVec.ofNat 16 c.slkModule
  castingId := c.upd.castingId
  mapDigest := (c.lastMap.map fun m => m.digest).getD (zeros 24)
  updateDigest := shake256 24 (c.blob Obj.updateTable)
  latestMerged := BitVec.ofNat 32 (c.reg Obj.rndRoundMerged)
  prevDigest := c.accordPrev

/-- A site that has gone or is turned away no longer counts as greeted. -/
def Chip.ungreet (c : Chip) (j : Nat) : Chip :=
  { c with slk := { c.slk with
    greeted := c.slk.greeted.filter (· != j), histories := c.slk.histories.filter (· != j) } }

/-- The partner is unreachable; a refused one stays refused until a later greeting agrees. -/
def Chip.partnerDown (c : Chip) (j : Nat) : Chip :=
  let c := c.ungreet j
  if c.partnerState j = partnerRefused then c else c.setPartnerState j partnerUnreachable

/-- Session and probes say that the partner module answers (R371). -/
def Chip.partnerAnswers (c : Chip) (j : Nat) : Bool :=
  match c.session (c.slkPeer j) with
  | some s => s.up && s.answered
  | none => false

/-- A partner whose greeting stands is reachable once it answers, and reconciling until its history has come. -/
def Chip.partnerRefresh (c : Chip) (j : Nat) : Chip :=
  if !c.slk.greeted.contains j then c
  else if !c.partnerAnswers j then c.setPartnerState j partnerUnreachable
  else if !c.slk.histories.contains j then c.setPartnerState j partnerReconciling
  else if c.partnerState j = partnerDiverged then c
  else c.setPartnerState j partnerReachable

/-- The partner is refused: a presence quote that fails R479. -/
def Chip.slkRefuseQuote (c : Chip) (p : Nat) (q : Bytes) : Chip :=
  ((c.ungreet (partnerSite p)).setPartnerState (partnerSite p) partnerRefused).refusePeer (partnerModule p) q

/-- The quote that this partner offered before, under the same start. -/
def Chip.slkQuoteKnown (c : Chip) (p : Nat) (q : Bytes) : Bool :=
  c.slk.accepted.any fun x => x.1 == p && x.2.1 == quoteDevice q && x.2.2.toNat == quoteStart q

/-- The first message of a session is judged. -/
def Chip.slkQuote (c : Chip) (p : Nat) (q : Bytes) : Chip :=
  let place := quoteSite q == partnerSite p && quoteModule q == partnerModule p
  if c.slkQuoteKnown p q then c
  else if c.quoteAccepted q && place then
    { c with
      bz := { c.bz with presented := c.bz.presented ++ [(quoteDevice q, BitVec.ofNat 64 (quoteStart q))] }
      slk := { c.slk with
        accepted := c.slk.accepted.filter (fun x => x.1 != p) ++ [(p, quoteDevice q, BitVec.ofNat 64 (quoteStart q))] } }
  else c.slkRefuseQuote p q

/-- A session has come up: the presence quote goes first, then the greeting, then what waits; control traffic before the
rest (R330, R370, R479). -/
def Chip.slkEstablished (c : Chip) (p : Nat) : Chip :=
  let j := partnerSite p
  let mine := p == c.slkPeer j && decide (j < 64)
  let c := if mine && !c.ident.presence.isEmpty then c.contextSendNext (roundContext j 1 0) c.ident.presence else c
  let c := if mine then c.emit (.greeting j c.greeting) else c
  let ns := (c.slk.contexts.map fun e => e.1).filter fun n => let x := c.context n; x.state == 1 && x.partner == p
  c.each (ns.filter (fun n => (c.context n).cls == 1) ++ ns.filter (fun n => (c.context n).cls != 1)) fun c n => c.pumpContext n

/-- A session ends: nothing is sent under it, and the partner has to be met again. -/
def Chip.slkEndSession (c : Chip) (p : Nat) : Chip :=
  match c.session p with
  | none => c
  | some s =>
    let c := c.setSession p { s with up := false, confirmed := false, answered := false }
    (if p = c.slkPeer (partnerSite p) then c.partnerDown (partnerSite p) else c).slkRefresh

end Sys2Proof.Machine
end

