-- ==== Sys2Proof/Machine/SlkRecv.lean ====
section
/-! DEFINITION. Machine/SlkRecv.lean: the receiving side of the site links (R368, R371, R375, R376, R379 to R382). -/

namespace Sys2Proof.Machine

/-! ### A frame arrives (R368) -/

/-- Fields that a parity packet must have at 0 (R366). -/
def parityHeaderOk (h : SlkHeader) : Bool :=
  h.flags == 0 && h.cls == 0 && h.stream == 0 && h.epoch == 0 && h.pn == 0 && h.round == 0 && h.fragment == 0 && h.msgFragments == 0

def Chip.slkWellFormed (c : Chip) (kind : Nat) (f : SlkFrame) : Bool :=
  let h := f.hdr
  f.fcsOk && f.pcsOk && h.vt.toNat == 16 + kind && h.flags.toNat / 8 == 0 && h.reserved0 == 0 && h.reserved1 == 0 &&
  h.dstSite.toNat == c.slkSite && h.dstModule.toNat == c.slkModule && (kind == 3 || bit (c.reg Obj.rndSites) h.srcSite.toNat) &&
  (kind != 1 || parityHeaderOk h)

/-- Whether the frame is taken; its bytes and a bad codeword are counted. -/
def Chip.slkArrive (c : Chip) (port kind : Nat) (f : SlkFrame) : Bool × Chip :=
  if !c.slkUp port then (false, c)
  else
    let c := c.count (Obj.slkPortBytesRx port) (slkFrameBytes f) 64
    let c := if f.pcsOk then c else c.count (Obj.slkPortFecUncorrectable port) 1 64
    (c.slkWellFormed kind f, c)

def slkSource (h : SlkHeader) : Nat := slkPartner h.srcSite.toNat h.srcModule.toNat

/-! ### Hellos (R371) -/

/-- A hello under the partner's key with its tag right, and its start counter not below the last. -/
def Chip.helloGood (c : Chip) (p : Nat) (f : SlkFrame) : Bool :=
  match c.slotKey (c.reg Obj.slkMasterSlot) with
  | none => false
  | some m =>
    let k := slkKdf m (partnerSite p) c.slkSite (partnerModule p) c.slkModule 0 helloEpoch
    let known := ((c.session p).bind fun s => s.peerStart.map fun x => x.toNat).getD 0
    f.body.length == 40 && f.body.drop 24 == cmac k (slkHeaderBytes f.hdr ++ f.body.take 24) && decide (known ≤ beAt f.body 8 8)

/-- The partner is present under a start counter not seen before: its direction begins at epoch 0, and messages to it
count as unsent (R374, R385). Where this module saw no counter of it, the epoch it stands at is not known yet. -/
def Chip.helloNewStart (c : Chip) (p start : Nat) : Chip :=
  match c.session p with
  | none => c
  | some s =>
    let known := s.peerStart.isSome
    let c := c.setSession p { s with peerStart := some (BitVec.ofNat 64 start), up := false, confirmed := false, answered := false }
    let c := (c.deriveKey p (s.base + keyHelloRx) false 0 helloEpoch).beginReceive p 0 known false
    let c := if p = c.slkPeer (partnerSite p) ∧ s.up then c.partnerDown (partnerSite p) else c
    c.slkResendAll p

/-- The partner has answered this module's counter: the session stands, its transmit direction in a new epoch. -/
def Chip.helloMatched (c : Chip) (p : Nat) : Chip :=
  match c.session p with
  | none => c
  | some s =>
    if s.up then c.setSession p { s with confirmed := false }
    else
      let mine := p == c.slkPeer (partnerSite p)
      let c := c.setSession p { s with up := true, confirmed := false, quoteDue := mine }
      let c := if s.used then c.nextEpoch p else c.beginEpoch p 0
      (c.slkRefresh).slkEstablished p

/-- A hello is received. -/
def Chip.slkHelloFrame (c : Chip) (port : Nat) (f : SlkFrame) : Chip :=
  match c.slkArrive port 3 f with
  | (false, c) => c
  | (true, c) =>
    let p := slkSource f.hdr
    let ok := c.helloGood p f
    let c := c.cipherUsed (slkHeaderSize + 24) ok
    if !ok then c.occur 10 1 .slk noRegion (partnerSite p) 0
    else
      let c := c.openSession p
      let start := beAt f.body 8 8
      let c := match c.session p with
        | some s => if s.peerStart = some (BitVec.ofNat 64 start) then c else c.helloNewStart p start
        | none => c
      if beAt f.body 16 8 = c.reg Obj.startCount then c.helloMatched p
      else
        match c.session p with
        | some s => c.setSession p { s with confirmed := false }
        | none => c

/-! ### Opening a packet (R373, R375, R376) -/

/-- A tag does not fit. -/
def Chip.slkAuthFail (c : Chip) (p : Nat) : Chip := (c.count Obj.slkAuthFailed 1 64).occur 10 2 .slk noRegion (partnerSite p) 0

/-- The packet's epoch is not live. -/
def Chip.slkLate (c : Chip) (p : Nat) : Chip := (c.count Obj.slkEpochLate 1 64).occur 10 3 .slk noRegion (partnerSite p) 0

/-- A body under the key of a slot. -/
def Chip.slkUnseal (c : Chip) (slot : Nat) (f : SlkFrame) : Option Bytes × Chip :=
  let n := f.body.length - 16
  let r := (c.slotKey slot).bind fun k =>
    gcmOpen k (slkNonce f.hdr.pn.toNat) (slkHeaderBytes f.hdr) (f.body.take n) (f.body.drop n)
  (r, c.cipherUsed (n + slkHeaderSize) r.isSome)

/-- Place of the key that an epoch of the receive direction is opened with. -/
def SlkSession.epochKey (s : SlkSession) (e : BitVec 32) : Option Nat :=
  if e = s.epochRx then some keyRx
  else if e = s.epochRx + 1 then some keyRxNext
  else if s.previous ∧ e = s.epochRx - 1 then some keyRxPrev else none

/-- The plaintext of a data, acknowledgement or probe packet. The first one under the next epoch makes it current. -/
def Chip.slkOpen (c : Chip) (p : Nat) (f : SlkFrame) : Option Bytes × Chip :=
  match c.session p with
  | none => (none, c.slkLate p)
  | some s =>
    if s.peerStart.isNone then (none, c.slkLate p)
    else
      let c := if s.rxKnown then c else c.beginReceive p f.hdr.epoch false false
      match (if s.rxKnown then s.epochKey f.hdr.epoch else some keyRx) with
      | none => (none, c.slkLate p)
      | some k =>
        match c.slkUnseal (s.base + k) f with
        | (none, c) => (none, c.slkAuthFail p)
        | (some b, c) =>
          let c := if !s.rxKnown then c.beginReceive p f.hdr.epoch true false
            else if k = keyRxNext then c.beginReceive p f.hdr.epoch true true else c
          match c.session p with
          | some s => (some b, c.setSession p { s with confirmed := s.up })
          | none => (some b, c)

/-! ### Acknowledgements (R380, R381) -/

def ackEntryBytes : Nat := 48

def slkAckEntry (stream round base done map : Nat) : Bytes :=
  beBytes 2 stream ++ zeros 2 ++ beBytes 4 round ++ beBytes 4 base ++ beBytes 4 done ++ beBytes 32 map

/-- Entry of an open message. -/
def RxMessage.ackEntry (m : RxMessage) (stream : Nat) : Bytes :=
  slkAckEntry stream m.round.toNat m.base 0
    (m.held.foldl (fun a f => if m.base < f ∧ f ≤ m.base + 256 then a ||| 2 ^ (f - m.base - 1) else a) 0)

/-- Everything open at a receive context is acknowledged, with the completions not yet told. -/
def Chip.slkAcknowledge (c : Chip) (n : Nat) : Chip :=
  let x := c.context n
  let st := x.stream.toNat
  let body := (x.rx.map fun m => m.ackEntry st).flatten ++ (x.toAck.map fun e => slkAckEntry st e.1.toNat e.2 1 0).flatten
  let c := c.setContext n { x with toAck := [], unackedRx := 0 }
  if body.isEmpty then c else c.slkControl x.partner 2 body

/-- The entry written while the context was in use takes effect at a message boundary (R369). -/
def Chip.slkSettle (c : Chip) (n : Nat) : Chip :=
  let x := c.context n
  match x.next with
  | some b => if x.rx.isEmpty && x.tx.isEmpty then c.setContext n (flowEntry b) else c
  | none => c
where
  flowEntry (b : Bytes) : FlowContext :=
    { FlowContext.blank with
      state := BitVec.ofNat 8 (u8At b 0), cls := BitVec.ofNat 8 (u8At b 1), site := u8At b 2, parity := u8At b 3
      stream := BitVec.ofNat 16 (u16At b 4), dmaChannel := BitVec.ofNat 16 (u16At b 6)
      partnerModule := BitVec.ofNat 16 (u16At b 8), weight := BitVec.ofNat 16 (u16At b 10), rateLimit := BitVec.ofNat 32 (u32At b 12) }

/-- A message as an acknowledgement shows it held; none where it is whole at the partner. -/
def TxMessage.shown (m : TxMessage) (base done map : Nat) : Option TxMessage :=
  let b := Nat.max m.base base
  if done ≠ 0 ∨ m.count ≤ b then none
  else
    let new := (List.range 256).filterMap fun i => if bit map i then some (base + 1 + i) else none
    some { m with base := b, held := (m.held ++ new.filter fun f => !m.held.contains f).filter fun f => decide (b < f) }

/-- Transmit context of a stream to a partner. -/
def Chip.txContext (c : Chip) (p stream : Nat) : Option Nat :=
  let j := partnerSite p
  if stream < 0x3000 then
    let n := roundContext j (stream / 0x1000) 0
    if p = c.slkPeer j ∧ (c.context n).stream.toNat = stream then some n else none
  else (c.slk.contexts.find? fun e => decide (384 ≤ e.1) && e.2.state == 1 && e.2.partner == p && e.2.stream.toNat == stream).map fun e => e.1

/-- One entry of an acknowledgement. -/
def Chip.slkTakeAck (c : Chip) (p : Nat) (e : Bytes) : Chip :=
  match c.txContext p (beAt e 0 2) with
  | none => c
  | some n =>
    let x := c.context n
    let tx := x.tx.filterMap fun m => if m.round.toNat = beAt e 4 4 then m.shown (beAt e 8 4) (beAt e 12 4) (beAt e 16 32) else some m
    ((c.setContext n { x with tx := tx }).slkSettle n).pumpContext n

def Chip.slkAckFrame (c : Chip) (port : Nat) (f : SlkFrame) : Chip :=
  match c.slkArrive port 2 f with
  | (false, c) => c
  | (true, c) =>
    let p := slkSource f.hdr
    match c.slkOpen p f with
    | (none, c) => c
    | (some b, c) => c.each (chunks ackEntryBytes b) fun c e => c.slkTakeAck p e

/-! ### Probes (R371) -/

/-- Body of a probe, 0, or of its answer, 1 (DESIGN CHOICE, assumption log 47). -/
def probeBody (answer : Bool) (mono : Nat) : Bytes := [if answer then 1 else 0] ++ beBytes 8 mono

/-- A probe is answered; an answer shows the partner reachable and renews the smoothed round trip, whose smoothing the spec
leaves open. -/
def Chip.slkProbeFrame (c : Chip) (port : Nat) (f : SlkFrame) : Chip :=
  match c.slkArrive port 4 f with
  | (false, c) => c
  | (true, c) =>
    let p := slkSource f.hdr
    match c.slkOpen p f with
    | (none, c) => c
    | (some b, c) =>
      if beAt b 0 1 = 0 then c.slkControl p 4 (probeBody true (beAt b 1 8))
      else
        match c.session p with
        | none => c
        | some s =>
          let c := c.setSession p { s with answered := s.up }
          let j := partnerSite p
          if p = c.slkPeer j ∧ j < 64 then
            let (r, c) := c.freeNat 64
            (c.setReg (Obj.slkPartnerRttNs j) r).partnerRefresh j
          else c

/-! ### Fragments (R382) -/

def openMessages (s : SiteLinks) : Nat := s.contexts.foldl (fun n e => n + e.2.rx.length) 0

/-- Receive context of a packet. -/
def Chip.rxContext (c : Chip) (p : Nat) (h : SlkHeader) : Option Nat :=
  let j := partnerSite p
  let cls := h.cls.toNat
  if cls < 3 then
    let n := roundContext j cls 1
    if p = c.slkPeer j ∧ (c.context n).stream = h.stream then some n else none
  else (c.slk.contexts.find? fun e =>
    decide (384 ≤ e.1) && e.2.state == 2 && e.2.partner == p && e.2.stream == h.stream && e.2.cls == h.cls).map fun e => e.1

/-- Messages of a bulk stream that are next in number order go to the channel's inbox; `k` bounds them. -/
def Chip.bulkReady (c : Chip) (n : Nat) : Nat → Chip
  | 0 => c
  | k + 1 =>
    let x := c.context n
    match x.number with
    | none => c
    | some e =>
      match x.ready.find? fun r => r.1.toNat == e with
      | none => c
      | some r =>
        let c := c.setContext n { x with number := some (e + 1), ready := x.ready.filter fun y => y.1 != r.1 }
        ({ c with slk := { c.slk with inbox := c.slk.inbox ++ [(x.dmaChannel.toNat, r.2)] } }).bulkReady n k

/-- A whole message reaches its owner: the session's first one is the presence quote, bulk goes to its DMA channel in
number order, round traffic to the round logic. -/
def Chip.slkDeliver (c : Chip) (n : Nat) (round : BitVec 32) (b : Bytes) : Chip :=
  let x := c.context n
  let p := x.partner
  if x.cls = 3 then
    (c.setContext n { x with number := some (x.number.getD round.toNat), ready := x.ready ++ [(round, b)] }).bulkReady n (x.ready.length + 1)
  else
    match c.session p with
    | some s =>
      if x.cls = 1 ∧ s.quoteDue then (c.setSession p { s with quoteDue := false }).slkQuote p b
      else c.emit (.slkDelivered p x.stream round b)
    | none => c

/-- A message with one fragment more: its base moves over what is held. -/
def RxMessage.add (m : RxMessage) (f : Nat) (b : Bytes) : RxMessage :=
  let held := m.held ++ [f]
  let base := ((List.range (m.fragments + 1)).find? fun i => decide (m.base ≤ i) && !held.contains i).getD m.fragments
  { m with base := base, held := held.filter fun i => decide (base ≤ i), cells := m.cells ++ [(f, b)] }

/-- Bytes of a whole message. -/
def RxMessage.whole (m : RxMessage) : Bytes :=
  ((List.range m.fragments).map fun i => ((m.cells.find? fun e => e.1 == i).map fun e => e.2).getD []).flatten

/-- A fragment already held is discarded, counted and acknowledged again. -/
def Chip.slkDuplicate (c : Chip) (n : Nat) (h : SlkHeader) : Chip :=
  let x := c.context n
  let again := if x.completed.contains h.round && !(x.toAck.any fun e => e.1 == h.round)
    then x.toAck ++ [(h.round, h.msgFragments.toNat)] else x.toAck
  ((c.count Obj.slkDuplicates 1 64).setContext n { x with toAck := again }).slkAcknowledge n

/-- A new fragment is taken; a message that is whole is delivered once. -/
def Chip.slkAccept (c : Chip) (n : Nat) (h : SlkHeader) (m : RxMessage) (b : Bytes) : Chip :=
  let x := c.context n
  let m := m.add h.fragment.toNat b
  let others := x.rx.filter fun y => y.round != h.round
  let whole := decide (m.fragments ≤ m.base)
  let done := x.completed ++ [h.round]
  let x := { x with unackedRx := x.unackedRx + 1 }
  let c := if whole then
      let c := c.setContext n { x with
        rx := others, completed := done.drop (done.length - 64), toAck := x.toAck ++ [(h.round, m.fragments)] }
      (c.slkDeliver n h.round m.whole).slkSettle n
    else c.setContext n { x with rx := others ++ [m] }
  if 64 ≤ x.unackedRx then c.slkAcknowledge n else c

/-- An authenticated fragment (R382). -/
def Chip.slkTakeFragment (c : Chip) (n : Nat) (h : SlkHeader) (b : Bytes) : Chip :=
  let x := c.context n
  let f := h.fragment.toNat
  let drop := c.count Obj.slkWindowDiscards 1 64
  if x.completed.contains h.round then c.slkDuplicate n h
  else if h.msgFragments.toNat ≤ f then drop
  else
    match x.rx.find? fun m => m.round == h.round with
    | some m =>
      if f < m.base ∨ m.held.contains f then c.slkDuplicate n h
      else if m.base + fragmentWindow < f then drop
      else c.slkAccept n h m b
    | none =>
      if 4 ≤ x.rx.length ∨ 1024 ≤ openMessages c.slk ∨ fragmentWindow < f then drop
      else c.slkAccept n h ⟨h.round, h.msgFragments.toNat, 0, [], []⟩ b

/-- A sealed data packet, as it arrived or as FEC rebuilt it. A refused partner is heard on the control stream only. -/
def Chip.slkTakeData (c : Chip) (f : SlkFrame) : Chip :=
  let p := slkSource f.hdr
  match c.slkOpen p f with
  | (none, c) => c
  | (some b, c) =>
    if c.partnerState (partnerSite p) = partnerRefused ∧ f.hdr.cls ≠ 1 then c
    else
      match c.rxContext p f.hdr with
      | none => c
      | some n => c.slkTakeFragment n f.hdr b

/-! ### FEC at the receiver (R379) -/

def FecRx.has (g : FecRx) (i : Nat) : Bool := g.units.any fun u => u.1 == i

/-- Data packets of the group that are missing, once k is known. -/
def FecRx.missing (g : FecRx) : List Nat :=
  match g.k with
  | some k => (List.range k).filter fun i => !g.has i
  | none => []

def Chip.fecGroup (c : Chip) (port p : Nat) (group : BitVec 32) : FecRx :=
  (c.slk.fecRx.find? fun g => g.port == port && g.partner == p && g.group == group).getD ⟨port, p, group, none, [], []⟩

def Chip.setFecGroup (c : Chip) (g : FecRx) : Chip :=
  { c with slk := { c.slk with
    fecRx := c.slk.fecRx.filter (fun x => !(x.port == g.port && x.partner == g.partner && x.group == g.group)) ++ [g] } }

/-- Missing packets are rebuilt where enough of the group is held; each is then treated as though it had arrived. -/
def Chip.fecRebuild (c : Chip) (g : FecRx) : Chip :=
  let ms := g.missing
  if ms.isEmpty || decide (g.parity.length < ms.length) then c
  else
    let n := (g.parity.map fun e => e.2.length).foldl Nat.max 0
    let us := recoverUnits n g.units g.parity ms
    let c := c.setFecGroup { g with units := g.units ++ ms.zip us }
    c.each us fun c u =>
      let b := unitPacket u
      (c.count Obj.slkFecRecovered 1 64).slkTakeData ⟨true, true, slkHeaderOf (b.take slkHeaderSize), b.drop slkHeaderSize⟩

/-- A data packet arrives on a port. -/
def Chip.slkDataFrame (c : Chip) (port : Nat) (f : SlkFrame) : Chip :=
  match c.slkArrive port 0 f with
  | (false, c) => c
  | (true, c) =>
    let h := f.hdr
    let c' := c.slkTakeData f
    if h.parityCount = 0 then c'
    else
      let g := c'.fecGroup port (slkSource h) h.group
      if g.has h.groupIndex.toNat then c'
      else
        let g := { g with units := g.units ++ [(h.groupIndex.toNat, codedUnit (slkHeaderBytes h ++ f.body))] }
        (c'.setFecGroup g).fecRebuild g

/-- A parity packet arrives on a port. -/
def Chip.slkParityFrame (c : Chip) (port : Nat) (f : SlkFrame) : Chip :=
  match c.slkArrive port 1 f with
  | (false, c) => c
  | (true, c) =>
    let h := f.hdr
    let j := h.groupIndex.toNat - 64
    let g := c.fecGroup port (slkSource h) h.group
    if h.groupIndex.toNat < 64 ∨ 80 ≤ h.groupIndex.toNat ∨ h.groupSize = 0 ∨ 64 < h.groupSize.toNat ∨ (g.parity.any fun e => e.1 == j) then c
    else
      let g := { g with k := some h.groupSize.toNat, parity := g.parity ++ [(j, f.body)] }
      (c.setFecGroup g).fecRebuild g

/-- SLK_FEC_HOLD has passed: the group ends, and data packets still missing are left to re-send. Without a parity packet
those below the highest index held count as missing (DESIGN CHOICE, assumption log 48). -/
def Chip.fecExpire (c : Chip) (port p : Nat) (group : BitVec 32) : Chip :=
  let g := c.fecGroup port p group
  let top := g.units.foldl (fun m u => Nat.max m (u.1 + 1)) 0
  let lost := match g.k with
    | some _ => g.missing.length
    | none => ((List.range top).filter fun i => !g.has i).length
  let c := { c with slk := { c.slk with
    fecRx := c.slk.fecRx.filter fun x => !(x.port == port && x.partner == p && x.group == group) } }
  if lost = 0 then c else (c.count Obj.slkFecLost lost 64).occur 10 4 .slk noRegion (partnerSite p) lost

end Sys2Proof.Machine
end

