-- ==== Sys2Proof/Machine/SlkCmds.lean ====
section
/-! DEFINITION. Machine/SlkCmds.lean: the commands of the site links and of the cages (R32 to R34, R363 to R386). -/

namespace Sys2Proof.Machine

/-! ### Cages and ports (R32 to R34, R364, R384) -/

def Board.cage (b : Board) (p : Nat) : Cage := if p = 0 then b.cage0 else b.cage1

def Chip.setCage (c : Chip) (p : Nat) (x : Cage) : Chip :=
  if p = 0 then { c with board := { c.board with cage0 := x } } else { c with board := { c.board with cage1 := x } }

/-- A port changes state; each fall is an occurrence (R364). -/
def Chip.setSlkPort (c : Chip) (p v : Nat) : Chip :=
  let fell := c.slkUp p && v != 2
  let c := (c.setReg (Obj.slkPortState p) v).slkRefresh
  if fell then c.occur 10 0 .slk noRegion p 0 else c

/-- The cage holds a powered optical module that may leave low-power mode. -/
def Cage.usable (x : Cage) : Bool := x.present && x.powered && !x.lowPower && !x.overcurrent

/-- An optical module is inserted; above 18 W it stays in low-power mode and its port down. -/
def Chip.cageInserted (c : Chip) (p : Nat) (advertised : F32) : Chip :=
  let low := f32Lt f32At18 advertised.toNat
  let c := c.setCage p ⟨true, true, low, false⟩
  let c := if c.reg (Obj.slkPortState p) = 4 then c.setReg (Obj.slkPortState p) 0 else c
  if low then c.occur 0 3 .board noRegion p 0 else c

/-- CAGE_INSERT. -/
def execCageInsert (cage : Fin 2) (advertised : F32) (s : State) : Host.Outcome State Fault Refusal :=
  s.on fun c => c.cageInserted cage advertised

/-- An optical module is removed: only its port is affected. -/
def Chip.cageRemoved (c : Chip) (p : Nat) : Chip :=
  let c := c.setCage p Cage.reset
  if c.reg (Obj.slkPortState p) = 3 then c else c.setSlkPort p 0

/-- CAGE_REMOVE. -/
def execCageRemove (cage : Fin 2) (s : State) : Host.Outcome State Fault Refusal := s.on fun c => c.cageRemoved cage

/-- A cage has drawn more than 19.5 W for 10 ms: its power goes until the module is removed and inserted again. -/
def Chip.cageOver (c : Chip) (p : Nat) : Chip :=
  let x := c.board.cage p
  if !x.present || !x.powered then c
  else ((c.setCage p { x with powered := false, overcurrent := true }).occur 0 4 .board noRegion p 0).setSlkPort p 4

/-- CAGE_OVERCURRENT. -/
def execCageOvercurrent (cage : Fin 2) (s : State) : Host.Outcome State Fault Refusal := s.on fun c => c.cageOver cage

/-- A port comes up with optics ready, PCS aligned and clean FEC. Without a written start counter the links stay at
SLK_STATE 0 (R455). -/
def Chip.slkPortTrained (c : Chip) (p : Nat) : Chip :=
  let st := c.reg (Obj.slkPortState p)
  if c.start.counterOk && (c.board.cage p).usable && c.reg (Obj.slkPortEnable p) == 1 && (st == 0 || st == 1) then c.setSlkPort p 2 else c

/-- SLK_PORT_UP. -/
def execSlkPortUp (port : Fin 2) (s : State) : Host.Outcome State Fault Refusal := s.on fun c => c.slkPortTrained port

def Chip.slkPortLost (c : Chip) (p : Nat) : Chip :=
  let st := c.reg (Obj.slkPortState p)
  if st = 1 ∨ st = 2 then c.setSlkPort p 0 else c

/-- SLK_PORT_DOWN. -/
def execSlkPortDown (port : Fin 2) (s : State) : Host.Outcome State Fault Refusal := s.on fun c => c.slkPortLost port

def Chip.slkPortRetry (c : Chip) (p : Nat) : Chip :=
  if c.reg (Obj.slkPortState p) = 0 ∧ c.reg (Obj.slkPortEnable p) = 1 ∧ (c.board.cage p).usable then c.setSlkPort p 1 else c

/-- SLK_PORT_RETRY_TIMER. -/
def execSlkPortRetryTimer (port : Fin 2) (s : State) : Host.Outcome State Fault Refusal := s.on fun c => c.slkPortRetry port

/-- SLK_PORT_ENABLE: false takes the port down; true lets it train again, unless its cage has lost its power. -/
def slkEnableRule (p : Nat) (d : ObjDef) : WriteRule where
  cond := noCond
  eff := fun c _ key b =>
    let c := c.store d key b
    let st := c.reg (Obj.slkPortState p)
    if leNat b = 0 then c.setSlkPort p 3
    else if st = 3 then c.setSlkPort p (if (c.board.cage p).overcurrent then 4 else if (c.board.cage p).usable then 1 else 0)
    else c

/-- SLK_PORT_ENABLE_WRITE. -/
def execSlkPortEnableWrite (rq : Fin 17) (port : Fin 2) (v : Byte) (s : State) : Host.Outcome State Fault Refusal :=
  s.on fun c => c.writeAs rq (Obj.slkPortEnable port) ObjType.bool.code [v] (slkEnableRule port)

/-! ### Sessions (R371, R374, R375) -/

/-- Partner modules: that of each partner site, and those that bulk streams name. -/
def Chip.slkPartners (c : Chip) : List Nat :=
  (c.partnerSites.map c.slkPeer ++ (c.slk.contexts.filter fun e => decide (384 ≤ e.1) && e.2.state != 0).map fun e => e.2.partner).eraseDups

/-- A hello goes to each partner that has not shown that it has the session (DESIGN CHOICE, assumption log 49). -/
def Chip.slkHellos (c : Chip) : Chip :=
  c.each (c.slkPartners.filter fun p => match c.session p with | some s => !(s.up && s.confirmed) | none => true) Chip.slkHelloTo

/-- SLK_HELLO_TIMER. -/
def execSlkHelloTimer (s : State) : Host.Outcome State Fault Refusal := s.on Chip.slkHellos

/-- SLK_HELLO. -/
def execSlkHello (port : Fin 2) (f : SlkFrame) (s : State) : Host.Outcome State Fault Refusal :=
  s.on fun c => c.slkHelloFrame port f

/-- A probe goes to each partner with a session. -/
def Chip.slkProbes (c : Chip) : Chip :=
  c.each (c.slk.sessions.filter fun e => e.2.up) fun c e =>
    let c := match c.session e.1 with
      | some s => c.setSession e.1 { s with probeSent := c.time.mono }
      | none => c
    c.slkControl e.1 4 (probeBody false c.time.mono)

/-- SLK_PROBE_TIMER. -/
def execSlkProbeTimer (s : State) : Host.Outcome State Fault Refusal := s.on Chip.slkProbes

/-- No probe has been answered in time. -/
def Chip.slkSilent (c : Chip) (p : Nat) : Chip :=
  match c.session p with
  | none => c
  | some s =>
    let c := c.setSession p { s with answered := false }
    if p = c.slkPeer (partnerSite p) ∧ c.partnerState (partnerSite p) ≠ 0 then c.partnerDown (partnerSite p) else c

/-- SLK_PROBE_TIMEOUT. -/
def execSlkProbeTimeout (site : Fin 64) (module : BitVec 16) (s : State) : Host.Outcome State Fault Refusal :=
  s.on fun c => c.slkSilent (slkPartner site module.toNat)

/-- Sessions with the site named, or with all. -/
def Chip.sessionsOf (c : Chip) (v : Nat) : List Nat :=
  (c.slk.sessions.filter fun e => v == 0xFF || partnerSite e.1 == v).map fun e => e.1

/-- SLK_REKEY: the transmit directions named move to their next epoch. -/
def slkRekeyRule : WriteRule where
  cond := noCond
  eff := fun c o key b =>
    let ps := (c.sessionsOf (leNat b)).filter fun p => match c.session p with | some s => s.up | none => false
    (c.each ps Chip.nextEpoch).complete o key 0 0

/-- SLK_REKEY. -/
def execSlkRekey (rq : Fin 17) (v : Byte) (s : State) : Host.Outcome State Fault Refusal :=
  s.on fun c => c.write rq Obj.slkRekey [v] slkRekeyRule

/-- SLK_REKEY_INTERVAL has passed in an epoch. -/
def Chip.slkInterval (c : Chip) (p : Nat) : Chip :=
  match c.session p with
  | some s => if s.up then c.nextEpoch p else c
  | none => c

/-- SLK_REKEY_INTERVAL_EXPIRY. -/
def execSlkRekeyIntervalExpiry (site : Fin 64) (module : BitVec 16) (s : State) : Host.Outcome State Fault Refusal :=
  s.on fun c => c.slkInterval (slkPartner site module.toNat)

/-- SLK_GRACE has passed: the previous receive epoch is no longer live. -/
def Chip.slkGraceOver (c : Chip) (p : Nat) : Chip :=
  match c.session p with
  | none => c
  | some s => (c.setSession p { s with previous := false }).setSlot (s.base + keyRxPrev) ⟨0, []⟩

/-- SLK_GRACE_EXPIRY. -/
def execSlkGraceExpiry (site : Fin 64) (module : BitVec 16) (s : State) : Host.Outcome State Fault Refusal :=
  s.on fun c => c.slkGraceOver (slkPartner site module.toNat)

/-- SLK_RESTART: the sessions named end, and hellos begin them again. -/
def slkRestartRule : WriteRule where
  cond := noCond
  eff := fun c o key b => (c.each (c.sessionsOf (leNat b)) Chip.slkEndSession).complete o key 0 0

/-- SLK_RESTART. -/
def execSlkRestart (rq : Fin 17) (v : Byte) (s : State) : Host.Outcome State Fault Refusal :=
  s.on fun c => c.write rq Obj.slkRestart [v] slkRestartRule

/-! ### Packets -/

/-- SLK_DATA_PACKET. -/
def execSlkDataPacket (port : Fin 2) (f : SlkFrame) (s : State) : Host.Outcome State Fault Refusal :=
  s.on fun c => c.slkDataFrame port f

/-- SLK_PARITY_PACKET. -/
def execSlkParityPacket (port : Fin 2) (f : SlkFrame) (s : State) : Host.Outcome State Fault Refusal :=
  s.on fun c => c.slkParityFrame port f

/-- SLK_ACK_PACKET. -/
def execSlkAckPacket (port : Fin 2) (f : SlkFrame) (s : State) : Host.Outcome State Fault Refusal :=
  s.on fun c => c.slkAckFrame port f

/-- SLK_PROBE_PACKET. -/
def execSlkProbePacket (port : Fin 2) (f : SlkFrame) (s : State) : Host.Outcome State Fault Refusal :=
  s.on fun c => c.slkProbeFrame port f

/-! ### Timers (R378 to R381) -/

/-- SLK_FEC_GROUP_TIME has passed since the group's first packet. -/
def Chip.fecTimer (c : Chip) (port p : Nat) : Chip :=
  match c.slk.fecTx.find? fun g => g.port == port && g.partner == p with
  | some g => c.fecClose g
  | none => c

/-- SLK_FEC_GROUP_TIMER. -/
def execSlkFecGroupTimer (port : Fin 2) (site : Fin 64) (module : BitVec 16) (s : State) : Host.Outcome State Fault Refusal :=
  s.on fun c => c.fecTimer port (slkPartner site module.toNat)

/-- SLK_FEC_HOLD_EXPIRY. -/
def execSlkFecHoldExpiry (port : Fin 2) (site : Fin 64) (module : BitVec 16) (group : BitVec 32) (s : State) :
    Host.Outcome State Fault Refusal :=
  s.on fun c => c.fecExpire port (slkPartner site module.toNat) group

/-- 100 µs have passed since the first fragment not yet acknowledged. -/
def Chip.slkAckTimer (c : Chip) (n : Nat) : Chip := if (c.context n).unackedRx = 0 then c else c.slkAcknowledge n

/-- SLK_ACK_TIMER. -/
def execSlkAckTimer (context : Fin 16384) (s : State) : Host.Outcome State Fault Refusal := s.on fun c => c.slkAckTimer context

/-- A fragment sent and not shown held within RTO is sealed afresh and sent again. -/
def Chip.slkResend (c : Chip) (n : Nat) (round fragment : BitVec 32) : Chip :=
  match (c.context n).tx.find? fun m => m.round == round with
  | none => c
  | some m =>
    let f := fragment.toNat
    if m.next ≤ f ∨ f < m.base ∨ m.held.contains f then c
    else
      match c.slkFragment n m f true with
      | (true, c) => c.count Obj.slkResends 1 64
      | (false, c) => c

/-- SLK_RESEND_TIMER. -/
def execSlkResendTimer (context : Fin 16384) (round fragment : BitVec 32) (s : State) : Host.Outcome State Fault Refusal :=
  s.on fun c => c.slkResend context round fragment

/-! ### SLK_FLOW_TABLE (R369) -/

/-- Partner, stream and direction of an entry in use. -/
def flowName (b : Bytes) : Nat × Nat × Nat × Nat := (u8At b 2, u16At b 8, u16At b 4, u8At b 0)

/-- An entry keeps to Table 14-4. -/
def Chip.flowEntryOk (c : Chip) (b : Bytes) : Bool :=
  let rate := u32At b 12
  allZero (slice b 16 16) &&
  (u8At b 0 == 0 ||
    (decide (u8At b 0 ≤ 2) && u8At b 1 == 3 && bit (c.reg Obj.rndSites) (u8At b 2) && decide (u8At b 2 < 64) &&
      decide (u8At b 3 ≤ 16) && decide (0x4000 ≤ u16At b 4) && decide (448 ≤ u16At b 6) && decide (u16At b 6 < 496) &&
      decide (1 ≤ u16At b 10) && decide (u16At b 10 ≤ 1000) && (decide (rate < 0x7F800000) || rate == 0x80000000)))

/-- A context as its entry. -/
def FlowContext.entry (x : FlowContext) : Bytes :=
  match x.next with
  | some b => b
  | none =>
    leBytes 1 x.state.toNat ++ leBytes 1 x.cls.toNat ++ leBytes 1 x.site ++ leBytes 1 x.parity ++ leBytes 2 x.stream.toNat ++
    leBytes 2 x.dmaChannel.toNat ++ leBytes 2 x.partnerModule.toNat ++ leBytes 2 x.weight.toNat ++ leBytes 4 x.rateLimit.toNat ++
    zeros 16

/-- Entries of the contexts from 384 on that are in use, as they will stand with `l` written over the first of them. -/
def Chip.flowNames (c : Chip) (l : List Bytes) : List (Nat × Nat × Nat × Nat) :=
  ((l.filter fun b => u8At b 0 != 0).map flowName) ++
  ((c.slk.contexts.filter fun e => decide (384 + l.length ≤ e.1) && u8At e.2.entry 0 != 0).map fun e => flowName e.2.entry)

/-- The entries written stand for the contexts from 384 on; those beyond them stay. A write that breaks the table is
refused whole. -/
def flowTableRule : WriteRule where
  cond := fun c _ _ b _ =>
    let l := chunks 32 b
    if b.length % 32 ≠ 0 ∨ 512000 < b.length then stLength
    else if l.all c.flowEntryOk && (c.flowNames l).eraseDups.length == (c.flowNames l).length then stOk else stOutOfRange
  eff := fun c _ _ b =>
    let l := chunks 32 b
    c.each ((List.range l.length).zip l) fun c e =>
      let n := 384 + e.1
      (c.setContext n { c.context n with next := some e.2 }).slkSettle n

/-- SLK_FLOW_TABLE_WRITE. -/
def execSlkFlowTableWrite (rq : Fin 17) (entries : Bytes) (s : State) : Host.Outcome State Fault Refusal :=
  s.on fun c => c.write rq Obj.slkFlowTable entries flowTableRule

end Sys2Proof.Machine
end

