-- ==== Sys2Proof/Machine/Gathers.lean ====
section
/-! DEFINITION. Machine/Gathers.lean: shard gathers (R295 to R298, R302, R305), the fetch of parked shards (R253), and the
commands of site mapping. -/

namespace Sys2Proof.Machine

/-! ### Uses of a layer's buffers -/

/-- Casting slot whose map has an entry for a layer, with the entry. -/
def Chip.layerMap (c : Chip) (layer : BitVec 16) : Option (Nat × MapLayer) :=
  (c.array.castings.map fun e => e.1).findSome? fun slot =>
    (c.mapOf slot).bind fun m => (m.layers.find? fun l => l.layer == layer).map fun l => (slot, l)

/-- Schedule entries of a casting with their region and their ordinal within it. -/
def entryOrdinals (k : Casting) : List (SchedEntry × Nat × Nat) :=
  (k.regions.map fun r =>
    let es := k.sched.filter fun e => e.region.toNat == r.region
    (es.zip (List.range es.length)).map fun x => (x.1, r.region, x.2)).flatten

/-- Entries of these kinds of a layer that have not ended in this step. -/
def Chip.layerLeft (c : Chip) (slot : Nat) (layer : BitVec 16) (kinds : List Nat) : Bool :=
  match c.array.casting slot with
  | none => false
  | some k => (entryOrdinals k).any fun x =>
    x.1.layer == layer && kinds.contains x.1.kind.toNat && decide (Sparse.get 0 c.step.ended (regionIndex slot x.2.1) ≤ x.2.2)

def forwardKinds : List Nat := [0]
def backwardKinds : List Nat := [1, 2]

/-- The last entry that reads a use's buffer has ended (R295). -/
def Chip.useOver (c : Chip) (u : GatherUse) : Bool :=
  let keep := ((c.layerMap u.layer).map fun x => x.2.keep).getD false
  if u.pass = 0 && !keep then !c.layerLeft u.slot u.layer forwardKinds
  else !c.layerLeft u.slot u.layer (forwardKinds ++ backwardKinds)

/-- Uses whose last reader has ended: their buffers are free and their holds are released (R295, R297). -/
def Chip.freeBuffers (c : Chip) : Chip :=
  let ended := c.map.uses.filter fun u => !u.free && c.useOver u
  c.each ended fun c u =>
    let mine := fun (g : Gather) => g.layer == u.layer && g.pass == u.pass
    let c := c.each (c.map.gathers.filter mine) Chip.releaseHold
    { c with map := { c.map with
      uses := c.map.uses.map fun x => if x = u then { x with free := true } else x
      gathers := c.map.gathers.map fun g => if mine g then { g with held := false } else g } }

/-- Layers of a casting with a map entry, in the order of their first use (R295). -/
def Chip.layerOrder (c : Chip) (slot : Nat) : List (BitVec 16) :=
  ((((c.array.casting slot).map fun k => k.sched).getD []).map fun e => e.layer).eraseDups.filter fun l => (c.layerMap l).isSome

/-- Every layer before this one in that order has been issued. -/
def Chip.earlierIssued (c : Chip) (slot : Nat) (layer : BitVec 16) : Bool :=
  ((c.layerOrder slot).takeWhile fun l => l != layer).all fun l => c.map.uses.any fun u => u.layer == l

/-- Which gather of a layer comes next in this step: forward, backward, or none. -/
def Chip.nextPass (c : Chip) (layer : BitVec 16) (keep : Bool) : Option Nat :=
  let n := (c.map.uses.filter fun u => u.layer == layer).length
  if n = 0 then some 0 else if n = 1 && !keep then some 1 else none

/-! ### Data into a buffer -/

/-- Landed gathers of a use, in ascending SHARD_ID, before or after a shard. -/
def Chip.landedBytes (c : Chip) (layer : BitVec 16) (pass : Nat) (p : Nat → Bool) : Nat :=
  (c.map.gathers.filter fun g => g.layer == layer && g.pass == pass && g.landed.isSome && p g.shard.toNat).foldl (fun n g => n + g.size) 0

/-- A shard's bytes take their place in a buffer: the shards stand there one behind the other in ascending SHARD_ID
(DESIGN CHOICE, assumption log 42). -/
def Chip.fillBuffer (c : Chip) (layer : BitVec 16) (pass buffer shard : Nat) (data : Bytes) : Chip :=
  match c.layerMap layer with
  | none => c
  | some (_, l) =>
    let base := l.bufAddr + buffer * l.bufBytes
    let lo := c.landedBytes layer pass fun s => decide (s < shard)
    let hi := c.landedBytes layer pass fun s => decide (shard < s)
    let tail := Memory.readBytes c.mem.cells (base + lo) hi
    c.writeMem (base + lo) ((data ++ tail).take (l.bufBytes - lo))

def Chip.setGather (c : Chip) (g : Gather) : Chip :=
  let eq := fun (x : Gather) => x.shard == g.shard && x.layer == g.layer && x.pass == g.pass
  let l := if c.map.gathers.any eq then c.map.gathers.map fun x => if eq x then g else x else c.map.gathers ++ [g]
  { c with map := { c.map with gathers := l } }

/-- A gather lands: its bytes are in the buffer, its time in the ledger. -/
def Chip.landGather (c : Chip) (g : Gather) (v : Version) (data : Bytes) (ownSlot : Option Nat) : Chip :=
  let c := c.fillBuffer g.layer g.pass g.buffer g.shard.toNat data
  c.setGather { g with
    served := some v, landed := some c.time.mono, held := true, ownSlot := ownSlot, size := data.length }

/-- Address of the buffer that a gather fills. -/
def Chip.gatherAddr (c : Chip) (g : Gather) : Nat :=
  ((c.layerMap g.layer).map fun (x : Nat × MapLayer) => x.2.bufAddr + g.buffer * x.2.bufBytes).getD 0

/-- A gather ends in a DMA error completion of this status: it is counted, with an entry unless its cause has written one
(R416), and the assay word takes ABORT_DMA (R249, R296). -/
def Chip.failGather (c : Chip) (g : Gather) (status : Nat) (told : Bool) : Chip :=
  let a := c.gatherAddr g
  let c := (c.setGather { g with failed := true }).count Obj.dmaErrors 1 64
  let c := if told then c.setSticky 11 4 else c.occurCode 11 2 .dma status noRegion a 0
  c.abort abDma a

/-! ### Issue (R295, R302) -/

/-- An own shard is gathered from its slot with a hold, as any other (R295). -/
def Chip.gatherOwn (c : Chip) (u : GatherUse) (s : UpdShard) : Chip :=
  let first := (c.map.gathers.find? fun g => g.shard == s.shardId && g.layer == u.layer && g.pass == 0).bind fun g => g.served
  let named := if u.pass = 1 then first else none
  let g : Gather := ⟨s.shardId, u.layer, u.pass, u.buffer, named, none, 0, u.issued, none, false, false, none, 0⟩
  match c.upd.tensors[s.tensor]?, c.shardHeader s with
  | some t, (.inl h, c) =>
    match h.slotFor named with
    | none => (c.versionGone s).failGather g 0x16 true
    | some n =>
      let (o, len) := t.gatherPart s.rowCount
      match c.readMem [] ((if s.isParked then s.stageAddr else s.slotAddr n) + o) len with
      | (.inr a, c) => (c.setGather { g with failed := true }).abort abStateLost a
      | (.inl b, c) =>
        (c.setHolds s.shardId.toNat n (c.holdsOn s.shardId.toNat n + 1)).landGather g (Ver.version (h.version n)) b (some n)
  | _, (.inr a, c) => (c.setGather { g with failed := true }).abort abStateLost a
  | none, (_, c) => c

/-- A layer's gather is issued. Shards of other modules are asked for: by name where a gather of this step has named
them, as the layer's others otherwise (DESIGN CHOICE, assumption log 42). -/
def Chip.issueGather (c : Chip) (layer : BitVec 16) : Chip :=
  match c.layerMap layer with
  | none => c
  | some (slot, l) =>
    let busy := (c.map.uses.filter fun u => u.layer == layer && !u.free).length
    match c.nextPass layer l.keep with
    | none => c
    | some pass =>
      if !c.step.inStep || c.step.abandoned || c.step.committing || decide (l.buffers ≤ busy) || !c.earlierIssued slot layer then c
      else
        let n := (c.map.uses.filter fun u => u.layer == layer).length
        let u : GatherUse := ⟨slot, layer, pass, n % Nat.max 1 l.buffers, c.time.mono, false⟩
        let c := { c with map := { c.map with uses := c.map.uses ++ [u] } }
        let ts := c.upd.tensorsOf layer.toNat
        let own := c.upd.shards.filter fun s => ts.contains s.tensor
        let c := c.each own fun c s => c.gatherOwn u s
        let others := c.map.gathers.filter fun g => g.layer == layer && g.pass == 0 && (c.ownShard g.shard).isNone
        if pass = 1 then
          c.each others fun c g =>
            (c.setGather ⟨g.shard, layer, 1, u.buffer, g.served, none, 0, u.issued, none, false, false, none, 0⟩).emit
              (.gatherRequest none g.shard g.served)
        else c.emit (.layerGather layer)

/-- GATHER_ISSUE. -/
def execGatherIssue (layer : BitVec 16) (s : State) : Host.Outcome State Fault Refusal := s.on fun c => c.issueGather layer

/-! ### Results (R296) -/

/-- The gather that a returned shard belongs to: one of this step that still lacks it, else a new one of the use issued
last. -/
def Chip.gatherOf (c : Chip) (shard : BitVec 32) : Option Gather :=
  match c.map.gathers.find? fun g => g.shard == shard && g.landed.isNone && !g.failed with
  | some g => some g
  | none =>
    if c.map.gathers.any fun g => g.shard == shard then none
    else (c.map.uses.getLast?).map fun u => ⟨shard, u.layer, u.pass, u.buffer, none, none, 0, u.issued, none, false, false, none, 0⟩

/-- A parked shard's active slot has arrived in its staging area (R253). -/
def Chip.parkedFetched (c : Chip) (s : UpdShard) (v : Version) (data : Bytes) : Chip :=
  if data.isEmpty then c.abort abStateLost s.stageAddr
  else
    let c := c.writeMem s.stageAddr data
    let h := ShardHeader.ofBytes (Sparse.get [] c.upd.parked s.shardId.toNat)
    let w := Version.ver v
    let h := if h.current = w then h
      else if h.version h.target = w then { h with active := h.target }
      else if h.active = 0 then { h with v0 := w, shard := s.shardId.toNat } else { h with v1 := w, shard := s.shardId.toNat }
    { c with upd := { c.upd with
      fetched := c.upd.fetched ++ [s.shardId], parked := Sparse.put [] c.upd.parked s.shardId.toNat h.bytes } }

/-- The fetch of a parked shard is under way. -/
def Chip.fetchOpen (c : Chip) (shard : BitVec 32) : Option UpdShard :=
  (c.ownShard shard).bind fun s =>
    if s.isParked && c.step.inStep && !c.step.contributed && !c.upd.fetched.contains shard then some s else none

/-- A gather answers: used where it is the version looked for, its hold released and the gather repeated where it is an
older one; without data its channel ends in an error. -/
def Chip.gatherBack (c : Chip) (shard : BitVec 32) (v : Version) (data : Bytes) : Chip :=
  match c.fetchOpen shard with
  | some s => c.parkedFetched s v data
  | none =>
    if !c.step.inStep || c.step.abandoned then c
    else
      match c.gatherOf shard with
      | none => c
      | some g =>
        let want : Ver := match g.named with
          | some w => Version.ver w
          | none => (c.reg Obj.shardVersionRound, c.reg Obj.shardVersionStep)
        if data.isEmpty then c.failGather g 0x16 false
        else if Version.ver v = want then (c.count Obj.gatherBytes data.length 64).landGather g v data none
        else
          let c := (c.emit (.holdRelease none shard v)).count Obj.gatherRetries 1 64
          c.setGather { g with retries := g.retries + 1 }

/-- GATHER_RESULT. -/
def execGatherResult (shard : BitVec 32) (version : Version) (data : Bytes) (s : State) : Host.Outcome State Fault Refusal :=
  s.on fun c => c.gatherBack shard version data

/-- A gather that is still to land. -/
def Chip.gatherWaiting (c : Chip) (shard : BitVec 32) : Option Gather :=
  if c.step.inStep && !c.step.abandoned then c.map.gathers.find? fun g => g.shard == shard && g.landed.isNone && !g.failed else none

/-- GATHER_RETRY_TIMER. -/
def execGatherRetryTimer (shard : BitVec 32) (s : State) : Host.Outcome State Fault Refusal :=
  s.on fun c =>
    match c.gatherWaiting shard with
    | some g => if g.retries = 0 then c else c.emit (.gatherRequest none shard g.named)
    | none => c

/-- GATHER_WAIT_EXPIRY. -/
def execGatherWaitExpiry (shard : BitVec 32) (s : State) : Host.Outcome State Fault Refusal :=
  s.on fun c =>
    match c.gatherWaiting shard with
    | some g => (c.occur 7 2 .map noRegion (c.gatherAddr g) 0).failGather g 0x17 true
    | none => c

/-! ### Offload (R303) -/

/-- An offload return is late: its channel ends in a DMA error completion with status 0x17, and the step is abandoned. -/
def Chip.offloadLate (c : Chip) (ch : Nat) : Chip :=
  if c.dmaStateOf ch = dmaWaiting ∨ c.dmaStateOf ch = dmaRunning then
    let x := c.dmaChan ch
    let a := within (x.desc x.cur).dst
    (c.occur 7 4 .map noRegion a ch).dmaError ch 0x17 a 0 x.reached
  else c

/-- OFFLOAD_TIMEOUT_EXPIRY. -/
def execOffloadTimeoutExpiry (channel : Fin 512) (s : State) : Host.Outcome State Fault Refusal :=
  s.on fun c => c.offloadLate channel

/-- MAP_DIGEST_REPLY. -/
def execMapDigestReply (peer : BitVec 16) (reply : MapReply) (s : State) : Host.Outcome State Fault Refusal :=
  s.on fun c => c.mapAnswer peer reply

end Sys2Proof.Machine
end

