-- ==== Sys2Proof/Machine/StepCmds.lean ====
section
/-! DEFINITION. Machine/StepCmds.lean: the training step (R159, R160, R209 to R233): its opening, its slots and entries, the
assay word, the decision with scales, forms and the merge vote, and the control of stepping. -/

namespace Sys2Proof.Machine

/-! ### Opening a step -/

/-- Every region of a casting runs (R160). -/
def Chip.castingRuns (c : Chip) (slot : Nat) (k : Casting) : Bool :=
  !k.regions.isEmpty && k.regions.all fun r => c.regionState (regionIndex slot r.region) == 2

/-- Castings that take part in the step: those with a slot open. -/
def Chip.stepCastings (c : Chip) : List (Nat × Casting) := c.array.castings.filter fun e => Sparse.get 0 c.step.opened e.1 != 0

/-- A step may open (R160, R233, R291, R458). -/
def Chip.mayOpen (c : Chip) : Bool :=
  c.step.on && !c.step.inStep && (c.array.castings.any fun e => c.castingRuns e.1 e.2) &&
  (c.reg Obj.siteMapState == 2 || (c.reg Obj.siteMapState == 0 && c.reg Obj.bzSiteModules == 1)) &&
  c.reg Obj.rndState != 4 && c.reg Obj.ckptState == 0

/-- Round whose version the step will commit (R332): that of a decided merge, else the latest merged. -/
def Chip.openingRound (c : Chip) : Nat := (c.rnd.decided.map fun m => m.round).getD (c.reg Obj.rndRoundMerged)

/-- Layers with a scaled tensor on this module, in order. -/
def Chip.layersHeld (c : Chip) : List Nat := (c.step.held.map fun i => i / 2).eraseDups

/-- Largest MAX_OCC of a layer's weight-class records in the window (R229). -/
def Chip.windowOcc (c : Chip) (layer : Nat) : Nat :=
  c.step.patina.foldl (fun m r => Nat.max m (Sparse.get DecisionRecord.zero r (2 * layer)).maxOcc.toNat) 0

/-- select_form of R229. -/
def Chip.selectForm (c : Chip) (layer : Nat) : Nat :=
  if c.reg Obj.formPin ≠ 0xFF then c.reg Obj.formPin
  else if c.reg Obj.patinaCommitted < c.reg Obj.warmSteps then 0
  else
    let o := c.windowOcc layer
    if o ≤ 6 then 3 else if o ≤ 12 then 2 else if o ≤ 24 then 1 else 0

/-- k and form of every index that a replayed record gives (SCALES, Table 10-4). -/
def recordScales (r : Bytes) : List (Nat × Nat × Nat) := (chunks 4 (sectionOf r 3)).map fun e => (u16At e 0, u8At e 2, u8At e 3)

/-- Warm state, forms and scales of the step that opens: derived, or taken from the record that is replayed (R286). -/
def Chip.openScales (c : Chip) : Chip :=
  match c.replayRecord with
  | some r =>
    let l := recordScales r
    let ks := l.foldl (fun m (x : Nat × Nat × Nat) => Sparse.put 0#8 m x.1 (BitVec.ofNat 8 x.2.1)) c.step.scaleK
    let fs := (l.filter fun x => x.1 % 2 == 0 && x.2.2 != 0xFF).foldl (fun m x => Sparse.put 0 m (x.1 / 2) x.2.2) ([] : Sparse Nat)
    { c with step := { c.step with warm := u8At (sectionOf r 1) 0x29 == 1, scaleK := ks, forms := fs } }
  | none =>
    let fs := c.layersHeld.foldl (fun m l => Sparse.put 0 m l (c.selectForm l)) ([] : Sparse Nat)
    { c with step := { c.step with warm := decide (c.reg Obj.patinaCommitted < c.reg Obj.warmSteps), forms := fs } }

/-- A tile as a step finds it: queues empty, times 0, and SCALE_K of every descriptor of an indexed tensor at its k
(R215). Queues left full by an abandoned step hold nothing of the next (DESIGN CHOICE, assumption log 41). -/
def Tile.atOpen (t : Tile) (scaleK : Sparse (BitVec 8)) (mono : Nat) : Tile :=
  { t with
    descs := t.descs.map fun d =>
      match d.scaleIndex with
      | some i => { d with scaleK := Sparse.get 0#8 scaleK i }
      | none => d
    queues := t.queues.map fun q => { q with slots := List.replicate q.depth .free, nextWait := 0, nextRelease := 0, nextMove := 0 }
    memQueue := [], matrix := [], stallIn := 0, stallOut := 0, busy := 0, since := mono
    status := if t.status = .faulted then .faulted else .idle }

/-- The tiles of a region begin an entry. -/
def Chip.beginEntry (c : Chip) (h : Nat) (r : Region) (e : SchedEntry) : Chip :=
  let c := { c with step := { c.step with begun := Sparse.put 0 c.step.begun h (Sparse.get 0 c.step.begun h + 1) } }
  c.each r.tiles fun c l =>
    let p := c.array.physical l
    let t := (c.tile p).account c.time.mono
    if t.status = .faulted then c else c.setTile p { t with status := .running, pc := e.entry.toNat }

/-- Entries that may begin: the slot is open and the region's previous entry has ended (R159). -/
def Chip.beginEntries (c : Chip) : Chip :=
  c.each c.stepCastings fun c x =>
    let n := Sparse.get 0 c.step.opened x.1
    c.each x.2.regions fun c r =>
      let h := regionIndex x.1 r.region
      let b := Sparse.get 0 c.step.begun h
      if b ≠ Sparse.get 0 c.step.ended h then c
      else
        match (x.2.sched.filter fun e => e.region.toNat == r.region)[b]? with
        | some e => if e.slot.toNat < n then c.beginEntry h r e else c
        | none => c

/-- Slot 0 of a step opens. -/
def Chip.stepOpen (c : Chip) : Chip :=
  if !c.mayOpen then c
  else
    let n := (c.reg Obj.stepNumber + 1) % 2 ^ 32
    let round := c.openingRound
    let key := stepKey (c.reg Obj.srRunSeed) round n
    let c := c.openScales
    let opened := c.array.castings.foldl (fun m (e : Nat × Casting) => if c.castingRuns e.1 e.2 then Sparse.put 0 m e.1 1 else m) ([] : Sparse Nat)
    let scaleK := c.step.scaleK
    let mono := c.time.mono
    let tiles := c.array.tiles.map fun (e : Nat × Tile) => (e.1, if e.2.region.isSome then e.2.atOpen scaleK mono else e.2)
    let trees := c.bz.trees.filter fun (t : TreeNode) => decide (n ≤ t.step.toNat)
    let record := c.rnd.decided.map fun (m : Merge) => c.accordRecord m n
    let c := { c with
      step := { c.step with
        inStep := true, contributed := false, abandoned := false, committing := false, abortAddr := 0, opened := opened
        withheld := 0, begun := [], ended := [], round := round, word := 0, key := BitVec.ofNat 64 key, openTime := c.now
        openMono := c.time.mono, slotsEndMono := 0, testedMono := 0, contributeMono := 0, decideMono := 0, commitMono := 0
        pacingMax := c.reg Obj.pacingDuty, means := StepSeq.reset.means, patinaAtOpen := c.reg Obj.patinaCommitted
        own := [], combined := none, records := none, deltaDrops := [], nextK := [] }
      array := { c.array with
        tiles := tiles, meshOut := [] }
      bz := { c.bz with
        instances := [], records := [], inbox := [], trees := trees }
      sil := { c.sil with prints := [] }
      upd := { c.upd with g := 0, fetched := [] }
      rnd := { c.rnd with control := record } }
    let c := ((c.setReg Obj.stepNumber n).setReg Obj.srStepKey key).setReg Obj.stepState 1
    let c := c.each (c.upd.shards.filter UpdShard.isParked) fun c s => c.emit (.parkedFetch s.peer s.shardId)
    ((c.dmaRestartRoutes).beginEntries).refreshMark

/-- STEP_OPEN. -/
def execStepOpen (s : State) : Host.Outcome State Fault Refusal := s.on Chip.stepOpen

/-! ### Slots and entries -/

/-- A casting's next slot may open: every region has begun all its entries of the slots below (R159). -/
def Chip.slotMayOpen (c : Chip) (slot : Nat) (k : Casting) : Bool :=
  let n := Sparse.get 0 c.step.opened slot
  decide (n < k.stepSlots) && k.regions.all fun r =>
    let below := (k.sched.filter fun e => e.region.toNat == r.region && decide (e.slot.toNat < n)).length
    decide (below ≤ Sparse.get 0 c.step.begun (regionIndex slot r.region))

/-- The next slot opens, unless pacing withholds it: of each hundred openings PACING_DUTY are withheld, evenly (R50). -/
def Chip.slotOpen (c : Chip) : Chip :=
  if !c.step.inStep || c.step.abandoned || c.step.committing then c
  else
    let l := c.stepCastings.filter fun e => c.slotMayOpen e.1 e.2
    if l.isEmpty then c
    else
      let owed := c.gov.owed + c.reg Obj.pacingDuty
      if 100 ≤ owed then { c with gov := { c.gov with owed := owed - 100 }, step := { c.step with withheld := c.step.withheld + 1 } }
      else
        let opened := l.foldl (fun m (e : Nat × Casting) => Sparse.put 0 m e.1 (Sparse.get 0 m e.1 + 1)) c.step.opened
        let c := { c with gov := { c.gov with owed := owed }, step := { c.step with withheld := 0, opened := opened } }
        c.beginEntries

/-- SLOT_OPEN. -/
def execSlotOpen (s : State) : Host.Outcome State Fault Refusal := s.on Chip.slotOpen

/-- A tile has ended an entry: halted, its results written, every message it handed over delivered. -/
def Tile.entryOver (t : Tile) : Bool :=
  t.status == .halted && t.memQueue.isEmpty && t.matrix.isEmpty &&
  t.queues.all fun q => q.inbound || q.slots.all fun s => s != .full

/-- The entry that a region runs. -/
def Chip.entryOf (c : Chip) (h : Nat) : Option SchedEntry :=
  (c.array.casting (h / 64)).bind fun k =>
    let b := Sparse.get 0 c.step.begun h
    if b = 0 ∨ b = Sparse.get 0 c.step.ended h then none else (k.sched.filter fun e => e.region.toNat == h % 64)[b - 1]?

/-- Every entry of every slot has ended. -/
def Chip.slotsOver (c : Chip) : Bool :=
  c.stepCastings.all fun x => x.2.regions.all fun r =>
    Sparse.get 0 c.step.ended (regionIndex x.1 r.region) == (x.2.sched.filter fun e => e.region.toNat == r.region).length

/-- An entry of region h ends; a hand-off entry gives its layer's accumulators to the site reduction (R159, R213). -/
def Chip.entryEnd (c : Chip) (h : Nat) : Chip :=
  match c.entryOf h, c.array.regionOf h with
  | some e, some r =>
    if !c.step.inStep || c.step.abandoned || !(r.tiles.all fun l => (c.tile (c.array.physical l)).entryOver) then c
    else
      let c := c.each r.tiles fun c l =>
        let p := c.array.physical l
        c.setTile p { (c.tile p).account c.time.mono with status := .idle }
      let c := { c with step := { c.step with ended := Sparse.put 0 c.step.ended h (Sparse.get 0 c.step.ended h + 1) } }
      let c := if e.kind = 3 then c.handOff (h / 64) e.layer.toNat else c
      let c := (c.freeBuffers).beginEntries
      if c.slotsOver then { c with step := { c.step with slotsEndMono := c.time.mono } } else c
  | _, _ => c

/-- ENTRY_END. -/
def execEntryEnd (h : Fin 256) (s : State) : Host.Outcome State Fault Refusal := s.on fun c => c.entryEnd h

/-! ### The vote of R341 and R342 -/

/-- An accepted and unmerged contribution of a site for a round is held. -/
def Chip.holdsContribution (c : Chip) (site round : Nat) : Bool :=
  if c.rnd.ready && some round == c.rnd.pending then c.rnd.frozen.contains (site, round)
  else c.rnd.contributions.any fun x => x.site == site && x.round == round

/-- A merge is pending and not decided. -/
def Chip.votePending (c : Chip) : Option Nat := if c.rnd.decided.isNone then c.rnd.pending else none

/-- Readiness for the vote, judged as the assay word is contributed; receipts for the pending round are then frozen
(R341). -/
def Chip.judgeReady (c : Chip) : Chip :=
  match c.votePending with
  | none => c
  | some n =>
    if c.rnd.ready then c
    else
      let all := c.partnerSites.all fun j => c.holdsContribution j n || c.rnd.rejected.contains (j, n)
      if c.rnd.windowPassed || all || decide (c.rnd.closeMono + 1000000 * c.reg Obj.rndWindow ≤ c.time.mono) then
        let fz := (c.rnd.contributions.filter fun x => x.round == n).map fun x => (x.site, x.round)
        { c with rnd := { c.rnd with ready := true, frozen := fz } }
      else c

/-- A word over 64 sites, its lower or upper half. -/
def siteBits (p : Nat → Bool) (hi : Bool) : Nat :=
  (List.range 32).foldl (fun m j => if p (if hi then j + 32 else j) then m + 2 ^ j else m) 0

/-- The flags word. -/
def Chip.voteFlags (c : Chip) : Nat :=
  (if c.votePending.isSome && !c.rnd.ready then 1 else 0) + (if c.rnd.ownNonfinite then 2 else 0) + if c.rnd.ingotNeeded then 4 else 0

/-- The words this module contributes, each with its instance (Table 13-3). -/
def Chip.voteWords (c : Chip) : List (Nat × Nat) :=
  if c.reg Obj.rndEnable = 0 then []
  else
    (0x800, c.voteFlags) :: match c.votePending with
      | none => []
      | some n =>
        ((List.range (c.reg Obj.staleBound + 1)).map fun s =>
          let absent := fun j => j == c.reg Obj.rndSiteIndex || decide (n < s) || !c.holdsContribution j (n - s)
          let rejected := fun j => decide (s ≤ n) && c.rnd.rejected.contains (j, n - s)
          [(0x801 + 4 * s, siteBits absent false), (0x802 + 4 * s, siteBits absent true),
           (0x803 + 4 * s, siteBits rejected false), (0x804 + 4 * s, siteBits rejected true)]).flatten

/-! ### The assay word (R220, R253) -/

/-- Parked shards whose fetch has not come in. -/
def Chip.fetchMissing (c : Chip) : Option UpdShard :=
  c.upd.shards.find? fun s => s.isParked && !c.upd.fetched.contains s.shardId

/-- This module's decision records with their K (R224). -/
def Chip.ownRecords (c : Chip) : Sparse DecisionRecord :=
  c.step.held.foldl (fun m i =>
    Sparse.put DecisionRecord.zero m i
      { Sparse.get DecisionRecord.zero c.step.own i with k := Sparse.get 0#8 c.step.scaleK i }) []

/-- Every owned reduced shard is complete: no gradient collective of the step is open. -/
def Chip.reduced (c : Chip) : Bool :=
  !(c.bz.collectives.any fun x => collKind x.number.toNat == 7 && x.step.toNat == c.reg Obj.stepNumber && !x.done)

/-- The assay word is final: it, the vote words and the decision records are contributed. A parked fetch still open ends in
an error first. -/
def Chip.wordFinal (c : Chip) : Chip :=
  if !c.step.inStep || c.step.contributed || !c.slotsOver || !c.reduced then c
  else
    match c.fetchMissing with
    | some s =>
      let c := (c.count Obj.dmaErrors 1 64).occurCode 11 2 .dma 0x17 noRegion s.stageAddr 0
      c.abort abDma s.stageAddr
    | none =>
      let c := c.judgeReady.contribute
      let n := c.reg Obj.stepNumber
      let c := c.each c.voteWords fun c w => c.treeContributeAt (treeNumber 5 + w.1) n (beBytes 4 w.2)
      c.treeContribute 6 n (recordsBytes c.ownRecords)

/-- ASSAY_WORD_FINAL. -/
def execAssayWordFinal (s : State) : Host.Outcome State Fault Refusal := s.on Chip.wordFinal

/-! ### Scales, norm and patina (R225 to R229) -/

/-- Next k and grow of an index, and whether a clamp changed k. -/
def Chip.adjust (c : Chip) (committed : Bool) (i : Nat) (r : DecisionRecord) : Int × Nat × Bool :=
  let g := Sparse.get 0 c.step.grow i
  let k := signed 8 r.k.toNat
  let big := f32OfNat 32768
  let (k, g) :=
    if r.flags.toNat % 4 ≠ 0 then (k + (c.reg Obj.scaleOvfStep : Int), 0)
    else if committed then
      if f32Le big r.accMax.toNat || f32Le big r.redMax.toNat then (k + 1, 0)
      else if fAbs r.accMax.toNat != 0 && f32Lt r.accMax.toNat (f32OfNat 4096) then
        (if c.reg Obj.scaleGrowInterval ≤ g + 1 then (k - 1, 0) else (k, g + 1))
      else (k, 0)
    else (k, g)
  let x := max (-128) (min 127 k)
  (x, g, decide (x ≠ k))

/-- SCALE_ADJUST: every index held here and every index of the records. -/
def Chip.scaleAdjust (c : Chip) (committed : Bool) (m : Sparse DecisionRecord) : Chip :=
  c.each (m.filter fun e => e.2.k != 0x80) fun c e =>
    let (k, g, clamped) := c.adjust committed e.1 e.2
    let c := { c with step := { c.step with
      nextK := Sparse.insert c.step.nextK e.1 (BitVec.ofNat 8 (unsigned 8 k)), grow := Sparse.put 0 c.step.grow e.1 g } }
    if clamped then c.occur 4 4 .step noRegion e.1 0 else c

/-- (SUMSQ_HI + SUMSQ_LO) × 2^(2K) in binary64. -/
def normTerm (r : DecisionRecord) : Nat :=
  let s := pairValue (Fmt.f32.decode r.sumsqHi.toNat) (Fmt.f32.decode r.sumsqLo.toNat)
  (Fmt.f64.deliverNum .rne (s.scale (2 * signed 8 r.k.toNat))).1

/-- G of R225: the square root in binary64 of the sum over the weight class in ascending order, as binary32. -/
def globalNorm (m : Sparse DecisionRecord) : Nat :=
  narrow32 (Fmt.f64.sqrt false .rne ((m.filter fun e => e.1 % 2 == 0 && e.2.k != 0x80).foldl (fun s e => dAdd s (normTerm e.2)) 0)).1

/-- The records of a committed step enter the patina (R227). -/
def Chip.patinaAdd (c : Chip) (m : Sparse DecisionRecord) : Chip :=
  ({ c with step := { c.step with patina := (m :: c.step.patina).take (c.reg Obj.patinaWindow), latest := m } }).count Obj.patinaCommitted 1 32

/-! ### The decision (R221 to R223, R343) -/

/-- A merge's entries from the combined vote words, sorted by site and then by round (R343, R346, R347). -/
def Chip.mergeEntries (c : Chip) (n : Nat) (words : List (Nat × BitVec 32)) : List (Nat × Nat × Nat) :=
  let w := fun (i : Nat) => ((words.find? fun x => x.1 == i).map fun x => x.2.toNat).getD 0
  let at_ := fun (base j : Nat) => if j < 32 then bit (w base) j else bit (w (base + 1)) (j - 32)
  let absent := fun (s j : Nat) => at_ (0x801 + 4 * s) j
  let rejected := fun (s j : Nat) => at_ (0x803 + 4 * s) j
  let own := bit (w 0x800) 1
  let bound := c.reg Obj.staleBound
  let stale := fun (s j : Nat) =>
    let m := n - s
    if n ≤ s ∨ historyNames c.rnd.history [1, 2, 4] j m then []
    else if !absent s j then [(j, m, 1)]
    else if s = bound && !rejected s j then [(j, m, 4)] else []
  ((List.range 64).map fun j =>
    if !bit (c.reg Obj.rndSites) j then []
    else if j = c.reg Obj.rndSiteIndex then [(j, n, if own then 2 else 1)]
    else
      let late := ((List.range bound).map fun i => stale (bound - i) j).flatten
      late ++ [(j, n, if !absent 0 j then 1 else if rejected 0 j then 2 else if bound = 0 then 4 else 3)]).flatten

/-- MERGE_DECIDED: the first step whose combined words are held with NOT_READY clear decides (R343). -/
def Chip.decideMerge (c : Chip) (votes : List (Nat × BitVec 32)) : Chip :=
  match c.votePending with
  | none => c
  | some n =>
    match votes.find? fun x => x.1 == 0x800 with
    | none => c.count Obj.rndVotesRepeated 1 32
    | some f =>
      if bit f.2.toNat 0 then c
      else
        let es := c.mergeEntries n votes
        let m : Merge := ⟨n, bit f.2.toNat 1, es, BitVec.ofNat 32 (c.reg Obj.stepNumber), c.step.key, c.now, c.time.mono,
          es.any fun e => e.2.2 == 1 && c.rnd.resent.contains (e.1, e.2.1)⟩
        let c := { c with rnd := { c.rnd with decided := some m } }
        ({ c with rnd := { c.rnd with control := some (c.accordRecord m (c.reg Obj.stepNumber + 1)) } }).refreshRounds

/-- INGOT_NEEDED in the combined flags word: the site stops at the boundary for a fetch, or waits for an operator (R352). -/
def Chip.heedIngot (c : Chip) (votes : List (Nat × BitVec 32)) : Chip :=
  if votes.any fun x => x.1 == 0x800 && bit x.2.toNat 2 then
    if c.reg Obj.rndIngotAuto = 1 then c.askIngot c.rnd.ingot.origin
    else c.setReg Obj.rndState 5
  else c

/-- The step in progress commits: its combined word is 0, or its record says so (R221, R286). -/
def Chip.commits (c : Chip) (word : BitVec 32) : Bool :=
  match c.replayRecord with
  | some r => u8At (sectionOf r 1) 0x28 == 1
  | none => word == 0

/-- Consequences of a skip (R221 to R223). -/
def Chip.noteSkip (c : Chip) (word : BitVec 32) : Chip :=
  let c := (c.count Obj.stepsSkipped 1 64).occur 4 0 .step noRegion word.toNat 0
  let n := Nat.min 65535 (c.reg Obj.skipsConsecutive + 1)
  let c := c.setReg Obj.skipsConsecutive n
  let c := if n = c.reg Obj.skipLimit then ((c.occur 4 2 .step noRegion n 0).haltStepping 5).event 4 0 5 0 else c
  if bit word.toNat abStateLost then c.stateLostHalt c.step.abortAddr.toNat else c

/-- What both the combined word and the records decide, once both are held; a step that exchanges no records ends on the
word alone. -/
def Chip.settleDecision (c : Chip) : Chip :=
  match c.step.combined with
  | none => c
  | some w =>
    let yes := c.commits w
    match c.step.records with
    | none => if !yes && (c.step.abandoned || w.toNat &&& abortMask != 0) then c.endStep 2 w.toNat else c
    | some m =>
      let c := c.scaleAdjust yes m
      if yes then
        let g := match c.replayRecord with
          | some r => u32At (sectionOf r 1) 0x34
          | none => globalNorm m
        let c := (c.patinaAdd m).setReg Obj.globalNormLast g
        { c with upd := { c.upd with g := BitVec.ofNat 32 g } }
      else c.endStep 2 w.toNat

/-- The combined assay word and the combined vote words are held. -/
def Chip.combinedHeld (c : Chip) (word : BitVec 32) (votes : List (Nat × BitVec 32)) : Chip :=
  if !c.step.inStep || c.step.combined.isSome then c
  else
    let c := { c with step := { c.step with combined := some word } }
    let c := (c.setReg Obj.assayLast word.toNat).setReg Obj.assayLocalLast c.step.word.toNat
    let c := if c.reg Obj.rndEnable = 1 then (c.decideMerge votes).heedIngot votes else c
    let c := if c.commits word then
        ({ c with step := { c.step with committing := true, commitMono := c.time.mono } }).setReg Obj.stepState 4
      else c.noteSkip word
    c.settleDecision

/-- COMBINED_ASSAY_RECEIVED. -/
def execCombinedAssayReceived (word : BitVec 32) (votes : List (Nat × BitVec 32)) (s : State) : Host.Outcome State Fault Refusal :=
  s.on fun c => c.combinedHeld word votes

/-- The combined decision records of the step are held. -/
def Chip.recordsHeld (c : Chip) (records : List (Nat × DecisionRecord)) : Chip :=
  if !c.step.inStep || c.step.records.isSome || c.step.abandoned then c
  else
    let m := records.foldl (fun m x => Sparse.put DecisionRecord.zero m x.1 x.2) []
    ({ c with step := { c.step with records := some m, decideMono := c.time.mono } }).settleDecision

/-- DECISION_RECORDS_HELD. -/
def execDecisionRecordsHeld (records : List (Nat × DecisionRecord)) (s : State) : Host.Outcome State Fault Refusal :=
  s.on fun c => c.recordsHeld records

/-! ### Control (R227, R233) -/

/-- Stepping is to stop: at once where no step is open, else at its boundary. -/
def Chip.askStepStop (c : Chip) (o : Origin) : Chip :=
  let c := { c with step := { c.step with on := false, resume := false, stopOrigins := c.step.stopOrigins ++ [o] } }
  let c := { c with rnd := { c.rnd with ingot := { c.rnd.ingot with byStop := false } } }
  let c := if c.sil.replay.running then { c with sil := { c.sil with replay := { c.sil.replay with paused := true } } } else c
  if c.step.inStep then c else c.settleStop.refreshMark

/-- Stepping is to run: from the next step number, its halts cleared. During an export it resumes behind it. -/
def Chip.askStepRun (c : Chip) (o : Origin) : Chip :=
  let st := c.reg Obj.stepState
  let c := if st = 5 ∨ st = 6 then c.setReg Obj.stepState 0 else c
  let c := if st = 5 then c.setReg Obj.skipsConsecutive 0 else c
  let c := if c.sil.replay.running then { c with sil := { c.sil with replay := { c.sil.replay with paused := false } } } else c
  let c := if c.reg Obj.ckptState = 0 then { c with step := { c.step with on := true } } else { c with step := { c.step with resume := true } }
  (c.complete o Obj.stepControl 0 0).refreshMark

def stepControlRule : WriteRule where
  cond := noCond
  eff := fun c o _ b => if leNat b = 1 then c.askStepStop o else c.askStepRun o

/-- STEP_STOP. -/
def execStepStop (rq : Fin 17) (s : State) : Host.Outcome State Fault Refusal :=
  s.on fun c => c.write rq Obj.stepControl [1#8] stepControlRule

/-- STEP_RUN. -/
def execStepRun (rq : Fin 17) (s : State) : Host.Outcome State Fault Refusal :=
  s.on fun c => c.write rq Obj.stepControl [2#8] stepControlRule

/-- The patina is emptied at the next step boundary: at once where no step is open. -/
def patinaEmptyRule : WriteRule where
  cond := noCond
  eff := fun c o _ b =>
    if leNat b = 0 then c.complete o Obj.patinaEmpty 0 0
    else
      let c := { c with step := { c.step with emptyPatina := true, emptyOrigins := c.step.emptyOrigins ++ [o] } }
      if c.step.inStep then c else c.settlePatina

/-- PATINA_EMPTY. -/
def execPatinaEmpty (rq : Fin 17) (v : Byte) (s : State) : Host.Outcome State Fault Refusal :=
  s.on fun c => c.write rq Obj.patinaEmpty [v] patinaEmptyRule

end Sys2Proof.Machine
end

