-- ==== Sys2Proof/Machine/Rounds.lean ====
section
/-! DEFINITION. Machine/Rounds.lean: the commands of the anneal rounds: the round table (R333), greetings (R330), contributions
(R339, R340), the exchange of histories and its judgement (R349, R351), and the writes that R362 and
R497 rule. -/

namespace Sys2Proof.Machine

/-! ### The round table (R333) -/

def roundShardAt (b : Bytes) (o : Nat) : RoundShard where
  shardId := BitVec.ofNat 32 (u32At b o)
  block0 := u64At b (o + 8)
  block1 := u64At b (o + 0x10)
  delta := u64At b (o + 0x18)
  out := u64At b (o + 0x20)
  rx := u64At b (o + 0x28)
  deltaTensor := BitVec.ofNat 64 (u64At b (o + 0x30))

def tblRounds (b : Bytes) : List (Nat × RoundShard) :=
  (List.range (u32At b 0x10)).map fun i => let o := u64At b 0x18 + 64 * i; (o, roundShardAt b o)

/-- 0x01 of Table 13-4. -/
def Chip.badRoundHeader (c : Chip) (b : Bytes) : Option Nat :=
  (firstOf [
    (decide (b.length < 64), 0), (u32At b 0 != 0x4E525443, 0), (u16At b 4 != 1, 4), (u16At b 6 != 0, 6),
    (u32At b 0x10 != c.upd.shards.length, 0x10), (u16At b 0x14 == 0 || decide (64 < u16At b 0x14), 0x14),
    (decide (17 < u16At b 0x16), 0x16), (decide (b.length < u64At b 0x18 + 64 * u32At b 0x10), 0x18),
    (!allZero (slice b 0x20 32), 0x20)]).orElse fun _ =>
  (tblRounds b).findSome? fun x => firstOf [(u32At b (x.1 + 4) != 0, x.1 + 4), (u64At b (x.1 + 0x38) != 0, x.1 + 0x38)]

/-- Areas of a shard entry: address, length, offset of the field that names it. -/
def Chip.roundAreas (c : Chip) (b : Bytes) (x : Nat × RoundShard) : List (Nat × Nat × Nat) :=
  let (o, r) := x
  match (c.ownShard r.shardId).bind fun s => (c.upd.tensors[s.tensor]?).map fun t => (s, t) with
  | none => []
  | some (s, t) =>
    let n := s.rowCount * t.width
    let k := deltaSlotBytes (c.reg Obj.deltaFormat) s.rowCount t.width
    [(r.block0, roundBlockBytes t.isPair n, o + 8), (r.block1, roundBlockBytes t.isPair n, o + 0x10),
      (r.delta, deltaAreaBytes n, o + 0x18), (r.out, u16At b 0x16 * k, o + 0x20), (r.rx, u16At b 0x14 * k, o + 0x28)]

/-- Areas of the update table's shards. -/
def Chip.updAreas (c : Chip) : List (Nat × Nat × Nat) :=
  (c.upd.shards.map fun s =>
    match c.upd.tensors[s.tensor]? with
    | none => []
    | some t => (shardParts t 0 s).filter fun p => p.1 != 0 || !s.isParked).flatten

/-- 0x03. -/
def Chip.badRoundShards (c : Chip) (b : Bytes) (slot : Nat) : Option Nat :=
  let l := tblRounds b
  (l.findSome? fun x =>
    firstOf [((c.ownShard x.2.shardId).isNone || (l.any fun y => y.2.shardId == x.2.shardId && decide (y.1 < x.1)), x.1)]).orElse fun _ =>
  let parts := (l.map (c.roundAreas b)).flatten
  (parts.findSome? fun p => if c.inFootprint slot p.1 p.2.1 then none else some p.2.2).orElse fun _ => clashIn c.updAreas parts

/-- 0x04. -/
def Chip.badRoundConfig (c : Chip) (b : Bytes) : Option Nat :=
  firstOf [(decide (u16At b 0x16 < c.reg Obj.staleBound + 1), 0x16),
    ([3, 0xC, 0xD].contains (c.reg Obj.deltaFormat) || decide (0xD < c.reg Obj.deltaFormat), 0),
    (!bit (c.reg Obj.rndSites) (c.reg Obj.rndSiteIndex), 0)]

/-- The checks of Table 13-4 that a round table meets, in order: reason code and offset. -/
def Chip.badRoundTable (c : Chip) (b : Bytes) : Option (Nat × Nat) :=
  ((c.badRoundHeader b).map fun o => (1, o)).orElse fun _ =>
  match c.slotOfId (u64At b 8) with
  | none => some (2, 8)
  | some slot =>
    if u64At b 8 ≠ c.upd.castingId.toNat then some (2, 8)
    else ((c.badRoundShards b slot).map fun o => (3, o)).orElse fun _ => (c.badRoundConfig b).map fun o => (4, o)

def Chip.useRoundTable (c : Chip) (b : Bytes) : Chip :=
  { c with rnd := { c.rnd with
    castingId := BitVec.ofNat 64 (u64At b 8), rxSlots := u16At b 0x14, outSlots := u16At b 0x16
    shards := (tblRounds b).map Prod.snd } }.setReg Obj.rndLastReason 0

def roundTableRule (d : ObjDef) : WriteRule where
  cond := noCond
  eff := fun c o key b =>
    match c.badRoundTable b with
    | some x => ((c.setReg Obj.rndLastReason x.1).occurCode 9 0 .rnd x.1 noRegion x.2 0).complete o key x.1 x.2
    | none => ((c.store d key b).useRoundTable b).complete o key 0 0

/-- ROUND_TABLE_WRITE. -/
def execRoundTableWrite (rq : Fin 17) (table : Bytes) (s : State) : Host.Outcome State Fault Refusal :=
  s.on fun c => c.writeAs rq Obj.roundTable ObjType.domain.code table roundTableRule

/-! ### Writes of the round settings (R362, R497) -/

/-- The value an object has once all the writes of a request are in force. -/
def Chip.afterWrites (c : Chip) (key : Nat) (others : List (Nat × Bytes)) : Nat :=
  match others.find? fun x => x.1 == key with
  | some x => leNat x.2
  | none => c.reg key

/-- RND_ENABLE needs an accepted round table. -/
def rndEnableRule (d : ObjDef) : WriteRule where
  cond := fun c _ _ b _ => if leNat b = 1 ∧ c.rnd.shards.isEmpty then stState else stOk
  eff := fun c _ key b => (c.store d key b).refreshRounds

def staleBoundRule (d : ObjDef) : WriteRule where
  cond := fun c _ _ b others =>
    let n := leNat b + 1
    if c.afterWrites Obj.rndHistory others < n ∨ (!c.rnd.shards.isEmpty ∧ c.rnd.outSlots < n) then stState else stOk
  eff := fun c _ key b => c.store d key b

def rndHistoryRule (d : ObjDef) : WriteRule where
  cond := fun c _ _ b others => if leNat b < c.afterWrites Obj.staleBound others + 1 then stOutOfRange else stOk
  eff := fun c _ key b =>
    let c := c.store d key b
    { c with rnd := { c.rnd with history := c.rnd.history.drop (c.rnd.history.length - leNat b) } }

/-! ### Divergence (R351, R356) -/

/-- Round limits of R339 at a site whose latest merged round is `merged`. -/
def roundAcceptable (merged bound m : Nat) : Bool := decide (1 ≤ m) && decide (merged < m + bound) && decide (m ≤ merged + bound + 1)

/-- Rounds of `y`'s own contributions that its history `hy` names merged, that `hx` does not name merged, and that a site
with history `hx` and latest merged round `merged` accepts no longer. -/
def divergedRounds (hx hy : List Bytes) (y merged bound : Nat) : List Nat :=
  ((hy.map accordEntries).flatten.filter fun e =>
    e.1 == y && e.2.1 == 1 && !historyNames hx [1] y e.2.2 &&
    (!roundAcceptable merged bound e.2.2 || historyNames hx [2, 4] y e.2.2)).map fun e => e.2.2

/-- Entries with status 1 in the records from round `r` on. -/
def mergedEntries (h : List Bytes) (r : Nat) : Nat :=
  (h.filter fun x => decide (r ≤ accordRound x)).foldl (fun n x => n + ((accordEntries x).filter fun e => e.2.1 == 1).length) 0

/-- Latest merged round that a history shows; 0 for none. -/
def historyRound (h : List Bytes) : Nat := (h.getLast?.map accordRound).getD 0

/-- Whether this site, of index `x`, takes the ingot when it has found its rounds `dx` and the partner's `dy` diverged. -/
def takesIngot (hx hy : List Bytes) (x y : Nat) (dx dy : List Nat) : Bool :=
  if dx.isEmpty then false
  else if dy.isEmpty then true
  else
    let r := (dx ++ dy).foldl Nat.min (dx.headD 0)
    let nx := mergedEntries hx r
    let ny := mergedEntries hy r
    decide (nx < ny) || (nx == ny && decide (y < x))

/-- The site has to take an ingot from partner `j`. -/
def Chip.behind (c : Chip) (j : Nat) : Chip :=
  let c := { c with rnd := { c.rnd with ingotNeeded := true, donor := some j } }
  (c.setPartnerState j partnerDiverged).occur 9 5 .rnd noRegion j 0

/-- DIVERGENCE_CHECK on the history of a partner. -/
def Chip.checkDivergence (c : Chip) (j : Nat) (h : List Bytes) : Chip :=
  let me := c.reg Obj.rndSiteIndex
  let bound := c.reg Obj.staleBound
  let dx := divergedRounds c.rnd.history h j (c.reg Obj.rndRoundMerged) bound
  let dy := divergedRounds h c.rnd.history me (Nat.max (historyRound h) (Sparse.get 0 c.rnd.partnerRound j)) bound
  if takesIngot c.rnd.history h me j dx dy then c.behind j else c

/-- A site with no history whose partner has merged rounds that it cannot accept is behind from the first greeting (R356). -/
def Chip.checkNewSite (c : Chip) (j latest : Nat) : Chip :=
  if c.rnd.history.isEmpty && c.reg Obj.shardVersionRound == 0 && c.reg Obj.shardVersionStep == 0 &&
      decide (c.reg Obj.staleBound + 1 < latest) && !c.rnd.ingotNeeded then c.behind j
  else c

/-! ### Greetings (R330) -/

/-- The greeting agrees with this module's own, and its site index is that of the session. -/
def Chip.greetingOk (c : Chip) (j : Nat) (g : Greeting) : Bool :=
  let o := c.greeting
  g.groupId == o.groupId && g.moduleNumber == o.moduleNumber && g.castingId == o.castingId && g.mapDigest == o.mapDigest &&
  g.updateDigest == o.updateDigest && bit (c.reg Obj.rndSites) g.siteIndex.toNat && g.siteIndex != o.siteIndex &&
  g.siteIndex.toNat == j

def Chip.takeGreeting (c : Chip) (j : Nat) (g : Greeting) : Chip :=
  if c.greetingOk j g then
    let c := { c with
      slk := { c.slk with greeted := c.slk.greeted.filter (fun i => i != j) ++ [j], histories := c.slk.histories.filter (· != j) }
      rnd := { c.rnd with
        partnerRound := Sparse.put 0 c.rnd.partnerRound j g.latestMerged.toNat
        partnerPrev := Sparse.put [] c.rnd.partnerPrev j g.prevDigest } }
    let c := (c.partnerRefresh j).emit (.accordHistory j c.rnd.history)
    c.checkNewSite j g.latestMerged.toNat
  else ((c.ungreet j).setPartnerState j partnerRefused).occur 9 4 .rnd noRegion j g.siteIndex.toNat

/-- RND_GREETING. -/
def execRndGreeting (site : Fin 64) (g : Greeting) (s : State) : Host.Outcome State Fault Refusal :=
  s.on fun c => c.takeGreeting site g

/-! ### Contributions (R339, R340) -/

/-- Rate at which `n` images stand in `len` bytes; the own rate first. -/
def contributionRate (fmt own n len : Nat) : Option Nat :=
  (own :: [0, 1, 2, 3]).find? fun r => n * compressedBytes fmt r == len

/-- An image as it decodes, unless it fails R339. -/
def contributionImageOk (fmt rate : Nat) (im : Bytes) : Bool :=
  match (if rate = 0 then some im else decodeImage fmt rate im), TFmt.ofCode fmt with
  | some d, some f =>
    !(f.mx && (d.drop (128 * f.elem.width)).any fun x => x == 0xFF#8) &&
    (List.range 1024).all fun e =>
      (if f.mx then mxDecode f.elem (u8At d (128 * f.elem.width + e / 32)) (imageElem f.elem.width d e)
        else f.elem.decode (imageElem f.elem.width d e)).isFinite
  | _, _ => false

/-- A shard's part of a contribution: where its images go in slot `k`, their rate, the images; none where it fails. -/
structure ShardImages where
  base : Nat
  rate : Nat
  images : List Bytes

def Chip.shardImages (c : Chip) (rs : RoundShard) (k : Nat) (b : Bytes) : Option ShardImages :=
  let z := c.roundSettings
  match (c.ownShard rs.shardId).bind fun s => (c.upd.tensors[s.tensor]?).map fun t => (s, t) with
  | none => none
  | some (s, t) =>
    let n := imageCount s.rowCount t.width
    match contributionRate z.fmt z.rate n b.length with
    | none => none
    | some r =>
      let l := chunks (compressedBytes z.fmt r) b
      if l.all (contributionImageOk z.fmt r) then some ⟨rs.rx + k * deltaSlotBytes z.fmt s.rowCount t.width, r, l⟩ else none

/-- The limits of R339. -/
def Chip.contributionInLimits (c : Chip) (j m : Nat) : Bool :=
  let st := c.partnerState j
  (st == partnerReachable || st == partnerDiverged) && !historyNames c.rnd.history [1, 2, 4] j m &&
  roundAcceptable (c.reg Obj.rndRoundMerged) (c.reg Obj.staleBound) m

def Chip.freeRxSlot (c : Chip) : Option Nat :=
  (List.range c.rnd.rxSlots).find? fun k => !(c.rnd.contributions.any fun x => x.slot == k)

/-- A contribution of which every image has arrived. -/
def Chip.contributionComplete (c : Chip) (j m : Nat) (l : List (BitVec 32 × Bytes)) : Chip :=
  let part := fun (rs : RoundShard) => (l.find? fun x => x.1 == rs.shardId).map fun x => x.2
  if c.rnd.shards.isEmpty || (c.rnd.shards.any fun rs => (part rs).isNone) ||
      (c.rnd.contributions.any fun x => x.site == j && x.round == m) || c.rnd.rejected.contains (j, m) then c
  else if !c.contributionInLimits j m then (c.count Obj.rndContribDiscarded 1 32).slkWithdrawRx j m
  else
    match c.freeRxSlot with
    | none => (((c.count Obj.rndContribDiscarded 1 32).slkWithdrawRx j m)).occur 9 3 .rnd noRegion j m
    | some k =>
      let ims := c.rnd.shards.map fun rs => c.shardImages rs k ((part rs).getD [])
      if ims.all Option.isSome then
        let c := c.each (ims.filterMap id) fun c x => c.putImages (c.reg Obj.deltaFormat) x.base x.rate x.images
        { c with rnd := { c.rnd with contributions := c.rnd.contributions ++ [⟨j, m, k⟩] } }
      else
        let c := { c with rnd := { c.rnd with rejected := c.rnd.rejected ++ [(j, m)] } }
        ((c.count Obj.rndContribRejected 1 32).slkWithdrawRx j m).occur 9 2 .rnd noRegion j m

/-- CONTRIBUTION_COMPLETE. -/
def execContributionComplete (site : Fin 64) (round : BitVec 32) (shards : List (BitVec 32 × Bytes)) (s : State) :
    Host.Outcome State Fault Refusal :=
  s.on fun c => c.contributionComplete site round.toNat shards

/-- RND_WINDOW has passed since the closing commit (R341). -/
def Chip.windowExpiry (c : Chip) : Chip :=
  if c.votePending.isSome then { c with rnd := { c.rnd with windowPassed := true } } else c

/-- RND_WINDOW_EXPIRY. -/
def execRndWindowExpiry (s : State) : Host.Outcome State Fault Refusal := s.on Chip.windowExpiry

/-! ### Histories exchanged (R349) -/

/-- Own rounds that are sent again to a partner with this history. -/
def Chip.roundsToResend (c : Chip) (j : Nat) (h : List Bytes) : List Nat :=
  let m := Nat.max (historyRound h) (Sparse.get 0 c.rnd.partnerRound j)
  c.rnd.held.filter fun n =>
    !historyNames h [1, 2, 4] (c.reg Obj.rndSiteIndex) n && decide (m < n + c.reg Obj.staleBound)

/-- Rounds of a partner that it sends again: those it has merged and this module can still take (R349). -/
def Chip.roundsResentBy (c : Chip) (j : Nat) (h : List Bytes) : List (Nat × Nat) :=
  let m := c.reg Obj.rndRoundMerged
  let bound := c.reg Obj.staleBound
  ((List.range (2 * bound + 2)).map fun i => (j, m + i - bound)).filter fun x =>
    roundAcceptable m bound x.2 && decide (x.2 ≤ historyRound h) && !historyNames c.rnd.history [1, 2, 4] j x.2 &&
    !(c.rnd.contributions.any fun y => y.site == j && y.round == x.2)

def Chip.takeHistory (c : Chip) (j : Nat) (h : List Bytes) : Chip :=
  if !c.slk.greeted.contains j || c.partnerState j == partnerRefused then c
  else
    let again := c.roundsResentBy j h
    let c := { c with
      slk := { c.slk with histories := c.slk.histories.filter (fun i => i != j) ++ [j] }
      rnd := { c.rnd with resent := (c.rnd.resent ++ again).eraseDups } }
    let c := c.partnerRefresh j
    let c := c.each (c.roundsToResend j h) fun c n => c.sendContribution j n
    c.checkDivergence j h

/-- ACCORD_HISTORY_EXCHANGE. -/
def execAccordHistoryExchange (site : Fin 64) (history : List Bytes) (s : State) : Host.Outcome State Fault Refusal :=
  s.on fun c => c.takeHistory site history

end Sys2Proof.Machine
end

