-- ==== Sys2Proof/Machine/Ingots.lean ====
section
/-! DEFINITION. Machine/Ingots.lean: ingots (R352 to R356): the fetch by a joiner, the file a donor serves, its checks and its
import. -/

namespace Sys2Proof.Machine

/-! ### RND_CONTROL (R352, R362) -/

/-- Stage of this module's own fetch: 0 none, 1 fetching, 2 agreeing. -/
def Chip.fetchStage (c : Chip) : Nat := c.reg Obj.ingotState

/-- The fetch is over: nothing of it stays. -/
def Chip.endFetch (c : Chip) : Chip :=
  let g := c.rnd.ingot
  let c := { c with rnd := { c.rnd with ingot := { Rounds.reset.ingot with serving := g.serving } } }
  (((c.setReg Obj.ingotState 0).setReg Obj.rndState 0).refreshRounds).refreshMark

/-- The fetch is abandoned, and the write that started it has failed. -/
def Chip.abandonFetch (c : Chip) : Chip :=
  let o := c.rnd.ingot.origin
  let on := c.rnd.ingot.due || c.fetchStage != 0
  let c := c.endFetch
  let c := if c.rnd.ingotNeeded && c.reg Obj.rndEnable == 1 then c.setReg Obj.rndState 5 else c
  match o with
  | some o => if on then c.completeFailed o Obj.rndControl 0 else c
  | none => c

/-- RND_CONTROL: 1 starts a fetch, which needs a round table and a donor and may not run already; 2 abandons it. -/
def rndControlRule : WriteRule where
  cond := fun c _ _ b _ =>
    if leNat b = 1 ∧ (c.rnd.shards.isEmpty ∨ c.ingotDonorSite.isNone ∨ c.rnd.ingot.due ∨ c.fetchStage ≠ 0) then stState else stOk
  eff := fun c o _ b => if leNat b = 1 then c.askIngot (some o) else (c.abandonFetch).complete o Obj.rndControl 0 0

/-- INGOT_FETCH_START. -/
def execIngotFetchStart (rq : Fin 17) (s : State) : Host.Outcome State Fault Refusal :=
  s.on fun c => c.write rq Obj.rndControl [1#8] rndControlRule

/-- INGOT_FETCH_ABANDON. -/
def execIngotFetchAbandon (rq : Fin 17) (s : State) : Host.Outcome State Fault Refusal :=
  s.on fun c => c.write rq Obj.rndControl [2#8] rndControlRule

/-! ### The file (R353) -/

def ingotMagic : Nat := 0x54474E49

/-- Bytes of the base planes and the momentum plane as a round block holds them. -/
def ingotShardBytes (pair : Bool) (n : Nat) : Nat := roundPlane pair n 1 + 4 * n - 4096

def ingotDigest (b : Bytes) : Bytes := shake256 64 (b.take 0x80 ++ b.drop 0x100)

/-- KIND 1 sections from the round blocks tagged `round`; none where a block is not so tagged or cannot be read. -/
def Chip.ingotSections (c : Chip) (round : Nat) : List RoundShard → Option (List CkptSection) × Chip
  | [] => (some [], c)
  | rs :: r =>
    match (c.ownShard rs.shardId).bind fun s => (c.upd.tensors[s.tensor]?).map fun t => (s, t) with
    | none => (none, c)
    | some (s, t) =>
      let n := s.rowCount * t.width
      match c.readMany [(rs.block0, 32), (rs.block1, 32)] with
      | (.inr _, c) => (none, c)
      | (.inl hs, c) =>
        let tags := hs.map fun h => u32At h 0
        if !tags.contains round then (none, c)
        else
          let a := activeBlock (tags.getD 0 0) (tags.getD 1 0) round
          match c.readMem [] ((if a = 0 then rs.block0 else rs.block1) + 4096) (ingotShardBytes t.isPair n) with
          | (.inr _, c) => (none, c)
          | (.inl b, c) =>
            match Chip.ingotSections c round r with
            | (some l, c) => (some ((1, rs.shardId.toNat, 0, b) :: l), c)
            | (none, c) => (none, c)

/-- STEP and UPDATES_APPLIED of a round's merge: 0 before the first merge, free where the module has no account of it. -/
def Chip.mergePoint (c : Chip) (round : Nat) : Nat × Nat × Chip :=
  match c.rnd.merges.find? fun x => x.1 == round with
  | some x => (x.2.1, x.2.2, c)
  | none =>
    if round = 0 then (0, 0, c)
    else
      let (a, c) := c.freeNat 32
      let (b, c) := c.freeNat 64
      (a, b, c)

def Chip.ingotFile (c : Chip) (round step applied : Nat) (shards : List CkptSection) : Bytes :=
  let h := c.rnd.history.filter fun r => decide (accordRound r ≤ round)
  let l := shards ++ [(3, 0, 0, c.scaleSection), (5, 0, 0, h.flatten)]
  let body := sectionTable 0x100 l
  let g := c.greeting
  let hd := leBytes 4 ingotMagic ++ leBytes 2 1 ++ zeros 2 ++ leBytes 8 g.groupId.toNat ++ leBytes 8 g.castingId.toNat ++
    leBytes 1 (c.reg Obj.rndSiteIndex) ++ zeros 3 ++ leBytes 2 g.moduleNumber.toNat ++ zeros 2 ++ leBytes 4 round ++
    leBytes 4 step ++ leBytes 8 applied ++ leBytes 4 l.length ++ zeros 4 ++ leBytes 8 (256 + body.length) ++ g.mapDigest ++
    zeros 40
  let d := shake256 64 (hd ++ body)
  hd ++ d ++ zeros 64 ++ body

/-- A donor serves one ingot at a time, and none to a partner it does not hear (R354). -/
def Chip.serveIngot (c : Chip) (j : Nat) (round : Option Nat) : Chip :=
  let st := c.partnerState j
  if c.ingotSending || c.rnd.shards.isEmpty || !(st == partnerReachable || st == partnerDiverged) then c
  else
    let n := round.getD (c.reg Obj.shardVersionRound)
    match c.ingotSections n c.rnd.shards with
    | (none, c) => c
    | (some l, c) =>
      let (step, applied, c) := c.mergePoint n
      let f := c.ingotFile n step applied l
      ({ c with rnd := { c.rnd with ingot := { c.rnd.ingot with serving := some (j, n) } } }).contextSendNext (roundContext j 2 0) f

/-- INGOT_FETCH_REQUEST. -/
def execIngotFetchRequest (site : Fin 64) (round : Option (BitVec 32)) (s : State) : Host.Outcome State Fault Refusal :=
  s.on fun c => c.serveIngot site (round.map fun r => r.toNat)

/-! ### The checks of a joiner (R355, Table 13-4) -/

def ingotKinds : List Nat := [1, 3, 5]

/-- 0x01 on the first 256 bytes. -/
def badIngotHeader (b : Bytes) : Option Nat :=
  firstOf [
    (u32At b 0 != ingotMagic, 0), (u16At b 4 != 1, 4), (u16At b 6 != 0, 6), (!allZero (slice b 0x19 3), 0x19),
    (u16At b 0x1E != 0, 0x1E), (u32At b 0x30 == 0, 0x30), (u32At b 0x34 != 0, 0x34),
    (decide (u64At b 0x38 < 256 + 32 * u32At b 0x30), 0x38), (!allZero (slice b 0x58 40), 0x58), (!allZero (slice b 0xC0 64), 0xC0)]

/-- 0x03: shard sections of shards that are not owned or come twice. -/
def Chip.badIngotShards (c : Chip) (l : List SectionAt) : Option Nat :=
  l.findSome? fun x =>
    if x.kind == 1 && ((c.ownShard (BitVec.ofNat 32 x.shard)).isNone ||
        (l.any fun y => y.kind == 1 && y.shard == x.shard && decide (y.entry < x.entry))) then some (x.entry + 4) else none

/-- 0x06. -/
def Chip.badIngotPartner (c : Chip) (b : Bytes) : Option Nat :=
  let g := c.greeting
  firstOf [(u64At b 8 != g.groupId.toNat, 8), (u64At b 0x10 != g.castingId.toNat, 0x10), (u16At b 0x1C != g.moduleNumber.toNat, 0x1C),
    (slice b 0x40 24 != g.mapDigest, 0x40)]

/-- Records of a KIND 5 section, in order; `k` bounds them. -/
def historyOf : Nat → Bytes → List Bytes
  | 0, _ => []
  | k + 1, b =>
    let n := 64 + 16 * u16At b 0x12
    if b.length < n then [] else b.take n :: historyOf k (b.drop n)

def ingotHistory (b : Bytes) (l : List SectionAt) : List Bytes :=
  match pickSection b l 5 0 with
  | some x => historyOf 1024 x.2
  | none => []

/-- 0x07: a shard section is missing or has not the length of its planes, or the history's last round, or the round that
was asked for, is not ROUND. -/
def Chip.badIngotVersion (c : Chip) (b : Bytes) (l : List SectionAt) : Option Nat :=
  let r := u32At b 0x20
  let h := ingotHistory b l
  let missing := c.rnd.shards.any fun rs =>
    match (c.ownShard rs.shardId).bind fun s => (c.upd.tensors[s.tensor]?).map fun t => (s, t) with
    | none => true
    | some (s, t) => !(l.any fun x => x.kind == 1 && x.shard == rs.shardId.toNat && x.len == ingotShardBytes t.isPair (s.rowCount * t.width))
  firstOf [(missing, 0x100), (!h.isEmpty && historyRound h != r, 0x20), (c.rnd.ingot.asked.any fun a => a != r, 0x20)]

/-- What the bytes received so far fail, in the order of Table 13-4. -/
def Chip.badIngot (c : Chip) (b : Bytes) : Option (Nat × Nat) :=
  if b.length < 256 then none
  else
    let n := u32At b 0x30
    let total := u64At b 0x38
    let table := if b.length < 256 + 32 * n then none else badSections b 256 n total ingotKinds
    let l := if b.length < 256 + 32 * n then [] else sectionsAt b 256 n
    let whole := decide (total ≤ b.length)
    let late := fun (o : Option Nat) => if whole then o else none
    ((badIngotHeader b).map fun o => (1, o)).orElse fun _ =>
    (table.map fun o => (1, o)).orElse fun _ =>
    (if (c.slotOfId (u64At b 0x10)).isNone || u64At b 0x10 != c.upd.castingId.toNat then some (2, 0x10) else none).orElse fun _ =>
    ((c.badIngotShards l).map fun o => (3, o)).orElse fun _ =>
    ((late (if ingotDigest (b.take total) = slice b 0x80 64 then none else some 0x80)).map fun o => (5, o)).orElse fun _ =>
    ((late (c.badIngotPartner b)).map fun o => (6, o)).orElse fun _ =>
    (late (c.badIngotVersion b l)).map fun o => (7, o)

/-! ### Shards from an ingot -/

/-- A shard's slot and round block as an ingot section gives them: weights the base with lo = +0, moments and e +0. -/
def Chip.ingotShard (c : Chip) (t : UpdTensor) (s : UpdShard) (round step : Nat) (sec : Bytes) : Bytes × Bytes :=
  let n := s.rowCount * t.width
  let z := List.replicate n 0
  let b := RoundBlock.ofBytes t.isPair n (zeros 4096 ++ sec)
  let b := { b with e := z }
  let d := t.zeroMoments s.rowCount { ShardData.mk [] [] [] [] [] [] [] [] with wHi := b.bHi, wLo := if t.isPair then z else [] }
  let u := { c.updIn ⟨round, step, 0, 0, 0, 0, []⟩ t s with clip := one32 }
  let d := { d with copy := (t.copyOf u s.rowCount d).1 }
  (t.slotImage d z, b.bytes round s.shardId.toNat)

/-- Where the inactive round block of a shard lies, and the active one. -/
def Chip.roundBlocks (c : Chip) (rs : RoundShard) : (Nat × Nat) × Chip :=
  match c.readMany [(rs.block0, 32), (rs.block1, 32)] with
  | (.inr _, c) => ((rs.block1, rs.block0), c)
  | (.inl hs, c) =>
    if activeBlock (u32At (hs.getD 0 []) 0) (u32At (hs.getD 1 []) 0) (c.reg Obj.shardVersionRound) = 0 then ((rs.block1, rs.block0), c)
    else ((rs.block0, rs.block1), c)

/-- The shards whose sections lie wholly within `b` and did not within its first `before` bytes. -/
def Chip.arrivedShards (c : Chip) (b : Bytes) (before : Nat) : List (RoundShard × UpdShard × UpdTensor × Bytes) :=
  let l := if b.length < 256 + 32 * u32At b 0x30 then [] else sectionsAt b 256 (u32At b 0x30)
  c.rnd.shards.filterMap fun rs =>
    match (c.ownShard rs.shardId).bind fun s => (c.upd.tensors[s.tensor]?).map fun t => (s, t) with
    | none => none
    | some (s, t) =>
      (l.find? fun x => x.kind == 1 && x.shard == rs.shardId.toNat && x.len == ingotShardBytes t.isPair (s.rowCount * t.width) &&
          decide (x.offset + x.len ≤ b.length) && decide (before < x.offset + x.len)).map fun x =>
        (rs, s, t, slice b x.offset x.len)

/-- Sections go into the inactive slot and the inactive round block of their shards as they arrive (R355). -/
def Chip.writeArrived (c : Chip) (b : Bytes) (before : Nat) : Chip :=
  c.each (c.arrivedShards b before) fun c x =>
    let (rs, s, t, sec) := x
    let (slot, block) := c.ingotShard t s (u32At b 0x20) (u32At b 0x24) sec
    match c.roundBlocks rs with
    | ((dest, _), c) =>
      let c := c.writeMem dest block
      match c.shardHeader s with
      | (.inl h, c) =>
        if s.isParked then c.emit (.peerWrite s.peer (s.slotAddr h.target) slot)
        else (c.clearHolds s h.target).writeMem (s.slotAddr h.target) slot
      | (.inr _, c) => c

/-- The fetch goes on again, naming a round or "latest". -/
def Chip.fetchAgain (c : Chip) (round : Option Nat) : Chip :=
  match c.ingotDonorSite with
  | none => c
  | some d => c.requestIngot d round

/-- A refused ingot (R355). -/
def Chip.ingotRefused (c : Chip) (code off : Nat) : Chip :=
  let c := { c with rnd := { c.rnd with ingot := { c.rnd.ingot with bytes := [], retry := true } } }
  (c.setReg Obj.rndLastReason code).occurCode 9 6 .rnd code noRegion off 0

/-- Bytes of the ingot arrive; none says that the donor has ended its stream (R354). -/
def Chip.ingotSection (c : Chip) (offset : Nat) (data : Bytes) : Chip :=
  let g := c.rnd.ingot
  if c.fetchStage ≠ 1 ∨ g.retry ∨ c.step.inStep then c
  else if data.isEmpty then c.fetchAgain none
  else if offset ≠ g.bytes.length then c
  else
    let b := g.bytes ++ data
    let c := { c with rnd := { c.rnd with ingot := { g with bytes := b } } }
    let c := c.setReg Obj.ingotReceived b.length
    let c := if b.length < 256 then c else c.setReg Obj.ingotBytes (u64At b 0x38)
    match c.badIngot b with
    | some x => c.ingotRefused x.1 x.2
    | none =>
      let c := c.writeArrived b g.bytes.length
      if b.length < 256 ∨ b.length < u64At b 0x38 then c
      else
        let c := { c with rnd := { c.rnd with ingot := { c.rnd.ingot with ready := some (u32At b 0x20) } } }
        (c.setReg Obj.ingotState 2).emit (.ingotRound (BitVec.ofNat 32 (u32At b 0x20)))

/-- INGOT_SECTION_RECEIVED. -/
def execIngotSectionReceived (offset : Nat) (data : Bytes) (s : State) : Host.Outcome State Fault Refusal :=
  s.on fun c => c.ingotSection offset data

/-- A refused ingot is fetched again (R355). -/
def Chip.retryIngot (c : Chip) : Chip := if c.fetchStage = 1 && c.rnd.ingot.retry then c.fetchAgain c.rnd.ingot.asked else c

/-- INGOT_RETRY_TIMER. -/
def execIngotRetryTimer (s : State) : Host.Outcome State Fault Refusal := s.on Chip.retryIngot

/-! ### The import (R355, R356) -/

/-- The accord record of an ingot import (R356); it follows no vote, so VOTE_KEY and VOTE_STEP are open. -/
def Chip.ingotRecord (c : Chip) (donor round step : Nat) : Bytes × Chip :=
  let z := c.roundSettings
  let (k, c) := c.freeNat 64
  let (v, c) := c.freeNat 32
  (accordHeader (c.reg Obj.rndGroupId) round step donor 8 1 one32 z.lr z.mu k v c.accordPrev ++ accordEntry donor 1 0 round one32, c)

/-- Every shard of the ingot is made current. -/
def Chip.flipIngot (c : Chip) (b : Bytes) (v : Ver) : Chip :=
  c.each (c.arrivedShards b 0) fun c x =>
    let (rs, s, t, sec) := x
    let (slot, block) := c.ingotShard t s v.1 v.2 sec
    match c.roundBlocks rs with
    | ((dest, old), c) =>
      let c := ((c.writeMem dest block).writeMem old (leBytes 4 noRound)).writeMem rs.delta (leBytes 4 noRound)
      c.importShard t s v 0 slot

/-- A verified ingot takes effect. -/
def Chip.takeIngot (c : Chip) : Chip :=
  let b := c.rnd.ingot.bytes
  let l := sectionsAt b 256 (u32At b 0x30)
  let v : Ver := (u32At b 0x20, u32At b 0x24)
  let applied := u64At b 0x28
  let donor := u8At b 0x18
  let c := c.each (List.range engines) fun c g =>
    c.setJournal g (journalKept (c.journal g) ++ [journalRecord jImportBegin v.1 v.2 0 0 0 0 0])
  let c := (c.flipIngot b v).journalAll (journalRecord jImportDone v.1 v.2 0 0 0 0 0)
  let c := match pickSection b l 3 0 with
    | some x => c.importScales x.2
    | none => c
  let c := ((c.atVersion v applied).setReg Obj.rndState 0).importedRounds v none
  let c := { c with rnd := { c.rnd with
    history := ingotHistory b l, merges := [(v.1, v.2, applied)], ingotNeeded := false, donor := none } }
  let (r, c) := c.ingotRecord donor v.1 v.2
  c.pushAccord r

/-- The import ends the fetch: the partner that was ahead is reachable, and stepping goes on if it ran. -/
def Chip.importIngot (c : Chip) : Chip :=
  let g := c.rnd.ingot
  let c := (c.setReg Obj.ingotState 3).takeIngot
  let c := c.each c.partnerSites fun c j => if c.partnerState j = partnerDiverged then c.setPartnerState j partnerReachable else c
  let c := c.each c.partnerSites fun c j => if c.partnerState j = partnerReachable then c.partnerRefresh j else c
  let c := c.endFetch.completeOpt g.origin Obj.rndControl 0 0
  if g.byStop then ({ c with step := { c.step with on := true } }).refreshMark else c

/-- ROUND values of every other module of the site: a lower own one fetches again, agreement imports (R355). -/
def Chip.ingotAgreement (c : Chip) (rounds : List (BitVec 16 × BitVec 32)) : Chip :=
  match c.rnd.ingot.ready with
  | none => c
  | some r =>
    let all := (List.range (c.reg Obj.bzSiteModules)).all fun m =>
      m == c.reg Obj.bzModuleNumber || rounds.any fun x => x.1.toNat == m
    let high := rounds.foldl (fun a x => Nat.max a x.2.toNat) r
    if c.fetchStage ≠ 2 ∨ c.step.inStep then c
    else if r < high then c.fetchAgain (some high)
    else if all && rounds.all fun x => x.2.toNat == r then c.importIngot
    else c

/-- INGOT_ROUND_AGREEMENT. -/
def execIngotRoundAgreement (rounds : List (BitVec 16 × BitVec 32)) (s : State) : Host.Outcome State Fault Refusal :=
  s.on fun c => c.ingotAgreement rounds

end Sys2Proof.Machine
end

