-- ==== Sys2Proof/Machine/Replay.lean ====
section
/-! DEFINITION. Machine/Replay.lean: the control of a replay (R284 to R287): its start with the checks of R285, its
abandonment, and its end when it runs late. What a replayed step takes from its record stands with the step
(Machine/StepCmds.lean, Machine/Update.lean), its comparison in Machine/StepEnd.lean. -/

namespace Sys2Proof.Machine

/-- CASTING_IDS of STEP_SUMMARY as the loaded castings give them (Table 10-5). -/
def Chip.castingIds (c : Chip) : Bytes :=
  ((List.range 4).map fun s => leBytes 8 (((c.array.casting s).map fun k => k.id.toNat).getD 0)).flatten

/-- Why a replay of REPLAY_SOURCE is refused (R285); 0 where it is not. -/
def Chip.replayReason (c : Chip) : Nat :=
  let b := c.blob Obj.replaySource
  match splitRecords b.length b with
  | none => 1
  | some l =>
    if !(l.all fun r => digestOk r && u8At r 6 == 1) || !chainOk l then 1
    else if !(l.all fun r => slice (sectionOf r 1) 8 32 == c.castingIds) then 2
    else
      match l with
      | [] => 3
      | r :: _ =>
        if u32At r 0x24 ≠ (c.reg Obj.stepCommitted + 1) % 2 ^ 32 then 3
        else if !(l.all fun x => u64At x 0x18 == c.reg Obj.srRunSeed) then 4
        else if !(l.all fun x => u32At x 0x20 == u32At r 0x20) then 5
        else 0

/-- The replay begins: its steps open as any other, from the step after the committed one. -/
def Chip.startReplay (c : Chip) (o : Origin) : Chip :=
  let b := c.blob Obj.replaySource
  let l := (splitRecords b.length b).getD []
  let c := { c with
    sil := { c.sil with replay := ⟨l, 0, true, false, false, some o, none⟩ }
    step := { c.step with on := true } }
  ((((c.setReg Obj.stepNumber (c.reg Obj.stepCommitted)).setReg Obj.replayState 1).setReg Obj.replayFirstDiverged 0).setReg
    Obj.replayLastReason 0).refreshMark

/-- A replay is abandoned: at once where no step is open, else at the step's boundary. -/
def Chip.abandonReplay (c : Chip) (o : Origin) : Chip :=
  if !c.sil.replay.running then c.complete o Obj.replayControl 0 0
  else if c.step.inStep then { c with sil := { c.sil with replay := { c.sil.replay with abandon := some o } } }
  else ((c.finishReplay 0).complete o Obj.replayControl 0 0).refreshMark

/-- REPLAY_CONTROL. A start is refused with its code (R285), and while a step is open or a replay runs. -/
def replayRule : WriteRule where
  cond := fun c _ _ b _ =>
    if leNat b = 2 then stOk
    else if c.step.inStep || c.sil.replay.running || c.replayReason != 0 then stState else stOk
  eff := fun c o _ b => if leNat b = 1 then c.startReplay o else c.abandonReplay o
  note := fun c _ _ _ =>
    if c.step.inStep || c.sil.replay.running then c
    else (c.setReg Obj.replayLastReason c.replayReason).log .sl c.replayReason noRegion 0 0

/-- REPLAY_START. -/
def execReplayStart (rq : Fin 17) (s : State) : Host.Outcome State Fault Refusal :=
  s.on fun c => c.write rq Obj.replayControl [1#8] replayRule

/-- REPLAY_ABANDON. -/
def execReplayAbandon (rq : Fin 17) (s : State) : Host.Outcome State Fault Refusal :=
  s.on fun c => c.write rq Obj.replayControl [2#8] replayRule

/-- A collective or fetch outlasts its deadline plus REPLAY_WAIT: the step commits nothing and the replay ends (R287). -/
def Chip.replayLate (c : Chip) : Chip :=
  if c.sil.replay.running && c.step.inStep && !c.step.committing then
    let c := c.occur 6 5 .sl noRegion (c.reg Obj.stepNumber) 0
    let combined := (c.step.combined.map fun w => w.toNat).getD 0xFFFFFFFF
    let c := ({ c with step := { c.step with on := false, abandoned := true } }).endStep 3 combined
    let c := if c.sil.replay.running then c.finishReplay 4 else c.setReg Obj.replayState 4
    c.refreshMark
  else c

/-- REPLAY_WAIT_EXPIRY. -/
def execReplayWaitExpiry (s : State) : Host.Outcome State Fault Refusal := s.on Chip.replayLate

end Sys2Proof.Machine
end

