-- ==== Sys2Proof/Machine/Speed.lean ====
section
/-! DEFINITION. Machine/Speed.lean: speed monitors (R43), SPD_SLOW (R46), the power governor (R48 to R52), and receive
crossing overruns (R57). -/

namespace Sys2Proof.Machine

/-- hc of a die in ns from the counts of one 1 µs window: 1,000 ÷ the lowest count. A count of 0, which R44 rules out, gives a
free value (DESIGN CHOICE, assumption log 26). -/
def hcOf (counts : List Nat) : Rat :=
  match counts.foldl Nat.min (counts.headD 0) with
  | 0 => (Config.stoppedPeriod : Rat)
  | n + 1 => 1000 / ((n + 1 : Nat) : Rat)

def ratMax (a b : Rat) : Rat := if a ≤ b then b else a
def ratMin (a b : Rat) : Rat := if a ≤ b then a else b

/-- Mean of a list of periods as binary32. -/
def meanF32 (l : List Rat) : Nat := meanCode (l.foldl (· + ·) 0) l.length 0

/-- A window completes: both dies' hc, their mean over 1 ms and their worst since start; a raise of R46 ends for a die
whose hc is at most 0.80 ns. -/
def Chip.speedWindow (c : Chip) (w l : List Nat) : Chip :=
  if !c.time.running then c
  else
    let hw := hcOf w
    let hl := hcOf l
    let ws := ((hw, hl) :: c.gov.windows).take 1000
    let m := c.step.means
    let c := { c with
      gov := { c.gov with
        hcWacor := hw, hcLink := hl, windows := ws
        spdRaise := c.gov.spdRaise && decide (4 / 5 < hw), spdRaiseLink := c.gov.spdRaiseLink && decide (4 / 5 < hl) }
      step := if c.step.inStep then { c.step with means := { m with
        hcN := m.hcN + 1, hcWacor := m.hcWacor + hw, hcLink := m.hcLink + hl } } else c.step }
    let c := (c.setReg Obj.hcWacor (meanF32 (ws.map (·.1)))).setReg Obj.hcLinkDie (meanF32 (ws.map (·.2)))
    let c := c.setReg Obj.hcWacorWorst (f32Max (c.reg Obj.hcWacorWorst) (f32OfRat hw))
    c.setReg Obj.hcLinkDieWorst (f32Max (c.reg Obj.hcLinkDieWorst) (f32OfRat hl))

/-- SPEED_WINDOW. -/
def execSpeedWindow (wacor link : List Nat) (s : State) : Host.Outcome State Fault Refusal :=
  s.on fun c => c.speedWindow wacor link

/-- SPD_SLOW_DETECT: the bit and the entry with the monitor number, and a raise of the die's rail begins (R46). -/
def execSpdSlowDetect (die : Die) (monitor : Nat) (s : State) : Host.Outcome State Fault Refusal :=
  s.on fun c =>
    if c.board.phase ≠ .on then c
    else
      let c := c.occur 1 0 .speed noRegion monitor 0
      match die with
      | .wacor => { c with gov := { c.gov with spdRaise := true } }
      | .link => { c with gov := { c.gov with spdRaiseLink := true } }

/-- Greatest multiple of 2.5 mV that is at most v. -/
def roundDown25 (v : Rat) : Rat := ((v * 2 / 5).floor : Rat) * 5 / 2

/-- A rail voltage in V as binary32, from mV. -/
def railCode (mv : Rat) : Nat := f32OfRat (mv / 1000)

/-- VCORE_CEILING in mV, to the nearest µV of the binary32 value (DEDUCED, assumption log 28). -/
def ceilingMv (code : Nat) : Rat := ((ratOf .f32 code * 1000000 + 1 / 2).floor : Rat) / 1000

/-- What one governor decision computes: VCORE_W, pacing, and what it found. -/
structure GovResult where
  v : Rat
  pacing : Nat
  raised : Bool
  hold : Rat
  excess : Bool
  hi : Rat

/-- The pseudocode of R49; voltages in mV. -/
def govern (v : Rat) (pacing sinceRaise : Nat) (raise : Bool) (hold limit ceiling p tj : Rat) : GovResult :=
  let target := limit - 25
  let hi : Rat := if raise then 750 else ratMin (ratMax ceiling hold) 750
  let excess := decide (target < p) || decide (104 < tj)
  let may := (raise || (decide (p < target - 20) && decide (tj < 102))) && decide (50 ≤ sinceRaise)
  let (v, pacing, raised) : Rat × Nat × Bool :=
    if excess then
      let stp := ratMin (ratMax ((p - target) / (7 / 2)) (5 / 2)) 10
      (ratMax (v - stp) 680, pacing, false)
    else if may then
      if 0 < pacing then (v, pacing - 1, true) else (ratMin (v + 5 / 2) hi, pacing, true)
    else (v, pacing, false)
  let v := if hi < v then hi else v
  let hold := if raise then ratMax hold v else hold
  let pacing := if excess ∧ v = 680 then Nat.min (pacing + 1) 90 else pacing
  ⟨v, pacing, raised, hold, excess, hi⟩

/-- GOV_STATE: at floor with pacing; limited, by power before junction; at ceiling; else as it was (DESIGN CHOICE, assumption log 27). -/
def govState (old : Nat) (r : GovResult) (power junction : Bool) : Nat :=
  if 0 < r.pacing then 3
  else if power then 1
  else if junction then 2
  else if r.v = r.hi then 0
  else if old = 0 ∨ old = 3 then 1 else old

/-- The link die's rail: lowered while the die draws more than 120 W, otherwise held at or returned to 0.750 V. -/
def railLink (v draw : Rat) : Rat := if 120 < draw then ratMax (v - 5 / 2) 700 else ratMin (v + 5 / 2) 750

/-- One decision. The governor decides once the first casting is loaded (Start-Up and Reset). -/
def Chip.govern (c : Chip) (power tj link : F32) : Chip :=
  if !c.gov.started then c
  else
    let g := c.gov
    let p := ratOf .f32 power.toNat
    let t := ratOf .f32 tj.toNat
    let limit := ratOf .f32 (c.reg Obj.powerLimitActive)
    let r := Sys2Proof.Machine.govern g.vWacor g.pacing g.sinceRaise g.spdRaise g.spdHold limit
      (ceilingMv (c.reg Obj.vcoreCeiling)) p t
    let vl := railLink g.vLink (ratOf .f32 link.toNat)
    let powerOver := decide (limit - 25 < p)
    let hot := decide (104 < t)
    let m := c.step.means
    let c := { c with
      gov := { g with
        vWacor := r.v, vLink := vl, pacing := r.pacing, spdHold := r.hold
        sinceRaise := if r.raised then 1 else Nat.min (g.sinceRaise + 1) 50
        spdRaise := g.spdRaise && decide (r.v < 750), spdRaiseLink := g.spdRaiseLink && decide (vl < 750)
        overTarget := powerOver, overTj := hot }
      step := if c.step.inStep then { c.step with
          pacingMax := Nat.max c.step.pacingMax r.pacing
          means := { m with govN := m.govN + 1, vcore := m.vcore + roundDown25 r.v / 1000, power := m.power + p } }
        else c.step }
    let c := if r.excess ∧ r.v = 680 then c.occur 1 1 .speed noRegion 0 0 else c
    let c := if hot then c.occur 1 2 .speed noRegion 0 0 else c
    let c := (c.setReg Obj.vcoreWacor (railCode (roundDown25 r.v))).setReg Obj.vcoreLink (railCode vl)
    (c.setReg Obj.pacingDuty r.pacing).setReg Obj.govState (govState (c.reg Obj.govState) r powerOver hot)

/-- GOVERNOR_DECISION: power over the preceding 2 µs, hottest Wacor junction, link-die power. -/
def execGovernorDecision (power tj linkPower : F32) (s : State) : Host.Outcome State Fault Refusal :=
  s.on fun c => c.govern power tj linkPower

/-- VCORE_CEILING (R46, R51): a valid write ends `spd_hold`. -/
def vcoreCeilingRule : WriteRule where
  cond := noCond
  eff := fun c _ _ b =>
    ({ c with gov := { c.gov with spdHold := 0 } }).setReg Obj.vcoreCeiling (leNat b)

/-- VCORE_CEILING_WRITE. -/
def execVcoreCeilingWrite (rq : Fin 17) (v : F32) (s : State) : Host.Outcome State Fault Refusal :=
  s.on fun c => c.write rq Obj.vcoreCeiling (leBytes 4 v.toNat) vcoreCeilingRule

/-- RX_CROSSING_OVERRUN: the frame is discarded and counted; bit, and entry with the boundary number (R57). -/
def execRxCrossingOverrun (boundary : Nat) (s : State) : Host.Outcome State Fault Refusal :=
  s.on fun c =>
    if c.board.phase ≠ .on then c
    else ({ c with gov := { c.gov with rxOverruns := c.gov.rxOverruns + 1 } }).occur 1 3 .speed noRegion boundary 0

end Sys2Proof.Machine
end

