-- ==== Sys2Proof/Machine/Firmware.lean ====
section
/-! DEFINITION. Machine/Firmware.lean: firmware images and slots (R467 to R472), configuration records (R475 to R477), hallmark
quotes (R478, R479), enrolment (R466, R480, R481). -/

namespace Sys2Proof.Machine

/-! ### Reasons (Table 20-6) -/

def fwOk : Nat := 0x00
def fwHeader : Nat := 0x01
def fwSize : Nat := 0x02
def fwKey : Nat := 0x03
def fwSignature : Nat := 0x04
def fwDigest : Nat := 0x05
def fwVersionLow : Nat := 0x06
def fwState : Nat := 0x07
def fwEmmc : Nat := 0x08
def fwConfigVersion : Nat := 0x09
def fwOwner : Nat := 0x0A
def fwRecord : Nat := 0x0B
def fwEnrol : Nat := 0x0C
def fwPuf : Nat := 0x0D

/-- The code beside the first condition that holds; 0 where none does. -/
def firstReason (l : List (Bool × Nat)) : Nat := (firstOf l).getD fwOk

/-! ### Manifests (R467) -/

def mfCount (b : Bytes) : Nat := u16At b 6
def mfVersion (b : Bytes) : Nat := u32At b 8
def mfRevoke (b : Bytes) : Nat := u8At b 0x0C
def mfSigOff (b : Bytes) : Nat := u64At b 0x18

/-- Largest image, and bytes of a signature block (Table 20-5). -/
def fwMaxBytes : Nat := 67108864
def mfSigBlock : Nat := 0x710 + 1280

/-- Offsets of the component entries. -/
def mfComponents (b : Bytes) : List Nat := (List.range (mfCount b)).map fun i => 0x40 + 96 * i

/-- Offset of signature block 0 or 1. -/
def mfBlock (b : Bytes) (i : Nat) : Nat := mfSigOff b + mfSigBlock * i

def mfKeyIndex (b : Bytes) (i : Nat) : Nat := u8At b (mfBlock b i)
def mfPubkey (b : Bytes) (i : Nat) : Bytes := slice b (mfBlock b i + 8) 1793

/-- Bytes that both signatures cover. -/
def mfSigned (b : Bytes) : Bytes := b.take (mfSigOff b)

def mfReservedOk (b : Bytes) : Bool :=
  decide (mfRevoke b < 16) && allZero (slice b 0x0D 3) && allZero (slice b 0x20 32) &&
  ((mfComponents b).all fun o => decide (u16At b o ≤ 5) && allZero (slice b (o + 2) 6) && allZero (slice b (o + 0x58) 8)) &&
  [0, 1].all fun i => let o := mfBlock b i
    u8At b (o + 1) == 0 && u32At b (o + 4) == 0 && allZero (slice b (o + 0x709) 7)

def mfHeaderOk (b : Bytes) : Bool :=
  u32At b 0 == 0x57465743 && u16At b 4 == 1 && decide (1 ≤ mfCount b) && decide (mfCount b ≤ 64) &&
  mfSigOff b == 0x40 + 96 * mfCount b && mfReservedOk b

/-- First byte, length and entry of each component. -/
def mfRanges (b : Bytes) : List (Nat × Nat × Nat) := (mfComponents b).map fun o => (u64At b (o + 8), u64At b (o + 0x10), o)

def mfSizeOk (b : Bytes) : Bool :=
  decide (b.length ≤ fwMaxBytes) && u64At b 0x10 == b.length && decide (mfBlock b 2 ≤ b.length) &&
  ((mfRanges b).all fun x => x.1 % 4096 == 0 && decide (mfBlock b 2 ≤ x.1) && decide (x.1 + x.2.1 ≤ b.length)) &&
  (clashIn [] (mfRanges b)).isNone

/-- The ROM key of an index is not revoked. -/
def Emmc.keyStands (e : Emmc) (i : Nat) : Bool := decide (i ≤ 3) && !bit e.revoked.toNat i

def mfKeysOk (e : Emmc) (b : Bytes) : Bool :=
  mfKeyIndex b 0 != mfKeyIndex b 1 && [0, 1].all fun i =>
    e.keyStands (mfKeyIndex b i) && digest32 (mfPubkey b i) == digest32 (Config.romKey (mfKeyIndex b i))

def mfSignaturesOk (b : Bytes) : Bool :=
  [0, 1].all fun i => signatureOk (mfPubkey b i) (mfSigned b) (u16At b (mfBlock b i + 2)) (slice b (mfBlock b i + 0x710) 1280)

def mfDigestsOk (b : Bytes) : Bool :=
  (mfComponents b).all fun o => shake256 64 (slice b (u64At b (o + 8)) (u64At b (o + 0x10))) == slice b (o + 0x18) 64

/-- The checks of R468 on an image, in the order of Table 20-6; `least` is the lowest VERSION permitted. -/
def verifyImage (e : Emmc) (least : Nat) (b : Bytes) : Nat :=
  firstReason [(!mfHeaderOk b, fwHeader), (!mfSizeOk b, fwSize), (!mfKeysOk e b, fwKey), (!mfSignaturesOk b, fwSignature),
    (!mfDigestsOk b, fwDigest), (decide (mfVersion b < least), fwVersionLow)]

/-! ### Slots -/

/-- Slot A or B. -/
def Emmc.slot (e : Emmc) (i : Fin 2) : FwSlot := if i = 0 then e.slotA else e.slotB

def Emmc.setSlot (e : Emmc) (i : Fin 2) (x : FwSlot) : Emmc := if i = 0 then { e with slotA := x } else { e with slotB := x }

/-- State of a slot as FW_INACTIVE_STATE codes it; a verified slot below ROLLBACK_MIN is refused (R472). -/
def Emmc.slotState (e : Emmc) (i : Fin 2) : Nat :=
  let x := e.slot i
  if x.state = 2 ∧ x.version.toNat < e.rollbackMin.toNat then 3 else x.state.toNat

def otherSlot (i : Fin 2) : Fin 2 := if i = 0 then 1 else 0

/-- The slot that does not run. -/
def Chip.inactive (c : Chip) : Fin 2 := otherSlot c.start.bootedSlot

/-- One authenticated write of the control block; without the key derived from the PUF it fails (R465). -/
def Chip.writeControl (c : Chip) (f : Emmc → Emmc) : Chip :=
  if c.ident.seed.isSome then { c with emmc := f c.emmc } else c

def Chip.fwReason (c : Chip) (code : Nat) : Chip := c.setReg Obj.fwLastReason code

/-! ### Installing and activating (R469, R470) -/

/-- The inactive slot is marked incomplete before the first byte reaches it. -/
def Chip.slotIncomplete (c : Chip) (image : Bytes) : Chip :=
  ({ c with emmc := c.emmc.setSlot c.inactive ⟨image, 1, 0⟩ }).refreshMark

def Chip.installStatus (c : Chip) : Nat := if c.emmc.trial = 0 ∧ !c.installOpen then stOk else stState

/-- FW_INSTALL opens only while TRIAL is 0 and no install is open. -/
def fwInstallRule : WriteRule where
  cond := fun c _ _ _ _ => c.installStatus
  opens := fun c _ => c.installStatus
  began := fun c => c.slotIncomplete []
  eff := fun c o _ b => ({ c with ident := { c.ident with install := some o } }).slotIncomplete b

/-- FW_INSTALL. -/
def execFwInstall (rq : Fin 17) (image : Bytes) (s : State) : Host.Outcome State Fault Refusal :=
  s.on fun c => c.write rq Obj.fwInstall image fwInstallRule

/-- The installed slot is read back and verified. -/
def Chip.installComplete (c : Chip) (readBack : Outcome1) : Chip :=
  match c.ident.install with
  | none => c
  | some o =>
    let x := c.emmc.slot c.inactive
    let code := if readBack = .failed then fwEmmc
      else verifyImage c.emmc (Nat.max c.emmc.rollbackMin.toNat c.start.fwVersion.toNat) x.image
    let x := if code = fwOk then { x with state := 2, version := BitVec.ofNat 32 (mfVersion x.image) } else { x with state := 3 }
    let c := { c with emmc := c.emmc.setSlot c.inactive x, ident := { c.ident with install := none } }
    let c := if code = fwOk then c else c.occurCode 12 2 .fw code noRegion 0 0
    ((c.fwReason code).complete o Obj.fwInstall code 0).refreshMark

/-- FW_INSTALL_COMPLETE. -/
def execFwInstallComplete (readBack : Outcome1) (s : State) : Host.Outcome State Fault Refusal :=
  s.on fun c => c.installComplete readBack

/-- FW_ACTIVATE arms the trial in one write of the control block. -/
def fwActivateRule : WriteRule where
  cond := noCond
  eff := fun c o key _ =>
    let code := firstReason [
      (c.emmc.slotState c.inactive != 2 || c.emmc.trial != 0 || c.installOpen, fwState),
      (c.ident.seed.isNone, fwEmmc)]
    let c := if code = fwOk then c.writeControl fun e => { e with trial := 1 } else c
    (c.fwReason code).complete o key code 0

/-- FW_ACTIVATE. -/
def execFwActivate (rq : Fin 17) (v : Byte) (s : State) : Host.Outcome State Fault Refusal :=
  s.on fun c => c.write rq Obj.fwActivate [v] fwActivateRule

/-! ### Enrolment of the PUF (R466) -/

/-- PUF_ENROL writes helper data and the key of the replay-protected block, which the eMMC accepts once. -/
def pufEnrolRule : WriteRule where
  cond := noCond
  eff := fun c o key _ =>
    if c.emmc.keyProgrammed then (c.fwReason fwPuf).complete o key fwPuf 0
    else ({ c with emmc := { c.emmc with keyProgrammed := true }, ident := { c.ident with puf := 1 } }).complete o key fwOk 0

/-- PUF_ENROL. -/
def execPufEnrol (rq : Fin 17) (v : Byte) (s : State) : Host.Outcome State Fault Refusal :=
  s.on fun c => c.write rq Obj.pufEnrol [v] pufEnrolRule

/-! ### Quotes (R478, R479) -/

def Chip.deviceId (c : Chip) : Bytes :=
  match c.ident.seed with
  | some s => digest32 (Config.falconPublicKey s)
  | none => zeros 32

/-- A quote for a nonce (Table 20-9) by the device key of this seed. -/
def Chip.quoteFor (c : Chip) (seed nonce : Bytes) : Bytes :=
  let flags := (if measureLimit < c.ident.count then 1 else 0) + if c.timeValid then 2 else 0
  let pk := padTo 1793 (Config.falconPublicKey seed)
  let head := leBytes 4 0x514C4148 ++ leBytes 2 1 ++ leBytes 2 flags ++ padTo 32 nonce ++ c.deviceId ++
    leBytes 8 c.emmc.startCount.toNat ++ leBytes 8 c.now64 ++ leBytes 4 c.start.fwVersion.toNat ++
    leBytes 4 c.emmc.rollbackMin.toNat ++ leBytes 4 c.emmc.config.version.toNat ++ leBytes 4 c.ident.count ++
    leBytes 1 (c.reg Obj.rndSiteIndex) ++ zeros 1 ++ leBytes 2 (c.reg Obj.bzModuleNumber) ++ zeros 4 ++
    padTo 64 c.ident.chain ++ pk ++ zeros 7
  let n := 1 + Config.falconSigBytes seed head c.ident.signed % 1280
  let msg := head ++ leBytes 2 n ++ zeros 6
  msg ++ padTo 1280 (padTo n (Config.falconSign seed msg c.ident.signed))

/-- A quote is made, where the device has an identity (R465). -/
def Chip.makeQuote (c : Chip) (nonce : Bytes) : Option Bytes × Chip :=
  match c.ident.seed with
  | none => (none, c)
  | some s => (some (c.quoteFor s nonce), { c with ident := { c.ident with signed := c.ident.signed + 1 } })

/-- HALLMARK_NONCE takes 32 bytes; quotes are made one at a time, in order. -/
def hallmarkNonceRule : WriteRule where
  cond := fun _ _ _ b _ => if b.length = 32 then stOk else stLength
  eff := fun c o _ b => { c with ident := { c.ident with quotes := c.ident.quotes ++ [(b, o)] } }

/-- HALLMARK_NONCE. -/
def execHallmarkNonce (rq : Fin 17) (nonce : Bytes) (s : State) : Host.Outcome State Fault Refusal :=
  s.on fun c => c.write rq Obj.hallmarkNonce nonce hallmarkNonceRule

def Chip.quoteComplete (c : Chip) : Chip :=
  match c.ident.quotes with
  | [] => c
  | (nonce, o) :: r =>
    let c := { c with ident := { c.ident with quotes := r } }
    match c.makeQuote nonce with
    | (some q, c) => (c.setBlob Obj.hallmarkQuote q).complete o Obj.hallmarkNonce 0 0
    | (none, c) => c.completeFailed o Obj.hallmarkNonce 0

/-- HALLMARK_QUOTE_COMPLETE. -/
def execHallmarkQuoteComplete (s : State) : Host.Outcome State Fault Refusal := s.on Chip.quoteComplete

/-! ### Configuration sets (R475) -/

/-- A record: type, reserved field, body, padding. -/
structure ConfigRecord where
  type : Nat
  reserved : Nat
  body : Bytes
  pad : Bytes
deriving DecidableEq, Repr, Inhabited

/-- `n` records from the front of `b`, which must hold exactly them. -/
def recordsFrom : Nat → Bytes → Option (List ConfigRecord)
  | 0, b => if b.isEmpty then some [] else none
  | n + 1, b =>
    let len := u32At b 4
    let all := alignUp 8 len
    if b.length < 8 + all then none
    else (recordsFrom n (b.drop (8 + all))).map fun l =>
      ⟨u16At b 0, u16At b 2, slice b 8 len, slice b (8 + len) (all - len)⟩ :: l

/-- Bytes of header and closing block. -/
def setHeadBytes : Nat := 32
def setCloseBytes : Nat := 8 + 1280

def setCount (b : Bytes) : Nat := u16At b 6
def setVersion (b : Bytes) : Nat := u32At b 8
def setSigKind (b : Bytes) : Nat := u8At b 0x10
def setKeyIndex (b : Bytes) : Nat := u8At b 0x11
def setRecords (b : Bytes) : Option (List ConfigRecord) :=
  recordsFrom (setCount b) (slice b setHeadBytes (b.length - setHeadBytes - setCloseBytes))

/-- Offset of the signature. -/
def setSigOff (b : Bytes) : Nat := b.length - 1280

def setHeaderOk (b : Bytes) : Bool :=
  u32At b 0 == 0x46474643 && u16At b 4 == 1 && decide (1 ≤ setCount b) && decide (setCount b ≤ 8227) &&
  u32At b 0x0C == b.length && decide (b.length ≤ 4194304) && decide (setHeadBytes + setCloseBytes ≤ b.length) &&
  decide (setSigKind b ≤ 1) && (setSigKind b == 0 || setKeyIndex b == 0) && allZero (slice b 0x12 14) &&
  allZero (slice b (setSigOff b - 6) 6)

/-- Records of a type. -/
def ofType (l : List ConfigRecord) (t : Nat) : List Bytes := (l.filter fun r => r.type == t).map fun r => r.body

/-- OWNER_KEY of a set that is still to be checked. -/
def setOwner (b : Bytes) : Option Bytes := ((setRecords b).bind fun l => (ofType l 1).head?)

/-- The key that R476 wants the set to verify under. -/
def Emmc.setKey (e : Emmc) (b : Bytes) : Option Bytes :=
  if setSigKind b = 0 then (if e.keyStands (setKeyIndex b) then some (Config.romKey (setKeyIndex b)) else none)
  else match e.config.owner with
    | some k => some k
    | none => setOwner b

def Emmc.setSigned (e : Emmc) (b : Bytes) : Bool :=
  match e.setKey b with
  | some k => signatureOk k (b.take (setSigOff b)) (u16At b (setSigOff b - 8)) (b.drop (setSigOff b))
  | none => false

/-- Bytes of a wrapped key of type 1 (Table 15-4). -/
def wrapBytes : Nat := 0x18 + 32 + 16

/-- A wrapped key for a slot under slot 0, which opens. -/
def Chip.wrapOk (c : Chip) (slot : Nat) (b : Bytes) : Bool :=
  b.length == wrapBytes && u16At b 0 == slot && u8At b 2 == 1 && u16At b 4 == 0 &&
  match c.openWrap b with
  | .inl _ => true
  | .inr _ => false

def requesterOf (b : Bytes) : Requester where
  n := Fin.ofNat 17 (u8At b 0)
  level := BitVec.ofNat 8 (u8At b 1)
  prefixBits := u8At b 2
  address := BitVec.ofNat 128 (beAt b 4 16)
  eventAddr := BitVec.ofNat 128 (beAt b 20 16)
  eventPort := BitVec.ofNat 16 (u16At b 36)
  wrapped := b.drop 44

def Chip.bodyOk (c : Chip) (r : ConfigRecord) : Bool :=
  let b := r.body
  match r.type with
  | 1 => b.length == 1793
  | 2 =>
    let n := u8At b 0
    b.length == 44 + wrapBytes && decide (1 ≤ n) && decide (n ≤ 16) && decide (u8At b 1 ≤ 3) &&
    decide (u8At b 2 ≤ 128) && u8At b 3 == 0 && allZero (slice b 38 6) && c.wrapOk (3055 + n) (b.drop 44)
  | 3 => b.length == 1801
  | 4 => b.length == 24 && decide (u8At b 16 ≤ 128) && decide (u8At b 21 ≤ 32)
  | 5 => c.wrapOk 3055 b
  | 6 => b.length == 36 && u8At b 1 == 0
  | _ => false

/-- Most records of each type (Table 20-8). -/
def recordLimit : Nat → Nat
  | 1 => 1
  | 2 => 16
  | 3 => 16
  | 4 => 1
  | 5 => 1
  | 6 => 8192
  | _ => 0

def distinct (l : List Nat) : Bool := l.eraseDups.length == l.length

/-- The records are as Table 20-8 gives; the numbers of requesters, the key identities and the places of peers are each
named once. -/
def Chip.recordsOk (c : Chip) (l : List ConfigRecord) : Bool :=
  (l.all fun r => r.reserved == 0 && allZero r.pad && c.bodyOk r) &&
  ((List.range 7).all fun t => decide ((ofType l t).length ≤ recordLimit t)) &&
  distinct ((ofType l 2).map fun b => u8At b 0) && distinct ((ofType l 3).map fun b => u64At b 0) &&
  distinct ((ofType l 6).map fun b => u32At b 0)

/-- The checks of R476, in order. -/
def Chip.checkSet (c : Chip) (b : Bytes) : Nat :=
  firstReason [(!setHeaderOk b, fwHeader), (decide (setVersion b ≤ c.emmc.config.version.toNat), fwConfigVersion),
    (!c.emmc.setSigned b, fwOwner), (!((setRecords b).elim false c.recordsOk), fwRecord)]

def configSetOf (b : Bytes) : ConfigSet :=
  let l := (setRecords b).getD []
  { version := BitVec.ofNat 32 (setVersion b), raw := b, owner := (ofType l 1).head?
    requesters := (ofType l 2).map requesterOf
    castingKeys := (ofType l 3).map fun x => (BitVec.ofNat 64 (u64At x 0), x.drop 8)
    mgmt := (ofType l 4).head?, enrolKey := (ofType l 5).head?
    peers := (ofType l 6).map fun x => (BitVec.ofNat 8 (u8At x 0), BitVec.ofNat 16 (u16At x 2), x.drop 4) }

/-- Slots 3,055 to 3,071 hold exactly the keys of the set in force (R399, R477). -/
def Chip.loadSetKeys (c : Chip) : Chip :=
  let c := c.each (List.range 17) fun c i => c.setSlot (3055 + i) ⟨0, []⟩
  c.each (c.emmc.config.enrolKey.toList ++ c.emmc.config.requesters.map fun r => r.wrapped) fun c w =>
    match c.openWrap w with
    | .inl x => c.setSlot x.1 x.2
    | .inr _ => c

/-! ### Peers (R479 to R481) -/

def Emmc.isEnrolled (e : Emmc) (site module : Nat) (device : Bytes) : Bool :=
  e.enrolled.any fun x => x.1.toNat == site && x.2.1.toNat == module && x.2.2 == device

/-- Accepted peers that the list no longer holds lose their Braze flows and their session at once (R480). -/
def Chip.endUnenrolled (c : Chip) : Chip :=
  let me := c.reg Obj.rndSiteIndex
  let gone := c.bz.accepted.filter fun x => !c.emmc.isEnrolled me x.1.toNat x.2
  let c := { c with bz := { c.bz with accepted := c.bz.accepted.filter fun x => c.emmc.isEnrolled me x.1.toNat x.2 } }
  let c := c.each gone fun c x => c.bzDropPeer x.1.toNat
  let stays := fun (x : Nat × Bytes × BitVec 64) => c.emmc.isEnrolled (partnerSite x.1) (partnerModule x.1) x.2.1
  let lost := c.slk.accepted.filter fun x => !stays x
  let c := { c with slk := { c.slk with accepted := c.slk.accepted.filter stays } }
  c.each lost fun c x => c.slkEndSession x.1

/-- CONFIG_RECORDS (R476, R477): refused with its reason, or in force at one instant. -/
def configRecordsRule : WriteRule where
  cond := noCond
  eff := fun c o key b =>
    let code := c.checkSet b
    if code ≠ fwOk then ((c.fwReason code).occurCode 12 7 .fw code noRegion 0 0).complete o key code 0
    else
      let s := configSetOf b
      let c := { c with emmc := { c.emmc with
        config := s, selector := otherSlot c.emmc.selector, enrolled := s.peers, enrolSeq := none } }
      ((c.loadSetKeys.measure 7 (shake256 64 b)).endUnenrolled).complete o key fwOk 0

/-- CONFIG_RECORDS_WRITE. -/
def execConfigRecordsWrite (rq : Fin 17) (set : Bytes) (s : State) : Host.Outcome State Fault Refusal :=
  s.on fun c => c.write rq Obj.configRecords set configRecordsRule

/-- The enrolled list after an enrolment record, where the record is accepted (R481). -/
def Chip.enrolledBy (c : Chip) (b : Bytes) : Option (List (BitVec 8 × BitVec 16 × Bytes)) :=
  let op := u8At b 0
  let site := BitVec.ofNat 8 (u8At b 1)
  let module := BitVec.ofNat 16 (u16At b 2)
  let device := slice b 8 32
  let k := c.keySlot 3055
  let l := c.emmc.enrolled
  let fresh := match c.emmc.enrolSeq with
    | some n => decide (n < u32At b 4)
    | none => true
  if k.type ≠ 1 ∨ cmac k.key (b.take 40) ≠ b.drop 40 ∨ !fresh then none
  else if op = 1 then
    if l.any fun x => x.1 == site && x.2.1 == module then
      some (l.map fun x => if x.1 == site && x.2.1 == module then (site, module, device) else x)
    else if 8192 ≤ l.length then none
    else some (l ++ [(site, module, device)])
  else if op = 2 then
    if l.contains (site, module, device) then some (l.filter fun x => x != (site, module, device)) else none
  else none

/-- PEER_ENROL takes a record of 56 bytes. -/
def peerEnrolRule : WriteRule where
  cond := fun _ _ _ b _ => if b.length = 56 then stOk else stLength
  eff := fun c o key b =>
    match c.enrolledBy b with
    | none => (c.fwReason fwEnrol).complete o key fwEnrol 0
    | some l =>
      let c := { c with emmc := { c.emmc with enrolled := l, enrolSeq := some (u32At b 4) } }
      c.endUnenrolled.complete o key fwOk 0

/-- PEER_ENROL. -/
def execPeerEnrol (rq : Fin 17) (record : Bytes) (s : State) : Host.Outcome State Fault Refusal :=
  s.on fun c => c.write rq Obj.peerEnrol record peerEnrolRule

end Sys2Proof.Machine
end

