-- ==== Sys2Proof/Machine/Start.lean ====
section
/-! DEFINITION. Machine/Start.lean: resets asked for and forced (R446 to R452), the start sequence of Table 19-3 (R453 to R457),
the selection of a firmware slot (R471 to R473), and what a keeping start restores. -/

namespace Sys2Proof.Machine

/-! ### Resets -/

/-- RESET_REQUEST takes 2 and 3 and no completion event follows (R448). -/
def resetRequestRule : WriteRule where
  cond := fun _ _ _ b _ => if leNat b = 2 ∨ leNat b = 3 then stOk else stOutOfRange
  eff := fun c _ _ b =>
    let k : ResetKind := if leNat b = 2 then .cold else .warm
    { c with start := { c.start with requested := some (match c.start.requested with
      | some j => j.stronger k
      | none => k) } }

/-- RESET_REQUEST_COLD. -/
def execResetRequestCold (rq : Fin 17) (s : State) : Host.Outcome State Fault Refusal :=
  s.on fun c => c.write rq Obj.resetRequest [2] resetRequestRule

/-- RESET_REQUEST_WARM. -/
def execResetRequestWarm (rq : Fin 17) (s : State) : Host.Outcome State Fault Refusal :=
  s.on fun c => c.write rq Obj.resetRequest [3] resetRequestRule

/-- The reset asked for is taken. -/
def Chip.delayExpiry (c : Chip) : Chip :=
  match c.start.requested with
  | none => c
  | some k => ({ c with start := { c.start with requested := none } }).takeReset k

/-- RESET_REQUEST_DELAY_EXPIRY. -/
def execResetRequestDelayExpiry (s : State) : Host.Outcome State Fault Refusal := s.on Chip.delayExpiry

/-- The watchdog of core 0, which runs once core 0 has left reset (R450). -/
def Chip.watchdogExpiry (c : Chip) : Chip :=
  if c.board.phase == .on && c.start.core0Out then c.takeReset .watchdog else c

/-- WATCHDOG_EXPIRY. -/
def execWatchdogExpiry (s : State) : Host.Outcome State Fault Refusal := s.on Chip.watchdogExpiry

/-- TRAY_RST_N is sampled while the time unit runs (R449). -/
def Chip.trayHeld (c : Chip) (v : Bool) : Chip := { c with start := { c.start with held := v } }

/-- TRAY_RST_N has been low for 10 ms: a start that has not let core 0 out is held, any other module takes a COLD reset and
is held. -/
def Chip.trayLong (c : Chip) : Chip :=
  if c.board.phase != .on || !c.time.running || c.start.held then c
  else if c.start.core0Out then (c.takeReset .cold).trayHeld true
  else c.trayHeld true

/-- TRAY_RST_LONG. -/
def execTrayRstLong (s : State) : Host.Outcome State Fault Refusal := s.on Chip.trayLong

/-- A low of TRAY_RST_N ends: one that holds the module lets it go on; a shorter one is WARM from 1 µs up. -/
def Chip.trayRelease (c : Chip) (lowNs : Nat) : Chip :=
  if c.board.phase != .on then c
  else if c.start.held then c.trayHeld false
  else if !c.time.running || !c.start.core0Out || lowNs < 1000 then c
  else if lowNs < 10000000 then c.takeReset .warm
  else c.takeReset .cold

/-- TRAY_RST_RELEASE. -/
def execTrayRstRelease (lowNs : Nat) (s : State) : Host.Outcome State Fault Refusal := s.on fun c => c.trayRelease lowNs

/-! ### Time unit and core 0 -/

def Chip.setStage (c : Chip) (v : StartStage) : Chip := { c with start := { c.start with stage := v } }

/-- The time unit begins to run from the oscillator, MONO from 0. -/
def Chip.timeStart (c : Chip) : Chip :=
  if c.board.phase == .on && c.start.stage == .reset then
    (({ c with time := { TimeUnit.reset with running := true } }.setStage .timeUnit).refreshLocate).refreshPps
  else c

/-- TIME_UNIT_START. -/
def execTimeUnitStart (s : State) : Host.Outcome State Fault Refusal := s.on Chip.timeStart

/-- ASCII of the labels of R464. -/
def labelRoot : Bytes := [0x43, 0x57, 0x34, 0x38, 0x37, 0x32, 0x20, 0x70, 0x75, 0x66, 0x20, 0x72, 0x6F, 0x6F, 0x74]
def labelWrap : Bytes := [0x77, 0x72, 0x61, 0x70]
def labelIdentity : Bytes := [0x69, 0x64, 0x65, 0x6E, 0x74, 0x69, 0x74, 0x79]

/-- R of R464 from the corrected response. -/
def pufRoot (response : Bytes) : Bytes := shake256 64 (response ++ labelRoot)

/-- What core 0 makes of the PUF: slot 0, the identity seed, the two first measurements; or, where the response cannot be
had, ID_PUF_FAIL (R464, R465). -/
def Chip.readPuf (c : Chip) (p : PufRead) : Chip :=
  let c := c.measure 1 p.romDigest
  match p.corrected with
  | some x =>
    let r := pufRoot x
    let c := c.setSlot 0 ⟨3, shake256 32 (r ++ labelWrap)⟩
    let c := { c with ident := { c.ident with seed := some (shake256 48 (r ++ labelIdentity)), puf := 1 } }
    c.measure 2 (shake256 64 Config.helperData)
  | none =>
    let c := { c with ident := { c.ident with puf := if c.emmc.keyProgrammed then 2 else 0 } }
    (c.measure 2 (shake256 64 Config.helperData)).occur 12 5 .id noRegion 0 0

/-- Core 0 leaves reset, unless TRAY_RST_N holds the start. -/
def Chip.core0Release (c : Chip) (p : PufRead) : Chip :=
  if c.board.phase == .on && c.start.stage == .timeUnit && !c.start.held then (c.setStage .core0).readPuf p else c

/-- CORE0_RELEASE. -/
def execCore0Release (puf : PufRead) (s : State) : Host.Outcome State Fault Refusal := s.on fun c => c.core0Release puf

/-! ### The firmware slot (R468, R471 to R473) -/

/-- Reason for which a slot is not booted; 0 where it passes. A slot not recorded as verified is never booted. -/
def Emmc.bootReason (e : Emmc) (i : Fin 2) : Nat :=
  let x := e.slot i
  firstReason [(x.state == 0, fwHeader), (verifyImage e e.rollbackMin.toNat x.image != fwOk, verifyImage e e.rollbackMin.toNat x.image),
    (x.state != 2, fwState)]

/-- The slot that TRIAL selects, and what the selection writes. -/
def Chip.selectSlot (c : Chip) : Fin 2 × Bool × Chip :=
  let e := c.emmc
  if e.trial = 0 then (e.confirmed, false, c)
  else if e.trial = 1 then (otherSlot e.confirmed, true, c.writeControl fun x => { x with trial := 2 })
  else
    (e.confirmed, false, (c.writeControl fun x => { x with trial := 0 }).occur 12 3 .fw noRegion
      (e.slot (otherSlot e.confirmed)).version.toNat 0)

/-- The slot booted, if any, with whether it is on trial, after the fallback of R471. -/
def Chip.bootSlot (c : Chip) : Option (Fin 2 × Bool) × Chip :=
  let (i, t, c) := c.selectSlot
  let bad := c.emmc.bootReason i
  if bad = fwOk then (some (i, t), c.fwReason fwOk)
  else
    let j := otherSlot i
    let worse := c.emmc.bootReason j
    let c := c.fwReason worse
    if worse = fwOk then
      (some (j, false), (c.writeControl fun x => { x with trial := 0 }).occurCode 12 4 .fw bad noRegion 0 0)
    else (none, c)

/-- A keeping start whose firmware is not the VERSION that wrote the control region goes on as ESCALATED (R473); what this
start has already made stays. -/
def Chip.escalateStart (c : Chip) : Chip :=
  let d := c.takeReset .escalated
  { d with
    start := { d.start with stage := c.start.stage }
    ident := c.ident, cipher := c.cipher }

/-- The start counter (R455). -/
def Chip.countStart (c : Chip) (written : Outcome1) : Chip :=
  if written = .ok ∧ c.ident.seed.isSome then
    let c := { c with emmc := { c.emmc with startCount := c.emmc.startCount + 1 }, start := { c.start with counterOk := true } }
    c.setReg Obj.startCount c.emmc.startCount.toNat
  else (c.setReg Obj.startCount c.emmc.startCount.toNat).occur 12 0 .rst noRegion 0 0

/-- A slot is selected and verified, its manifest measured, and the start counted. -/
def Chip.firmwareVerified (c : Chip) (written : Outcome1) : Chip :=
  if c.board.phase != .on || c.start.stage != .core0 || c.start.dead then c
  else
    let kept := c.start.fwVersion
    match c.bootSlot.1 with
    | none => { c.bootSlot.2 with start := { c.start with dead := true } }
    | some (i, t) =>
      let v := (c.emmc.slot i).version
      let c := if !c.start.kind.clearing && kept != v then c.escalateStart else c
      let c := c.bootSlot.2
      let c := { c with start := { c.start with stage := .firmware, bootedSlot := i, trial := t, fwVersion := v } }
      (c.measure 3 (shake256 64 (mfSigned (c.emmc.slot i).image))).countStart written

/-- FIRMWARE_SLOT_VERIFIED. -/
def execFirmwareSlotVerified (counterWrite : Outcome1) (s : State) : Host.Outcome State Fault Refusal :=
  s.on fun c => c.firmwareVerified counterWrite

/-- Every processor is loaded, checked and released; core 8 forms the device key (R454, R464, R474). -/
def Chip.processorsReleased (c : Chip) : Chip :=
  if c.board.phase != .on || c.start.stage != .firmware then c
  else
    let b := (c.emmc.slot c.start.bootedSlot).image
    let c := c.setStage .processors
    let c := c.each (mfComponents b) fun c o => c.measure 4 (slice b (o + 0x18) 64)
    let c := c.measure 5 (shake256 64 c.emmc.config.raw)
    let c := c.setBlob Obj.deviceId c.deviceId
    match c.ident.seed with
    | some s => c.setBlob Obj.devicePubkey (Config.falconPublicKey s)
    | none => c

/-- PROCESSORS_RELEASED. -/
def execProcessorsReleased (s : State) : Host.Outcome State Fault Refusal := s.on Chip.processorsReleased

/-! ### Memory (R193, R207) -/

/-- Sub-channel q is out of service as the retired one of its group. -/
def Chip.showRetired (c : Chip) (q : Nat) : Chip :=
  (c.setReg (Obj.groupRetired (q / 8)) (q % 8)).setReg (Obj.subchState q) 2

/-- A sub-channel that fails training: retired there and then where its group has none retired, else the group goes. -/
def Chip.trainingFailed (c : Chip) (q : Nat) : Chip :=
  let g := q / 8
  if c.reg (Obj.subchState q) = 2 ∨ c.reg (Obj.subchState q) = 3 then c
  else if c.reg (Obj.groupRetired g) = 0xFF then
    ({ c.showRetired q with emmc := { c.emmc with memRetired := c.emmc.memRetired ++ [q] } }).occur 3 8 .mem noRegion q 0
  else (c.each (List.range 8) fun c j => c.setReg (Obj.subchState (8 * g + j)) 3).occur 3 10 .mem noRegion g 0

/-- Training ends; recorded retirements stand (R204, R207). -/
def Chip.trainingComplete (c : Chip) (failed : List (Fin 192)) : Chip :=
  if c.board.phase != .on || c.start.stage != .processors || !c.start.kind.clearing || c.start.trained then c
  else
    let c := { c with start := { c.start with trained := true } }
    let c := c.each c.emmc.memRetired Chip.showRetired
    (c.each (failed.map (·.val)) Chip.trainingFailed).refreshMem

/-- LPDDR6_TRAINING_COMPLETE. -/
def execLpddr6TrainingComplete (failed : List (Fin 192)) (s : State) : Host.Outcome State Fault Refusal :=
  s.on fun c => c.trainingComplete failed

/-- Every burst in service is written with zero data, RATE 0, POISON 0. -/
def Chip.initComplete (c : Chip) : Chip :=
  if c.board.phase != .on || !c.start.trained || c.start.memoryWritten then c
  else
    ({ c with
      start := { c.start with memoryWritten := true }
      mem := { c.mem with up := true, cells := [], tags := [] } }).retireNext

/-- LPDDR6_INIT_COMPLETE. -/
def execLpddr6InitComplete (s : State) : Host.Outcome State Fault Refusal := s.on Chip.initComplete

/-! ### Self-tests (R91, R389) -/

/-- Tiles and round units that fail go out of service, and logical tiles of failed tiles get spares (R155). -/
def Chip.selfTested (c : Chip) (r : SelfTestResult) : Chip :=
  if c.board.phase != .on || c.start.stage != .processors || c.start.selfTested then c
  else
    let c := { c with start := { c.start with selfTested := true } }
    let c := c.setReg Obj.tilesFailed ((List.range 544).filter fun p => c.array.useOf p == .failed).length
    let c := c.setReg Obj.srSelftestFailed r.srFailed.eraseDups.length
    let c := c.each (r.srFailed.eraseDups.map (·.val)) fun c p => (c.occur 2 0 .tile noRegion p 0).retireTile p
    let c := c.each (r.memFailed.eraseDups.map (·.val)) fun c p => (c.occur 2 6 .tile noRegion (tileAddress p 0) 0).retireTile p
    let us := r.unitsFailed.eraseDups.map (·.val)
    let c := c.each us fun c u => c.occur 11 0 .cipher noRegion u 0
    let c := ({ c with cipher := { c.cipher with unitsFailed := us } }).setReg Obj.cipherUnits (256 - us.length)
    { c with array := c.array.rebind [] (List.range 512) }

/-- SELF_TESTS_COMPLETE. -/
def execSelfTestsComplete (r : SelfTestResult) (s : State) : Host.Outcome State Fault Refusal := s.on fun c => c.selfTested r

/-! ### MOD_READY -/

/-- The trial that booted is confirmed in one write of the control block (R472). -/
def Chip.confirmTrial (c : Chip) : Chip :=
  if !c.start.trial then c
  else
    let x := c.emmc.slot c.start.bootedSlot
    c.writeControl fun e => { e with
      confirmed := c.start.bootedSlot, trial := 0
      rollbackMin := if e.rollbackMin.toNat < x.version.toNat then x.version else e.rollbackMin
      revoked := e.revoked ||| BitVec.ofNat 8 (mfRevoke x.image % 16) }

/-- The presence quote of this start (R479). -/
def Chip.makePresence (c : Chip) : Chip :=
  if !c.start.counterOk then c
  else
    match c.makeQuote (presenceNonce c.emmc.startCount.toNat) with
    | (some q, c) => { c with ident := { c.ident with presence := q } }
    | (none, c) => c

/-- Everything that must come before MOD_READY has come (Table 19-3). -/
def StartSeq.mayServe (s : StartSeq) : Bool :=
  s.stage == .processors && s.selfTested && (!s.kind.clearing || s.memoryWritten) && !s.dead

/-- The dictionary serves and MOD_READY is asserted. -/
def Chip.modReadyAssert (c : Chip) : Chip :=
  if c.board.phase != .on || !c.start.mayServe then c
  else
    let c := (c.loadSetKeys.confirmTrial).setStage .ready
    let c := { c with
      board := { c.board with modReady := true }
      start := { c.start with restored := c.start.kind.clearing }
      ident := { c.ident with mgmt := c.emmc.config.mgmt } }
    (c.startRecord.flushEarly).makePresence

/-- MOD_READY_ASSERT. -/
def execModReadyAssert (s : State) : Host.Outcome State Fault Refusal := s.on Chip.modReadyAssert

/-! ### Kept state (R457) -/

/-- A retained casting comes back into its slot with its footprint where it was, and its region images after it. -/
def Chip.reloadCasting (c : Chip) (slot : Nat) (k : Casting) : Chip :=
  let fps := c.mem.footprints.filter fun f => f.casting == slot
  let c := (c.dropFootprint slot).loadCasting slot k.image none false []
  if (c.array.casting slot).isNone then c.refreshMem
  else
    let c := c.dropFootprint slot
    let c := ({ c with mem := { c.mem with footprints := c.mem.footprints ++ fps } }).refreshMem
    c.each k.regions fun c r =>
      let h := regionIndex slot r.region
      match r.retained with
      | some b => (c.recastRegion h b none true []).setReg (Obj.recastCount h) 0
      | none => c

/-- Every retained casting is reloaded; scale factors stay as they were kept. -/
def Chip.reloadAll (c : Chip) : Chip :=
  let st := c.step
  let l := c.array.kept
  let c := { c with array := { c.array with kept := [] } }
  let c := c.each l fun c e => c.reloadCasting e.1 e.2
  { c with step := { c.step with scaleK := st.scaleK, grow := st.grow, nextK := st.nextK } }

/-- A site map whose casting did not come back is gone; the agreement on the latest begins again (R291, R457). -/
def Chip.reofferMaps (c : Chip) : Chip :=
  let maps := c.map.maps.filter fun e => (c.array.casting e.1).isSome
  let last := c.map.last.filter fun s => (c.array.casting s).isSome
  let c := { c with map := { c.map with maps := maps, last := last } }
  c.offerMap

/-- Journal and round control block are replayed, where the memory gives its data. -/
def Chip.replayKept (c : Chip) (reads : Bool) : Chip :=
  if reads then c.journalReplay else c.stateLostHalt 0

/-- Anneal rounds come back in their state; one that needs an ingot waits for it. -/
def Chip.restoreRounds (c : Chip) : Chip :=
  if c.reg Obj.rndEnable = 1 && c.rnd.ingotNeeded then c.setReg Obj.rndState 5 else c.refreshRounds

/-- The kept state is checked and restored, or the start begins again as ESCALATED. -/
def Chip.keptRestored (c : Chip) (k : KeptCheck) : Chip :=
  if c.board.phase != .on || c.start.stage != .ready || c.start.kind.clearing || c.start.restored then c
  else if !k.digestOk || !k.journalReadable then c.takeReset .escalated
  else
    let c := { c with start := { c.start with restored := true } }
    ((c.reloadAll.replayKept k.readsDeliver).restoreRounds).reofferMaps

/-- KEEPING_STATE_RESTORED. -/
def execKeepingStateRestored (k : KeptCheck) (s : State) : Host.Outcome State Fault Refusal := s.on fun c => c.keptRestored k

end Sys2Proof.Machine
end

