-- ==== Sys2Proof/Machine/Service.lean ====
section
/-! DEFINITION. Machine/Service.lean: the fault log's copy (R486), clearing of sticky bits (R445, R489), and the service
operations (R490 to R495). -/

namespace Sys2Proof.Machine

/-! ### The fault log's copy (R482, R486) -/

/-- Entries the eMMC copy holds. -/
def copyLimit : Nat := 4194304

/-- Every entry not yet copied is copied, or the copy fails and stops until the next start. -/
def Chip.copyLog (c : Chip) (written : Outcome1) : Chip :=
  let l := c.flt.entries.filter fun e => decide (c.flt.uncopied ≤ e.seq)
  if c.flt.copyStopped || l.isEmpty then c
  else
    match written with
    | .failed => ({ c with flt := { c.flt with copyStopped := true } }).occur 13 0 .svc noRegion 0 0
    | .ok =>
      let a := c.emmc.faultCopy ++ l
      { c with
        flt := { c.flt with uncopied := c.flt.nextSeq }
        emmc := { c.emmc with faultCopy := a.drop (a.length - copyLimit) } }

/-- FAULT_LOG_COPY, while core 0 runs and the eMMC takes commands. -/
def execFaultLogCopy (written : Outcome1) (s : State) : Host.Outcome State Fault Refusal :=
  s.on fun c => if c.board.phase == .on && c.start.core0Out && c.board.emmcOpen then c.copyLog written else c

/-! ### Clearing sticky bits -/

/-- Bits of a family that stay set because their condition applies (R11, R30). -/
def Chip.heldSticky (c : Chip) (key : Nat) : Nat := if key = Obj.stickyFamily 0 then c.board.heldBits else 0

/-- A w1c write clears the bits written as 1; a condition that still applies sets its bit again. -/
def stickyRule (d : ObjDef) : WriteRule where
  cond := noCond
  eff := fun c _ key b => let held := c.reg key &&& c.heldSticky key
    let c := c.store d key b
    c.setReg key (c.reg key ||| held)

/-- STICKY_FAMILY_CLEAR. -/
def execStickyFamilyClear (rq : Fin 17) (family : Fin 32) (v : BitVec 32) (s : State) : Host.Outcome State Fault Refusal :=
  s.on fun c => c.writeAs rq (Obj.stickyFamily family) ObjType.u32.code (leBytes 4 v.toNat) stickyRule

/-- REGION_STICKY_CLEAR. -/
def execRegionStickyClear (rq : Fin 17) (h : Fin 256) (v : BitVec 64) (s : State) : Host.Outcome State Fault Refusal :=
  s.on fun c => c.writeAs rq (Obj.regionSticky h) ObjType.u64.code (leBytes 8 v.toNat) stickyRule

/-! ### Service operations -/

/-! Reasons of Table 21-6. -/

def svcOk : Nat := 0
def svcState : Nat := 1
def svcArg : Nat := 2
def svcPeer : Nat := 3
def svcVersion : Nat := 4
def svcEmmc : Nat := 5

/-- A write-back failure of R254 holds the module (R493). -/
def Chip.parkedHalt (c : Chip) : Bool :=
  c.reg Obj.stepState == 6 && c.upd.running && c.upd.parkedLost && !c.upd.stuck.isEmpty

/-- The stuck shards that a PARKED_RETRY names. -/
def Chip.retryOf (c : Chip) (arg : Nat) : List (BitVec 32) :=
  if arg = 0xFFFFFFFF then c.upd.stuck else c.upd.stuck.filter fun x => x.toNat == arg

/-- Modules that share a group with this one under the latest map. -/
def Chip.groupPeers (c : Chip) : List (BitVec 16) := (c.lastMap.map c.mapPeers).getD []

/-- What already fails when an operation starts (Tables 21-5 and 21-6); 0 where nothing does. -/
def Chip.svcCheck (c : Chip) (op arg : Nat) : Nat :=
  match op with
  | 1 => firstReason [(c.reg Obj.stepState != 0, svcState), (arg != 0, svcArg),
      (c.groupPeers.any fun p => (c.bzFlow p.toNat).lost, svcPeer)]
  | 2 => firstReason [(!c.parkedHalt, svcState), ((c.retryOf arg).isEmpty, svcArg),
      ((c.retryOf arg).any fun x => ((c.ownShard x).map fun s => (c.bzFlow s.peer.toNat).lost).getD true, svcPeer)]
  | 3 => firstReason [(decide (543 < arg), svcArg)]
  | 4 => firstReason [(decide (191 < arg) || decide (2 ≤ c.reg (Obj.subchState arg)), svcArg)]
  | _ => firstReason [(arg != 0, svcArg)]

/-- What an operation does at its start. -/
def Chip.svcBegin (c : Chip) (op arg : Nat) : Chip :=
  match op with
  | 1 => c.offerMap
  | 2 => c.each (c.retryOf arg) Chip.writeBack
  | 3 => c.enqueueLoader (.tileTest arg)
  | _ => c

/-- SERVICE_OP: one operation at a time, on the value SERVICE_ARG holds at the write. -/
def serviceRule : WriteRule where
  cond := fun c _ _ _ _ => if c.reg Obj.serviceState = 1 then stState else stOk
  eff := fun c o _ b =>
    let op := leNat b
    let arg := c.reg Obj.serviceArg
    let r := c.svcCheck op arg
    let c := ({ c with svc := ⟨op, BitVec.ofNat 64 arg, some o, BitVec.ofNat 8 r⟩ }).setReg Obj.serviceState 1
    if r = svcOk then c.svcBegin op arg else c

/-- SERVICE_ARG is refused while an operation runs. -/
def serviceArgRule (d : ObjDef) : WriteRule where
  cond := fun c _ _ _ _ => if c.reg Obj.serviceState = 1 then stState else stOk
  eff := fun c _ key b => c.store d key b

def serviceWrite (rq : Fin 17) (op : Byte) (s : State) : Host.Outcome State Fault Refusal :=
  s.on fun c => c.write rq Obj.serviceOp [op] serviceRule

/-- REJOIN. -/
def execRejoin (rq : Fin 17) (s : State) : Host.Outcome State Fault Refusal := serviceWrite rq 1 s

/-- PARKED_RETRY. -/
def execParkedRetry (rq : Fin 17) (s : State) : Host.Outcome State Fault Refusal := serviceWrite rq 2 s

/-- TILE_TEST. -/
def execTileTest (rq : Fin 17) (s : State) : Host.Outcome State Fault Refusal := serviceWrite rq 3 s

/-- SCRUB_NOW. -/
def execScrubNow (rq : Fin 17) (s : State) : Host.Outcome State Fault Refusal := serviceWrite rq 4 s

/-- LOG_FLUSH. -/
def execLogFlush (rq : Fin 17) (s : State) : Host.Outcome State Fault Refusal := serviceWrite rq 5 s

/-! ### The end of an operation -/

/-- The operation ends in state 2, or in state 3 with SVC_FAIL; its completion carries the reason. -/
def Chip.svcEnd (c : Chip) (reason : Nat) : Chip :=
  let o := c.svc.origin
  let c := ({ c with svc := Service.reset }).setReg Obj.serviceState (if reason = svcOk then 2 else 3)
  let c := if reason = svcOk then c else c.occurCode 13 1 .svc reason noRegion 0 0
  c.completeOpt o Obj.serviceOp reason 0

/-- A REJOIN ends as the exchange has ended; while answers are missing only a failure to answer ends it. -/
def Chip.rejoinEnd (c : Chip) (result : Outcome1) : Chip :=
  let st := c.reg Obj.siteMapState
  if c.lastMap.isNone || st == 2 then c.svcEnd svcOk
  else if st == 3 then c.svcEnd svcVersion
  else if result = .failed then c.svcEnd svcPeer
  else c

/-- Staged state is at its peers: the shards are no longer stuck, and once none is the engines write DONE and the module
stands with STEP_STATE 0 (R493). -/
def Chip.retryEnd (c : Chip) (arg : Nat) : Chip :=
  let l := c.retryOf arg
  let c := { c with upd := { c.upd with stuck := c.upd.stuck.filter fun x => !l.contains x } }
  if c.upd.stuck.isEmpty then
    ((({ c with upd := { c.upd with parkedLost := false } }).setReg Obj.stepState 0).updateDone).svcEnd svcOk
  else c.svcEnd svcOk

/-- The tile under test is free again, or retired. -/
def Chip.testEnd (c : Chip) (p : Nat) (result : Outcome1) : Chip :=
  let c := match result with
    | .ok => { c with array := c.array.setUse p .spare }
    | .failed => (c.occur 2 0 .tile noRegion p 0).retireTile p
  c.loaderNext.svcEnd svcOk

/-- One patrol-scrub pass of a sub-channel: of the bursts it reads, those that are poisoned are met as R190 gives; errors
of the array reach the model with MEM_PATROL_SCRUB. -/
def Chip.scrubPass (c : Chip) (q : Nat) : Chip :=
  let l := c.mem.tags.filter fun e => e.2.poison && c.subchannelAt (32 * e.1) == q
  c.each l fun c e => c.patrolScrub e.1 []

/-- Every sillage record not yet in the spill area goes there (R274). -/
def Chip.spillAll (c : Chip) : Chip :=
  let l := c.sil.ring.drop c.sil.spilled
  { c with
    sil := { c.sil with spilled := c.sil.ring.length }
    emmc := { c.emmc with spill := l.foldl spillPush c.emmc.spill } }

/-- Log and records are copied, or a write has failed; copying that had stopped before fails as well. -/
def Chip.flushEnd (c : Chip) (result : Outcome1) : Chip :=
  if c.flt.copyStopped || c.sil.spillStopped then c.svcEnd svcEmmc
  else
    match result with
    | .ok => ((c.copyLog .ok).spillAll).svcEnd svcOk
    | .failed => (c.copyLog .failed).svcEnd svcEmmc

/-- The operation in progress ends. -/
def Chip.svcComplete (c : Chip) (result : Outcome1) : Chip :=
  if c.svc.origin.isNone then c
  else if c.svc.reason.toNat ≠ svcOk then
    let r := c.svc.reason.toNat
    match c.array.loader with
    | .tileTest _ :: _ => c.loaderNext.svcEnd r
    | _ => c.svcEnd r
  else
    match c.svc.op with
    | 3 =>
      match c.array.loader with
      | .tileTest p :: _ => c.testEnd p result
      | _ => c
    | 1 => c.rejoinEnd result
    | 2 => if result = .ok then c.retryEnd c.svc.arg.toNat else c.svcEnd svcPeer
    | 4 => (c.scrubPass c.svc.arg.toNat).svcEnd svcOk
    | _ => c.flushEnd result

/-- SERVICE_OP_COMPLETE. -/
def execServiceOpComplete (result : Outcome1) (s : State) : Host.Outcome State Fault Refusal := s.on fun c => c.svcComplete result

end Sys2Proof.Machine
end

