-- ==== Sys2Proof/Machine/Views.lean ====
section
/-! DEFINITION. Machine/Views.lean: what a read of each readable object returns (R8, R429, R441 to R443, R445 and the object
tables of every chapter). Most objects stand in the register file or as bytes of their own; those below are read off the
function that owns them. -/

namespace Sys2Proof.Machine

/-! ### Text of the identity objects (Table 0-2) -/

/-- ASCII text as bytes. -/
def textBytes (s : String) : Bytes := s.toList.map fun ch => BitVec.ofNat 8 ch.toNat

/-! ### Management port and requesters (Table 17-9) -/

/-- The MGMT record in force at this start (Table 20-8); none of it set where the record is absent (R477). -/
def Chip.mgmtRecord (c : Chip) : Bytes := (c.ident.mgmt).getD (zeros 22 ++ leBytes 2 4872)

/-- REQ_LEVEL: 0xFF where the requester is not in the table. -/
def Chip.levelCode (c : Chip) (n : Nat) : Nat := (c.level n).getD 0xFF

/-- REQ_EVENT_ADDR: the address as IPv6, then the port; requester 0 has none. -/
def Chip.eventAddr (c : Chip) (n : Nat) : Bytes :=
  match c.requester n with
  | some q => beBytes 16 q.eventAddr.toNat ++ leBytes 2 q.eventPort.toNat
  | none => []

/-! ### Tiles (Table 4-8) -/

/-- A byte of TILE_STATE_MAP; the table has no code for a spare that is under test (DESIGN CHOICE, assumption log 3). -/
def Chip.tileCode (c : Chip) (p : Nat) : Byte :=
  match c.array.useOf p with
  | .bound => if (c.tile p).status = .faulted then 3 else 0
  | .spare => 1
  | .failed => 2
  | .underTest => Config.freeValue 8 c.free

/-! ### The patina (R230, Table 8-6) -/

/-- k of a scale index as it is fixed for the next step. -/
def Chip.nextScale (c : Chip) (i : Nat) : BitVec 8 := Sparse.get (Sparse.get 0#8 c.step.scaleK i) c.step.nextK i

/-- ACC_MAX × 2^K as binary32. -/
def accMaxValue (r : DecisionRecord) : Nat :=
  (Fmt.f32.deliverNum .rne ((Fmt.f32.decode r.accMax.toNat).scale (signed 8 r.k.toNat))).1

/-- An entry of PATINA_TABLE. -/
def Chip.patinaEntry (c : Chip) (layer : Nat) : Bytes :=
  let last := Sparse.get DecisionRecord.zero c.step.latest (2 * layer)
  let dropped := c.step.patina.foldl (fun n r => n + (Sparse.get DecisionRecord.zero r (2 * layer)).dropped.toNat) 0
  leBytes 2 layer ++ leBytes 1 (c.selectForm layer) ++ leBytes 1 (if c.step.patina.isEmpty then 0xFF else c.windowOcc layer) ++
  leBytes 1 (c.nextScale (2 * layer)).toNat ++
  leBytes 1 (if c.step.held.contains (2 * layer + 1) then (c.nextScale (2 * layer + 1)).toNat else 0x80) ++ zeros 2 ++
  leBytes 4 (Sparse.get 0 c.step.grow (2 * layer)) ++ leBytes 4 (Sparse.get 0 c.step.grow (2 * layer + 1)) ++
  leBytes 4 (narrow32 (Fmt.f64.sqrt false .rne (normTerm last)).1) ++ leBytes 4 (accMaxValue last) ++
  leBytes 4 (min dropped 0xFFFFFFFF) ++ zeros 4

/-- Layers in ascending order. -/
def ascending (l : List Nat) : List Nat := l.foldr (fun x r => (r.filter fun y => decide (y < x)) ++ x :: r.filter fun y => decide (x < y)) []

def Chip.patinaTable (c : Chip) : Bytes := ((ascending c.layersHeld).map c.patinaEntry).flatten

/-! ### Site-link flow contexts (Table 14-7) -/

def flowContexts : Nat := 16384

/-- Entries of SLK_FLOW_TABLE. -/
def Chip.flowTable (c : Chip) : Bytes :=
  ((List.range (flowContexts - 384)).map fun i => padTo 32 (c.context (384 + i)).entry).flatten

/-- Open messages and unacknowledged fragments of a context (DESIGN CHOICE, assumption log 52). -/
def FlowContext.stateBytes (x : FlowContext) : Bytes :=
  let sent := x.tx.foldl (fun n m => n + (m.next - m.base - m.held.length)) 0
  leBytes 1 (min 255 (x.rx.length + x.tx.length)) ++ leBytes 4 (sent + x.unackedRx)

def Chip.flowStates (c : Chip) : Bytes := ((List.range flowContexts).map fun i => (c.context i).stateBytes).flatten

/-! ### Records and logs -/

def Chip.oldestRecord (c : Chip) : Nat := ((c.heldRecords.head?).map fun r => r.1).getD c.sil.nextSeq

def Chip.recordsFrom (c : Chip) (n : Nat) : Bytes := ((c.heldRecords.filter fun r => decide (n ≤ r.1)).map fun r => r.2).flatten

/-- Fault-log entries held in the eMMC copy or the ring, in SEQ order, each once (R486). -/
def Chip.heldEntries (c : Chip) : List FaultEntry :=
  let first := ((c.flt.entries.head?).map fun e => e.seq).getD c.flt.nextSeq
  (c.emmc.faultCopy.filter fun e => decide (e.seq < first)) ++ c.flt.entries

def Chip.oldestEntry (c : Chip) : Nat := ((c.heldEntries.head?).map fun e => e.seq).getD c.flt.nextSeq

def Chip.entriesFrom (c : Chip) (n : Nat) : Bytes := ((c.heldEntries.filter fun e => decide (n ≤ e.seq)).map FaultEntry.bytes).flatten

/-- Entries of MEASUREMENTS (R474). -/
def measurementBytes (i : Nat) (m : Measurement) : Bytes :=
  leBytes 2 m.kind.toNat ++ zeros 2 ++ leBytes 4 (i + 1) ++ leBytes 8 m.mono ++ padTo 64 m.digest

def Chip.measurementLog (c : Chip) : Bytes :=
  (((List.range c.ident.entries.length).zip c.ident.entries).map fun x => measurementBytes x.1 x.2).flatten

/-- Peers enrolled, as PEER records carry them (Table 20-8). -/
def Chip.peerList (c : Chip) : Bytes :=
  (c.emmc.enrolled.map fun x => leBytes 1 x.1.toNat ++ zeros 1 ++ leBytes 2 x.2.1.toNat ++ padTo 32 x.2.2).flatten

/-! ### One table of views -/

/-- Objects whose value is not that of the register file: key of the first element, and the value for element `n`. -/
def boardViews : List (Nat × (Chip → Nat → Bytes)) := [
  (Obj.vendorName, fun _ _ => textBytes "Tilmin Devices"),
  (Obj.productCode, fun _ _ => textBytes "CW4872"),
  (Obj.orderingCode, fun _ _ => textBytes "CW4872-LC1728"),
  (Obj.boardBuild, fun _ _ => Config.boardBuild),
  (Obj.serialNumber, fun _ _ => Config.serialNumber),
  (Obj.mgmtMac, fun _ _ => padTo 6 Config.mgmtMac),
  (Obj.mgmtIpv6, fun c _ => slice c.mgmtRecord 0 17),
  (Obj.mgmtIpv4, fun c _ => slice c.mgmtRecord 17 5),
  (Obj.mgmtLinkUp, fun c _ => leBytes 1 (if c.dap.linkUp then 1 else 0)),
  (Obj.dapUdpPort, fun c _ => slice c.mgmtRecord 22 2),
  (Obj.dapTransfersOpen, fun c _ => leBytes 1 c.dap.transfers.length),
  (Obj.reqLevel 0, fun c n => leBytes 1 (c.levelCode n)),
  (Obj.reqEventAddr 0, fun c n => c.eventAddr n),
  (Obj.traySlot, fun c _ => leBytes 1 c.board.slotPins.toNat),
  (Obj.cage0Present, fun c _ => leBytes 1 (if c.board.cage0.present then 1 else 0)),
  (Obj.cage1Present, fun c _ => leBytes 1 (if c.board.cage1.present then 1 else 0)),
  (Obj.timeNow, fun c _ => leBytes 8 c.now64),
  (Obj.timeMono, fun c _ => leBytes 8 c.time.mono),
  (Obj.timeValid, fun c _ => leBytes 1 (if c.timeValid then 1 else 0)),
  (Obj.timeOffset, fun c _ => leBytes 8 (unsigned 64 c.time.slew)),
  (Obj.tilesSpareFree, fun c _ => leBytes 2 c.array.spares.length),
  (Obj.tileStateMap, fun c _ => (List.range 544).map c.tileCode),
  (Obj.tilesRetired, fun c _ => (c.emmc.tilesRetired.map fun p => leBytes 2 p).flatten)]

def stepViews : List (Nat × (Chip → Nat → Bytes)) := [
  (Obj.patinaTable, fun c _ => c.patinaTable),
  (Obj.scaleTable, fun c _ => c.scaleTableBytes),
  (Obj.gatherLedger, fun c _ => c.map.ledger),
  (Obj.ckptImport, fun _ _ => []),
  (Obj.accordHistory, fun c _ => c.rnd.history.flatten),
  (Obj.accordLast, fun c _ => c.rnd.history.getLast?.getD []),
  (Obj.rndPartnerState, fun c _ => (List.range 64).map fun j => BitVec.ofNat 8 (c.partnerState j)),
  (Obj.rndPartnerMerged, fun c _ => ((List.range 64).map fun j => leBytes 4 (Sparse.get 0 c.rnd.partnerMerged j)).flatten),
  (Obj.ingotState, fun c _ => leBytes 1 (if c.reg Obj.ingotState = 0 ∧ c.ingotSending then 4 else c.reg Obj.ingotState)),
  (Obj.slkStartCount, fun c _ => leBytes 8 c.emmc.startCount.toNat),
  (Obj.slkFlowTable, fun c _ => c.flowTable),
  (Obj.slkFlowState, fun c _ => c.flowStates),
  (Obj.cipherKeyState, fun c _ => c.keyStates),
  (Obj.dmaFree, fun c _ => leBytes 2 ((List.range 512).filter fun ch => c.reg (Obj.dmaOwner ch) == 0).length),
  (Obj.dmaDescriptors 0, fun c n => padTo 4096 (c.dmaChan n).descs.flatten),
  (Obj.dmaCompletions 0, fun c n => (c.dmaChan n).ring.flatten),
  (Obj.slSeqNext, fun c _ => leBytes 8 c.sil.nextSeq),
  (Obj.slSeqOldest, fun c _ => leBytes 8 c.oldestRecord),
  (Obj.slRead, fun c _ => c.recordsFrom (c.reg Obj.slReadFrom)),
  (Obj.replayTolerances, fun c _ => if (c.blob Obj.replayTolerances).length = 24 then c.blob Obj.replayTolerances
    else leBytes 4 0x3C800000 ++ leBytes 4 0x3C800000 ++ leBytes 4 0x35800000 ++ leBytes 4 0x3C800000 ++
      leBytes 4 0x3C800000 ++ leBytes 4 0x3B800000)]

def serviceViews : List (Nat × (Chip → Nat → Bytes)) := [
  (Obj.startCount, fun c _ => leBytes 8 c.emmc.startCount.toNat),
  (Obj.faultLog, fun c _ => c.entriesFrom (c.reg Obj.faultReadFrom)),
  (Obj.faultSeqNext, fun c _ => leBytes 8 c.flt.nextSeq),
  (Obj.faultSeqOldest, fun c _ => leBytes 8 c.oldestEntry),
  (Obj.stickySummary, fun c _ => leBytes 4 c.stickySummary),
  (Obj.fwActiveSlot, fun c _ => leBytes 1 c.start.bootedSlot.val),
  (Obj.fwVersionActive, fun c _ => leBytes 4 c.start.fwVersion.toNat),
  (Obj.fwVersionInactive, fun c _ =>
    leBytes 4 (if c.emmc.slotState c.inactive = 2 then (c.emmc.slot c.inactive).version.toNat else 0)),
  (Obj.fwInactiveState, fun c _ => leBytes 1 (c.emmc.slotState c.inactive)),
  (Obj.fwRollbackMin, fun c _ => leBytes 4 c.emmc.rollbackMin.toNat),
  (Obj.fwInstall, fun c _ => (c.emmc.slot c.inactive).image),
  (Obj.pufState, fun c _ => leBytes 1 c.ident.puf.toNat),
  (Obj.measurements, fun c _ => c.measurementLog),
  (Obj.configRecords, fun c _ => c.emmc.config.raw),
  (Obj.configVersion, fun c _ => leBytes 4 c.emmc.config.version.toNat),
  (Obj.peersEnrolled, fun c _ => c.peerList)]

def views : List (Nat × (Chip → Nat → Bytes)) := boardViews ++ stepViews ++ serviceViews

/-! ### Reading an object -/

/-- Elements that a read treats as absent (R442): those of `Chip.present`, and partner sites outside RND_SITES. Family 31
has a time of its own although it has no bits (R485). -/
def Chip.readable (c : Chip) (key : Nat) : Bool :=
  let ix := key / 256
  if 0x6020 ≤ ix ∧ ix < 0x6060 then bit (c.reg Obj.rndSites) (ix - 0x6020)
  else if 0x8010 ≤ ix ∧ ix < 0x8030 then true
  else c.present key

/-- The bytes a readable object returns: the fixed size of its type, or its STR, BLOB or DOMAIN bytes. -/
def Chip.view (c : Chip) (d : ObjDef) (key : Nat) : Bytes :=
  if key % 256 = 0 then leBytes 1 d.dflt
  else if !c.readable key then
    if d.index = 0x1020 ∧ d.sub = 1 then [0xFF#8] else leBytes d.ty.size d.dflt
  else
    match views.find? fun e => e.1 == objKey d.index d.sub with
    | some e => e.2 c (key / 256 - d.index)
    | none => if d.ty.fixed then leBytes d.ty.size (c.reg key) else c.blob key

end Sys2Proof.Machine
end

