-- ==== Sys2Proof/Machine/Registry.lean ====
section
/-! DEFINITION. Machine/Registry.lean: the rule of every writable object. Objects named here have conditions or effects of
their own; every other writable object is stored (R8, R9). -/

namespace Sys2Proof.Machine

/-- CASTING_STAGE holds the image for the next load; it is not read back. -/
def castingStageRule : WriteRule where
  cond := noCond
  eff := fun c _ key b => c.setBlob key b

/-- REPLAY_SOURCE is stored and the operation is over. -/
def replaySourceRule (d : ObjDef) : WriteRule where
  cond := noCond
  eff := fun c o key b => (c.store d key b).complete o key 0 0

/-- REQ_EVENT_MASK: requester 0 receives no events (R442). -/
def eventMaskRule (d : ObjDef) : WriteRule where
  cond := fun _ _ key _ _ => if key / 256 = 0x1020 then stState else stOk
  eff := fun c _ key b => c.store d key b

/-- MEM_RETIRE_AUTO: candidates that waited are looked at again. -/
def memRetireAutoRule (d : ObjDef) : WriteRule where
  cond := noCond
  eff := fun c _ key b => (c.store d key b).retireNext

/-- PATINA_WINDOW: the steps beyond a shorter window leave it. -/
def patinaWindowRule (d : ObjDef) : WriteRule where
  cond := noCond
  eff := fun c _ key b =>
    let c := c.store d key b
    { c with step := { c.step with patina := c.step.patina.take (leNat b) } }

/-- Rules by the key of an object's first element; `n` is the number of the element written. -/
def boardRules (d : ObjDef) (n : Nat) : List (Nat × WriteRule) := [
  (Obj.reqEventMask 0, eventMaskRule d),
  (Obj.powerLimit, powerLimitRule),
  (Obj.locate, locateRule d),
  (Obj.vcoreCeiling, vcoreCeilingRule),
  (Obj.resetRequest, resetRequestRule),
  (Obj.timeRefSelect, timeRefSelectRule d),
  (Obj.timeSet, timeSetRule),
  (Obj.ptpDomain, ptpRule d),
  (Obj.ptpPriority1, ptpRule d),
  (Obj.ptpPriority2, ptpRule d),
  (Obj.ptpSyncLogInterval, ptpRule d),
  (Obj.ptpPortEnable, ptpRule d),
  (Obj.ptpGmCapable, ptpRule d),
  (Obj.castingStage, castingStageRule),
  (Obj.castingLoad, castingLoadRule),
  (Obj.castingUnload, castingUnloadRule),
  (Obj.castingControl 0, castingControlRule),
  (Obj.tilesRetiredClear, tilesRetiredClearRule),
  (Obj.regionImage 0, regionImageRule),
  (Obj.regionControl 0, regionControlRule d),
  (Obj.memRetireAuto, memRetireAutoRule d),
  (Obj.memRetireRequest, memRetireRequestRule),
  (Obj.memRetiredClear, memRetiredClearRule),
  (Obj.dmaEnable 0, dmaEnableRule n),
  (Obj.dmaDescriptors 0, dmaDescriptorsRule n),
  (Obj.dmaStartDesc 0, dmaStartDescRule n d)]

def stepRules (d : ObjDef) (n : Nat) : List (Nat × WriteRule) := [
  (Obj.stepControl, stepControlRule),
  (Obj.patinaWindow, patinaWindowRule d),
  (Obj.patinaEmpty, patinaEmptyRule),
  (Obj.updateTable, updateTableRule d),
  (Obj.lrSchedule, lrScheduleRule d),
  (Obj.ckptRequest, ckptRequestRule),
  (Obj.ckptImport, ckptImportRule),
  (Obj.siteMap, siteMapRule d),
  (Obj.bzModuleNumber, bzNumberRule d),
  (Obj.bzPortEnable 0, bzEnableRule n d),
  (Obj.rndControl, rndControlRule),
  (Obj.rndEnable, rndEnableRule d),
  (Obj.staleBound, staleBoundRule d),
  (Obj.rndHistory, rndHistoryRule d),
  (Obj.roundTable, roundTableRule d),
  (Obj.slkRekey, slkRekeyRule),
  (Obj.slkRestart, slkRestartRule),
  (Obj.slkFlowTable, flowTableRule),
  (Obj.slkPortEnable 0, slkEnableRule n d)]

def serviceRules (d : ObjDef) : List (Nat × WriteRule) := [
  (Obj.cipherKeyLoad, keyLoadRule),
  (Obj.cipherKeyErase, keyEraseRule),
  (Obj.slFpWatch, fpWatchRule d),
  (Obj.replaySource, replaySourceRule d),
  (Obj.replayControl, replayRule),
  (Obj.replayTolerances, tolerancesRule d),
  (Obj.stickyFamily 0, stickyRule d),
  (Obj.regionSticky 0, stickyRule d),
  (Obj.serviceOp, serviceRule),
  (Obj.serviceArg, serviceArgRule d),
  (Obj.fwInstall, fwInstallRule),
  (Obj.fwActivate, fwActivateRule),
  (Obj.pufEnrol, pufEnrolRule),
  (Obj.hallmarkNonce, hallmarkNonceRule),
  (Obj.configRecords, configRecordsRule),
  (Obj.peerEnrol, peerEnrolRule)]

/-- The rule of an object. -/
def ruleOf (key : Nat) (d : ObjDef) : WriteRule :=
  let n := key / 256 - d.index
  match (boardRules d n ++ stepRules d n ++ serviceRules d).find? fun e => e.1 == objKey d.index d.sub with
  | some e => e.2
  | none => WriteRule.plain d

end Sys2Proof.Machine
end

