-- ==== Sys2Proof/Machine/Dap.lean ====
section
/-! DEFINITION. Machine/Dap.lean: the dictionary access protocol (R420 to R438): messages and their checks, transaction ids,
items, DOMAIN transfers and events. -/

namespace Sys2Proof.Machine

/-! ### Messages (R421, R422) -/

/-- Longest message. -/
def dapMax : Nat := 4608

/-- An item as a request carries it (Table 17-3). -/
structure DapItem where
  op : Nat
  type : Nat
  index : Nat
  sub : Nat
  flags : Nat
  len : Nat
  offset : Nat
  value : Bytes
deriving DecidableEq, Repr, Inhabited

def DapItem.key (i : DapItem) : Nat := objKey i.index i.sub
def DapItem.isWrite (i : DapItem) : Bool := i.op == 2 || i.op == 4
def DapItem.isLast (i : DapItem) : Bool := i.flags % 2 == 1

/-- An item as a response carries it: status, type, flags, value. -/
structure DapAnswer where
  item : DapItem
  status : Nat
  type : Nat
  flags : Nat
  value : Bytes
deriving DecidableEq, Repr, Inhabited

def pad4 (n : Nat) : Nat := alignUp 4 n

def DapAnswer.bytes (a : DapAnswer) : Bytes :=
  let i := a.item
  beBytes 1 i.op ++ beBytes 1 a.type ++ beBytes 2 i.index ++ beBytes 1 i.sub ++ beBytes 1 a.status ++ beBytes 1 a.flags ++
  zeros 1 ++ beBytes 2 a.value.length ++ zeros 2 ++ beBytes 4 i.offset ++ padTo (pad4 a.value.length) a.value

/-- A message with its tag: zero for requester 0, else under the requester's key. -/
def Chip.dapMessage (c : Chip) (n kind count xid xidHigh status : Nat) (time : Nat) (body : Bytes) : Bytes :=
  let m := beBytes 1 1 ++ beBytes 1 kind ++ zeros 2 ++ beBytes 2 n ++ beBytes 2 count ++ beBytes 4 xid ++
    beBytes 4 (56 + body.length) ++ beBytes 8 c.emmc.startCount.toNat ++ beBytes 4 xidHigh ++ beBytes 1 status ++ zeros 3 ++
    beBytes 8 time ++ body
  if n = 0 then m ++ zeros 16
  else
    match c.slotKey (3055 + n) with
    | some k => m ++ cmac k m
    | none => m ++ leBytes 16 (Config.freeValue 128 c.free).toNat

/-- The datagram of an event (Table 17-6). -/
def Chip.eventMessage (c : Chip) (n : Nat) (e : Event) : Bytes :=
  c.dapMessage n 3 1 e.seq 0 0 (unsigned 64 e.time)
    (beBytes 2 e.code.toNat ++ beBytes 1 e.status.toNat ++ zeros 1 ++ beBytes 2 e.index.toNat ++ beBytes 1 e.sub.toNat ++ zeros 1 ++
      beBytes 4 e.originXid.toNat ++ zeros 4 ++ beBytes 8 e.detail.toNat ++ beBytes 8 e.address.toNat)

/-- A response leaves, where the management port is up. -/
def Chip.sendResponse (c : Chip) (n : Nat) (dest : BitVec 128) (m : Bytes) : Chip :=
  if c.dap.linkUp then c.emit (.dap n dest m) else c

/-! ### The checks of R424 -/

def dapKind (m : Bytes) : Nat := beAt m 1 1
def dapRq (m : Bytes) : Nat := beAt m 4 2
def dapCount (m : Bytes) : Nat := beAt m 6 2
def dapXid (m : Bytes) : Nat := beAt m 8 4
def dapStart (m : Bytes) : Nat := beAt m 0x10 8

/-- Check 1: the header of a request or of an acknowledgement. -/
def dapHeaderOk (m : Bytes) : Bool :=
  let k := dapKind m
  decide (56 ≤ m.length) && decide (m.length ≤ dapMax) && beAt m 0 1 == 1 && (k == 1 || k == 4) && beAt m 2 2 == 0 &&
  (if k == 1 then decide (1 ≤ dapCount m) && decide (dapCount m ≤ 64) else dapCount m == 0 && m.length == 56) &&
  beAt m 0x0C 4 == m.length && beAt m 0x18 4 == 0 && beAt m 0x1C 4 == 0 && beAt m 0x20 8 == 0

/-- Check 2: the requester, at an address of its prefix. -/
def Chip.dapFrom (c : Chip) (n : Nat) (source : BitVec 128) : Bool :=
  n == 0 ||
  match c.requester n with
  | some q => q.address.toNat / 2 ^ (128 - q.prefixBits) == source.toNat / 2 ^ (128 - q.prefixBits)
  | none => false

/-- Check 3: the tag, with the use it makes of the cipher engine; an empty slot is an error there (R395). -/
def Chip.dapTag (c : Chip) (n : Nat) (m : Bytes) : Bool × Chip :=
  let body := m.take (m.length - 16)
  let tag := m.drop (m.length - 16)
  if n = 0 then (tag == zeros 16, c)
  else
    match c.slotKey (3055 + n) with
    | some k => let ok := cmac k body == tag; (ok, c.cipherUsed body.length ok)
    | none =>
      let (a, c) := c.freeNat 64
      (false, ((c.count Obj.cipherRequests 1 64).count Obj.cipherErrors 1 64).occurCode 11 1 .cipher csKeyEmpty noRegion a 0)

/-- A message discarded. -/
def Chip.dapDiscard (c : Chip) : Chip := c.count Obj.dapDiscards 1 64

/-- A tag that failed: at most one entry per requester and second. -/
def Chip.dapAuthFail (c : Chip) (n : Nat) : Chip :=
  let c := c.count Obj.dapAuthFailed 1 64
  let r := c.dap.req n
  let recent := match r.authLogged with
    | some t => decide (c.time.mono < t + 1000000000)
    | none => false
  if recent then c.setSticky 11 16
  else (c.setReq n { r with authLogged := some c.time.mono }).occur 11 4 .dap noRegion n 0

/-! ### Items -/

/-- Items of a request between header and tag, as far as they can be read, and whether the request breaks a form rule of
Table 17-7 (FORMAT). Parsing goes on past an item that breaks one, since a FORMAT response carries every item. -/
def dapItems : Nat → Bytes → List DapItem × Bool
  | 0, b => ([], !b.isEmpty)
  | n + 1, b =>
    if b.length < 16 then ([], true)
    else
      let op := beAt b 0 1
      let len := beAt b 8 2
      let held := if op = 1 ∨ op = 3 then 0 else len
      let i : DapItem := ⟨op, beAt b 1 1, beAt b 2 2, beAt b 4 1, beAt b 6 1, len, beAt b 12 4, slice b 16 held⟩
      let size := 16 + pad4 held
      let bad := op == 0 || decide (4 < op) || beAt b 5 1 != 0 || decide (1 < i.flags) || beAt b 7 1 != 0 || beAt b 10 2 != 0 ||
        (decide (op ≤ 2) && i.offset != 0) || (op == 1 && len != 0)
      if b.length < size then ([i], true)
      else let (l, r) := dapItems n (b.drop size); (i :: l, bad || r)

/-- Items that write an object of class C. -/
def DapItem.classC (i : DapItem) : Bool :=
  i.isWrite && ((Obj.lookup i.index i.sub).map fun d => decide (d.cls = .c)).getD false

/-- R431: one class C write at most, and then no other write. -/
def breaksR431 (l : List DapItem) : Bool :=
  l.any DapItem.classC && decide (1 < (l.filter DapItem.isWrite).length)

/-! ### Reads -/

/-- Open transfers, what reads and opened snapshots take effect on once all reads are made, and room for values. -/
structure ReadAcc where
  transfers : List Transfer
  /-- Objects whose snapshot was taken (false) or which were read to the end (true). -/
  touched : List (Nat × Bool)
  room : Nat
  answers : List DapAnswer

def Transfer.at (t : Transfer) (rq key : Nat) : Bool := t.rq == rq && t.key == key

def findTransfer (l : List Transfer) (rq key : Nat) : Option Transfer := l.find? fun t => t.at rq key
def dropTransfer (l : List Transfer) (rq key : Nat) : List Transfer := l.filter fun t => !t.at rq key

/-- R435: another transfer may open. -/
def transferRoom (l : List Transfer) (rq : Nat) : Bool :=
  decide ((l.filter fun t => t.rq == rq).length < 2) && decide (l.length < 16)

/-- A read item (OP 1). -/
def Chip.readItem (c : Chip) (rq room : Nat) (i : DapItem) : DapAnswer :=
  match Obj.lookup i.index i.sub with
  | none => ⟨i, stNoObject, i.type, 0, []⟩
  | some d =>
    if d.ty = .domain then ⟨i, stSegment, i.type, 0, []⟩
    else
      let st := c.readStatus rq d i.key
      if st ≠ stOk then ⟨i, st, i.type, 0, []⟩
      else if i.type ≠ 0 ∧ i.type ≠ d.ty.code then ⟨i, stTypeMismatch, i.type, 0, []⟩
      else
        let v := c.view d i.key
        if room < pad4 v.length then ⟨i, stTooBig, i.type, 0, []⟩ else ⟨i, stOk, d.ty.code, 0, v⟩

/-- Bytes of a snapshot that have been returned, from the ranges `l`. -/
def covered (n : Nat) (l : List (Nat × Nat)) : Bool :=
  (List.foldl (fun hi (_ : Nat) => l.foldl (fun h r => if r.1 ≤ h then Nat.max h r.2 else h) hi) 0 (List.range (l.length + 1))) == n

/-- A segment of an open snapshot. -/
def Transfer.segment (t : Transfer) (a : ReadAcc) (i : DapItem) : DapAnswer × ReadAcc :=
  let l := dropTransfer a.transfers t.rq t.key
  if t.data.length < i.offset then (⟨i, stSegment, i.type, 0, []⟩, { a with transfers := l ++ [t] })
  else
    let v := slice t.data i.offset i.len
    if a.room < pad4 v.length then (⟨i, stTooBig, i.type, 0, []⟩, { a with transfers := l ++ [t] })
    else
      let e := i.offset + v.length
      let t := { t with returned := t.returned ++ [(i.offset, e)] }
      let ans : DapAnswer := ⟨i, stOk, ObjType.domain.code, if t.data.length ≤ e then 1 else 0, v⟩
      if covered t.data.length t.returned then (ans, { a with transfers := l, touched := a.touched ++ [(t.key, true)] })
      else (ans, { a with transfers := l ++ [t] })

/-- A segment read item (OP 3). -/
def Chip.segRead (c : Chip) (rq : Nat) (a : ReadAcc) (i : DapItem) : DapAnswer × ReadAcc :=
  let no (st : Nat) : DapAnswer × ReadAcc := (⟨i, st, i.type, 0, []⟩, a)
  match Obj.lookup i.index i.sub with
  | none => no stNoObject
  | some d =>
    if d.ty ≠ .domain then no stSegment
    else if 4096 < i.len then no stLength
    else
      let st := c.readStatus rq d i.key
      let mine := findTransfer a.transfers rq i.key
      if st ≠ stOk then no st
      else if i.offset = 0 then
        if i.type ≠ 0 ∧ i.type ≠ d.ty.code then no stTypeMismatch
        else if mine.isNone && !transferRoom a.transfers rq then no stBusy
        else
          (⟨rq, i.key, false, c.view d i.key, []⟩ : Transfer).segment { a with touched := a.touched ++ [(i.key, false)] } i
      else
        match mine with
        | none => no stSegment
        | some t =>
          if t.write then no stSegment
          else if i.type ≠ 0 ∧ i.type ≠ d.ty.code then no stTypeMismatch
          else t.segment a i

/-- All reads of a request see the state `c` (R429). -/
def Chip.readAll (c : Chip) (rq : Nat) (items : List DapItem) : ReadAcc :=
  items.foldl (fun a i =>
    if i.op = 1 then
      let x := c.readItem rq a.room i
      { a with answers := a.answers ++ [x], room := a.room - pad4 x.value.length }
    else if i.op = 3 then
      let (x, a) := c.segRead rq a i
      { a with answers := a.answers ++ [x], room := a.room - pad4 x.value.length }
    else a) (⟨c.dap.transfers, [], dapMax - (56 + 16 * items.length), []⟩ : ReadAcc)

/-- What reads leave behind: a snapshot of DMA_COMPLETIONS frees its entries (R434), a checkpoint read whole ends its
export (R257). -/
def Chip.readEffect (c : Chip) (e : Nat × Bool) : Chip :=
  if e.2 then (if e.1 = Obj.ckptExport ∧ c.reg Obj.ckptState = 2 then c.endExport else c)
  else if 0x7100 ≤ e.1 / 256 ∧ e.1 / 256 < 0x7300 ∧ e.1 % 256 = 6 then (c.dmaTake (e.1 / 256 - 0x7100)).2
  else c

/-! ### Writes (R430, R434) -/

/-- What the checks of one write find: its status, and what it does where every write of the request passes. -/
inductive WriteTask where
  /-- OP 2: the value takes effect. -/
  | value (d : ObjDef) (key : Nat) (b : Bytes)
  /-- OP 4 that is not the last segment; `opened` at offset 0. -/
  | part (d : ObjDef) (key : Nat) (opened : Bool)
  /-- The last segment, with the whole value. -/
  | whole (d : ObjDef) (key : Nat) (b : Bytes) (opened : Bool)
  /-- A write that failed; `ruled` where the owning chapter refused it, with the value it refused. -/
  | refused (ruled : Option (ObjDef × Bytes))

structure WriteAcc where
  transfers : List Transfer
  /-- Transfers that a failed check at the last segment closes. -/
  closed : List (Nat × Nat)
  results : List (DapItem × Nat × WriteTask)

def WriteAcc.add (a : WriteAcc) (i : DapItem) (st : Nat) (t : WriteTask) : WriteAcc := { a with results := a.results ++ [(i, st, t)] }

/-- The checks of a whole value. -/
def Chip.valueStatus (c : Chip) (rq : Nat) (d : ObjDef) (i : DapItem) (b : Bytes) (others : List (Nat × Bytes)) : Nat × Bool :=
  let g := c.generalStatus rq d i.key i.type b
  if g ≠ stOk then (g, false)
  else let st := (ruleOf i.key d).cond c rq i.key b others; (st, decide (st ≠ stOk))

/-- A write item (OP 2). -/
def Chip.checkWrite (c : Chip) (rq : Nat) (others : List (Nat × Bytes)) (a : WriteAcc) (i : DapItem) : WriteAcc :=
  match Obj.lookup i.index i.sub with
  | none => a.add i stNoObject (.refused none)
  | some d =>
    if d.ty = .domain then a.add i stSegment (.refused none)
    else
      let (st, ruled) := c.valueStatus rq d i i.value others
      if st = stOk then a.add i d.doneStatus (.value d i.key i.value)
      else a.add i st (.refused (if ruled then some (d, i.value) else none))

/-- The checks of an opening: those that do not depend on the bytes. -/
def Chip.openStatus (c : Chip) (rq : Nat) (d : ObjDef) (l : List Transfer) (i : DapItem) : Nat :=
  let mine := findTransfer l rq i.key
  let rest := dropTransfer l rq i.key
  let c := { c with dap := { c.dap with transfers := rest } }
  let g := c.generalStatus rq d i.key i.type []
  if g ≠ stOk then g
  else
    let o := (ruleOf i.key d).opens c i.key
    if o ≠ stOk then o
    else if rest.any fun t => t.key == i.key && t.write then stState
    else if mine.isNone && !transferRoom rest rq then stBusy
    else stOk

/-- A segment appended to the bytes written so far; the object is checked again at the last one. -/
def Chip.checkSegment (c : Chip) (rq : Nat) (d : ObjDef) (others : List (Nat × Bytes)) (a : WriteAcc) (i : DapItem)
    (before : Bytes) (opened : Bool) : WriteAcc :=
  let rest := dropTransfer a.transfers rq i.key
  let b := before ++ i.value
  if i.isLast then
    let c := { c with dap := { c.dap with transfers := rest } }
    let (st, ruled) := c.valueStatus rq d i b others
    if st = stOk then ({ a with transfers := rest }).add i d.doneStatus (.whole d i.key b opened)
    else ({ a with transfers := rest, closed := a.closed ++ [(rq, i.key)] }).add i st
      (.refused (if ruled then some (d, b) else none))
  else ({ a with transfers := rest ++ [(⟨rq, i.key, true, b, []⟩ : Transfer)] }).add i stOk (.part d i.key opened)

/-- A segment write item (OP 4). -/
def Chip.checkSegWrite (c : Chip) (rq : Nat) (others : List (Nat × Bytes)) (a : WriteAcc) (i : DapItem) : WriteAcc :=
  let no (st : Nat) : WriteAcc := a.add i st (.refused none)
  match Obj.lookup i.index i.sub with
  | none => no stNoObject
  | some d =>
    if d.ty ≠ .domain then no stSegment
    else if 4096 < i.len then no stLength
    else if i.offset = 0 then
      let st := c.openStatus rq d a.transfers i
      if st ≠ stOk then no st else c.checkSegment rq d others a i [] true
    else
      match findTransfer a.transfers rq i.key with
      | none => no stSegment
      | some t =>
        if !t.write || i.offset != t.data.length then no stSegment
        else if !mayWrite ((c.level rq).getD 0) rq i.key then no stRights
        else if i.type ≠ d.ty.code then no stTypeMismatch
        else c.checkSegment rq d others a i t.data false

/-- All writes of a request are checked before any takes effect. -/
def Chip.checkAll (c : Chip) (rq : Nat) (items : List DapItem) : WriteAcc :=
  let others := (items.filter fun i => i.op == 2).map fun i => (i.key, i.value)
  items.foldl (fun a i =>
    if i.op = 2 then c.checkWrite rq others a i else if i.op = 4 then c.checkSegWrite rq others a i else a)
    (⟨c.dap.transfers, [], []⟩ : WriteAcc)

/-- Refused by the write's own checks. -/
def WriteTask.failed : WriteTask → Bool
  | .refused _ => true
  | _ => false

/-- A write takes effect. -/
def Chip.doWrite (c : Chip) (o : Origin) : WriteTask → Chip
  | .value d key b => (ruleOf key d).eff c o key b
  | .part d key opened => if opened then (ruleOf key d).began c else c
  | .whole d key b opened =>
    let c := if opened then (ruleOf key d).began c else c
    (ruleOf key d).eff c o key b
  | .refused _ => c

/-- A refused write leaves what its chapter says. -/
def Chip.noteRefusal (c : Chip) (x : DapItem × Nat × WriteTask) : Chip :=
  match x.2.2 with
  | .refused (some (d, b)) => (ruleOf x.1.key d).note c x.1.key b x.2.1
  | _ => c

/-! ### Executing the items of a request -/

/-- Answers in the order of the items: reads and writes each keep their own order. -/
def mergeAnswers : List DapItem → List DapAnswer → List DapAnswer → List DapAnswer
  | [], _, _ => []
  | i :: r, rs, ws =>
    if i.isWrite then
      match ws with
      | w :: ws => w :: mergeAnswers r rs ws
      | [] => mergeAnswers r rs []
    else
      match rs with
      | x :: rs => x :: mergeAnswers r rs ws
      | [] => mergeAnswers r [] ws

/-- An answer that counts as refused writes its entry; BUSY is counted (R435, R438). -/
def Chip.noteAnswer (c : Chip) (a : DapAnswer) : Chip :=
  let c := if a.status = stBusy then c.count Obj.dapBusy 1 64 else c
  c.refuse a.item.key a.status

/-- The items of one request: reads on the state as it stands, all writes or none, the answers as `send` sends them. -/
def Chip.execItems (c : Chip) (o : Origin) (items : List DapItem) (send : Chip → List DapAnswer → Chip) : Chip :=
  let ra := c.readAll o.rq items
  let c := { c with dap := { c.dap with transfers := ra.transfers } }
  let wa := c.checkAll o.rq items
  let failed := wa.results.any fun x => x.2.2.failed
  let ws := wa.results.map fun x =>
    (⟨x.1, if failed && !x.2.2.failed then stAborted else x.2.1, x.1.type, 0, []⟩ : DapAnswer)
  let answers := mergeAnswers items ra.answers ws
  let c := c.each ra.touched.eraseDups Chip.readEffect
  let c := send c answers
  let c := c.each wa.results Chip.noteRefusal
  let c := c.each answers Chip.noteAnswer
  if failed then
    { c with dap := { c.dap with transfers := c.dap.transfers.filter fun t => !wa.closed.contains (t.rq, t.key) } }
  else
    let c := { c with dap := { c.dap with transfers := wa.transfers } }
    c.each wa.results fun c x => c.doWrite o x.2.2

/-! ### Transaction ids (R427, R428) -/

inductive XidVerdict where
  | new
  | repeated (response : Bytes)
  | mismatch
  | stale
deriving DecidableEq, Repr, Inhabited

/-- Ids kept below H, H among them. -/
def xidWindow : Nat := 4096

/-- How far id `t` lies above `h`, modulo 2^32. -/
def xidAhead (h t : BitVec 32) : Nat := (t - h).toNat

def ReqState.verdict (r : ReqState) (t : BitVec 32) (tag : Bytes) : XidVerdict :=
  match r.high with
  | none => .new
  | some h =>
    if 1 ≤ xidAhead h t ∧ xidAhead h t ≤ 2 ^ 20 then .new
    else if xidAhead t h < xidWindow then
      match r.seen.find? fun s => s.xid == t with
      | none => .new
      | some s => if s.tag = tag then .repeated s.response else .mismatch
    else .stale

/-- A new id is taken: H moves where the id is newer, and what falls below the window is forgotten. -/
def ReqState.take (r : ReqState) (t : BitVec 32) : ReqState :=
  match r.high with
  | none => { r with high := some t }
  | some h =>
    if 1 ≤ xidAhead h t ∧ xidAhead h t ≤ 2 ^ 20 then
      { r with high := some t, seen := r.seen.filter fun s => decide (xidAhead s.xid t < xidWindow) }
    else r

def Chip.takeXid (c : Chip) (n : Nat) (t : BitVec 32) : Chip :=
  let r := (c.dap.req n).take t
  (c.setReq n r).setReg (Obj.reqXidHigh n) ((r.high.map BitVec.toNat).getD 0)

def Chip.cacheResponse (c : Chip) (n : Nat) (t : BitVec 32) (tag m : Bytes) : Chip :=
  let r := c.dap.req n
  c.setReq n { r with seen := r.seen ++ [⟨t, tag, m⟩] }

/-! ### Requests -/

/-- H of a requester as XID_HIGH carries it; requester 0 has none. -/
def Chip.xidHigh (c : Chip) (n : Nat) : Nat := if n = 0 then 0 else ((c.dap.req n).high.map BitVec.toNat).getD 0

/-- A response whose message status is not OK: every item with status 0 and no value. -/
def Chip.dapReply (c : Chip) (m : Bytes) (status : Nat) : Bytes :=
  let n := dapRq m
  let items := (dapItems (dapCount m) (slice m 40 (m.length - 56))).1
  c.dapMessage n 2 items.length (dapXid m) (c.xidHigh n) status c.now64
    (items.map fun i => (⟨i, 0, i.type, 0, []⟩ : DapAnswer).bytes).flatten

/-- The tag of a response is one more use of the cipher engine. -/
def Chip.dapAnswered (c : Chip) (n : Nat) (dest : BitVec 128) (m : Bytes) : Chip :=
  (if n = 0 then c else c.cipherUsed (m.length - 16) true).sendResponse n dest m

/-- A request that is new: executed and answered, or answered with FORMAT; the response is kept. -/
def Chip.dapExecute (c : Chip) (source : BitVec 128) (m : Bytes) : Chip :=
  let n := dapRq m
  let t := BitVec.ofNat 32 (dapXid m)
  let (items, bad) := dapItems (dapCount m) (slice m 40 (m.length - 56))
  let time := c.now64
  let keep := fun (c : Chip) (r : Bytes) =>
    (if n = 0 then c else c.cacheResponse n t (m.drop (m.length - 16)) r).dapAnswered n source r
  if bad || breaksR431 items then keep c (c.dapReply m stFormat)
  else
    (c.count Obj.dapRequests 1 64).execItems ⟨Fin.ofNat 17 n, t⟩ items fun c l =>
      keep c (c.dapMessage n 2 l.length (dapXid m) (c.xidHigh n) stOk time (l.map DapAnswer.bytes).flatten)

/-- Check 5: the transaction id. -/
def Chip.dapXidTest (c : Chip) (source : BitVec 128) (m : Bytes) : Chip :=
  let n := dapRq m
  if n = 0 then c.dapExecute source m
  else
    let t := BitVec.ofNat 32 (dapXid m)
    match (c.dap.req n).verdict t (m.drop (m.length - 16)) with
    | .new => (c.takeXid n t).dapExecute source m
    | .repeated r => (c.count Obj.dapRepeats 1 64).sendResponse n source r
    | .mismatch => (c.count Obj.dapStale 1 64).dapAnswered n source (c.dapReply m stXidMismatch)
    | .stale => (c.count Obj.dapStale 1 64).dapAnswered n source (c.dapReply m stStale)

/-! ### Event acknowledgements (R437) -/

/-- Highest sequence number sent to a requester. -/
def ReqState.sent (r : ReqState) : Nat := r.nextEvent - 1

def Chip.dapAck (c : Chip) (m : Bytes) : Chip :=
  let n := dapRq m
  let x := dapXid m
  let r := c.dap.req n
  if n = 0 ∨ dapStart m ≠ c.emmc.startCount.toNat ∨ r.sent < x then c.dapDiscard
  else
    let l := r.events.filter fun e => decide (x < e.seq)
    (c.setReq n { r with events := l }).setReg (Obj.reqEventsPending n) l.length

/-- A datagram at DAP_UDP_PORT: the checks of R424 in their order. While the start counter is not written, only requester 0
is answered (R455, assumption log 53). -/
def Chip.dapReceive (c : Chip) (source : BitVec 128) (m : Bytes) : Chip :=
  let n := dapRq m
  if !c.board.modReady || !c.dap.linkUp then c
  else if !dapHeaderOk m then c.dapDiscard
  else if !c.dapFrom n source then c.dapDiscard
  else
    let (ok, c) := c.dapTag n m
    if !ok then c.dapAuthFail n
    else if dapKind m = 4 then c.dapAck m
    else if n ≠ 0 ∧ !c.start.counterOk then c
    else if dapStart m ≠ c.emmc.startCount.toNat then
      (c.count Obj.dapStale 1 64).dapAnswered n source (c.dapReply m stStale)
    else c.dapXidTest source m

/-- DAP_REQUEST. -/
def execDapRequest (source : BitVec 128) (datagram : Bytes) (s : State) : Host.Outcome State Fault Refusal :=
  s.on fun c => c.dapReceive source datagram

/-- EVENT_ACK: an acknowledgement comes to the same port and passes the same checks. -/
def execEventAck (source : BitVec 128) (datagram : Bytes) (s : State) : Host.Outcome State Fault Refusal :=
  s.on fun c => c.dapReceive source datagram

/-! ### Single items as commands -/

/-- One item of a requester, checked and executed as the only one of its request. -/
def Chip.oneItem (c : Chip) (rq : Nat) (i : DapItem) : Chip :=
  if !c.board.modReady then c
  else c.execItems (c.origin rq) [i] fun c l => c.each l fun c a => c.answer rq i.key a.status a.value

/-- REGISTER_WRITE: a write item of any object. -/
def execRegisterWrite (rq : Fin 17) (index : BitVec 16) (sub type : Byte) (value : Bytes) (s : State) :
    Host.Outcome State Fault Refusal :=
  s.on fun c => c.oneItem rq ⟨2, type.toNat, index.toNat, sub.toNat, 0, value.length, 0, value⟩

/-- DOMAIN_SEGMENT_READ. -/
def execDomainSegmentRead (rq : Fin 17) (index : BitVec 16) (sub : Byte) (offset : BitVec 32) (len : BitVec 16) (s : State) :
    Host.Outcome State Fault Refusal :=
  s.on fun c => c.oneItem rq ⟨3, 0, index.toNat, sub.toNat, 0, len.toNat, offset.toNat, []⟩

/-- DOMAIN_SEGMENT_WRITE. -/
def execDomainSegmentWrite (rq : Fin 17) (index : BitVec 16) (sub : Byte) (offset : BitVec 32) (last : Bool) (data : Bytes)
    (s : State) : Host.Outcome State Fault Refusal :=
  s.on fun c => c.oneItem rq
    ⟨4, ObjType.domain.code, index.toNat, sub.toNat, if last then 1 else 0, data.length, offset.toNat, data⟩

/-! ### Timers and the link -/

/-- A transfer is closed for want of segments: it has no effect, and the closing enters the sillage ring as an event outside
a step. The event's code is not given (DESIGN CHOICE, assumption log 3). -/
def Chip.idleExpiry (c : Chip) (rq key : Nat) : Chip :=
  match findTransfer c.dap.transfers rq key with
  | none => c
  | some _ =>
    let c := { c with dap := { c.dap with transfers := dropTransfer c.dap.transfers rq key } }
    let (code, c) := c.freeNat 16
    c.record 3 0 [section8 7 (eventEntry c.now code Unit2.dap.code key 0)] c.now c.time.mono

/-- DOMAIN_IDLE_EXPIRY. -/
def execDomainIdleExpiry (rq : Fin 17) (index : BitVec 16) (sub : Byte) (s : State) : Host.Outcome State Fault Refusal :=
  s.on fun c => c.idleExpiry rq (objKey index.toNat sub.toNat)

/-- Every unacknowledged event of every requester is sent again. -/
def Chip.resendEvents (c : Chip) : Chip :=
  if !c.board.modReady then c
  else c.each c.emmc.config.requesters fun c q => c.each (c.dap.req q.n).events fun c e => c.emitEvent q.n e

/-- EVENT_RESEND_TIMER. -/
def execEventResendTimer (s : State) : Host.Outcome State Fault Refusal := s.on Chip.resendEvents

/-- The management port comes up or goes down: PTP on it goes with it. -/
def Chip.mgmtLink (c : Chip) (up : Bool) : Chip :=
  ({ c with dap := { c.dap with linkUp := up } }).ptpDecide

/-- MGMT_LINK_CHANGE. -/
def execMgmtLinkChange (up : Bool) (s : State) : Host.Outcome State Fault Refusal :=
  s.on fun c => c.mgmtLink up

end Sys2Proof.Machine
end

