-- ==== Sys2Proof/Machine/Dispatch.lean ====
section
/-! DEFINITION. Machine/Dispatch.lean: the meaning of each command, one arm per row of the opcode table. -/

namespace Sys2Proof.Machine

def exec (i : Instr) (s : State) : Host.Outcome State Fault Refusal :=
  match i with
  | .seatedNAssert slotId => Sys2Proof.Machine.execSeatedNAssert slotId s
  | .pwrEnAssert => Sys2Proof.Machine.execPwrEnAssert s
  | .coolantCheckComplete inlet flow => Sys2Proof.Machine.execCoolantCheckComplete inlet flow s
  | .coolantRecheckTimer => Sys2Proof.Machine.execCoolantRecheckTimer s
  | .suppliesInRegulation => Sys2Proof.Machine.execSuppliesInRegulation s
  | .pwrEnDeassert => Sys2Proof.Machine.execPwrEnDeassert s
  | .powerFail => Sys2Proof.Machine.execPowerFail s
  | .powerRestart => Sys2Proof.Machine.execPowerRestart s
  | .coolantReading r => Sys2Proof.Machine.execCoolantReading r s
  | .flowLow2sExpiry => Sys2Proof.Machine.execFlowLow2sExpiry s
  | .flowStop500msExpiry => Sys2Proof.Machine.execFlowStop500msExpiry s
  | .powerLimitWrite rq v => Sys2Proof.Machine.execPowerLimitWrite rq v s
  | .locateNChange low => Sys2Proof.Machine.execLocateNChange low s
  | .cageInsert cage advertised => Sys2Proof.Machine.execCageInsert cage advertised s
  | .cageRemove cage => Sys2Proof.Machine.execCageRemove cage s
  | .cageOvercurrent cage => Sys2Proof.Machine.execCageOvercurrent cage s
  | .trayRstLong => Sys2Proof.Machine.execTrayRstLong s
  | .trayRstRelease lowNs => Sys2Proof.Machine.execTrayRstRelease lowNs s
  | .ppsEdge input => Sys2Proof.Machine.execPpsEdge input s
  | .ppsLossExpiry input => Sys2Proof.Machine.execPpsLossExpiry input s
  | .tenMhzInChange live => Sys2Proof.Machine.execTenMhzInChange live s
  | .speedWindow wacor link => Sys2Proof.Machine.execSpeedWindow wacor link s
  | .spdSlowDetect die monitor => Sys2Proof.Machine.execSpdSlowDetect die monitor s
  | .governorDecision power tj linkPower => Sys2Proof.Machine.execGovernorDecision power tj linkPower s
  | .vcoreCeilingWrite rq v => Sys2Proof.Machine.execVcoreCeilingWrite rq v s
  | .rxCrossingOverrun boundary => Sys2Proof.Machine.execRxCrossingOverrun boundary s
  | .mma tile word ecc => Sys2Proof.Machine.execMma tile word ecc s
  | .mmaDWritten tile => Sys2Proof.Machine.execMmaDWritten tile s
  | .tilePatrolScrub tile line ecc => Sys2Proof.Machine.execTilePatrolScrub tile line ecc s
  | .routerFlitReceive tile addr data => Sys2Proof.Machine.execRouterFlitReceive tile addr data s
  | .routerMessageSend tile queue => Sys2Proof.Machine.execRouterMessageSend tile queue s
  | .nop tile f => Sys2Proof.Machine.execNop tile f s
  | .sli tile f => Sys2Proof.Machine.execSli tile f s
  | .sadd tile f => Sys2Proof.Machine.execSadd tile f s
  | .loop tile f => Sys2Proof.Machine.execLoop tile f s
  | .waitq tile f => Sys2Proof.Machine.execWaitq tile f s
  | .waitqReady tile => Sys2Proof.Machine.execWaitqReady tile s
  | .release tile f => Sys2Proof.Machine.execRelease tile f s
  | .mxwait tile f => Sys2Proof.Machine.execMxwait tile f s
  | .halt tile f => Sys2Proof.Machine.execHalt tile f s
  | .add tile f => Sys2Proof.Machine.execAdd tile f s
  | .sub tile f => Sys2Proof.Machine.execSub tile f s
  | .mul tile f => Sys2Proof.Machine.execMul tile f s
  | .fma tile f => Sys2Proof.Machine.execFma tile f s
  | .fms tile f => Sys2Proof.Machine.execFms tile f s
  | .div tile f => Sys2Proof.Machine.execDiv tile f s
  | .sqrt tile f => Sys2Proof.Machine.execSqrt tile f s
  | .max tile f => Sys2Proof.Machine.execMax tile f s
  | .min tile f => Sys2Proof.Machine.execMin tile f s
  | .abs tile f => Sys2Proof.Machine.execAbs tile f s
  | .neg tile f => Sys2Proof.Machine.execNeg tile f s
  | .and tile f => Sys2Proof.Machine.execAnd tile f s
  | .or tile f => Sys2Proof.Machine.execOr tile f s
  | .xor tile f => Sys2Proof.Machine.execXor tile f s
  | .shl tile f => Sys2Proof.Machine.execShl tile f s
  | .shr tile f => Sys2Proof.Machine.execShr tile f s
  | .twosum tile f => Sys2Proof.Machine.execTwosum tile f s
  | .twoprod tile f => Sys2Proof.Machine.execTwoprod tile f s
  | .pairadd tile f => Sys2Proof.Machine.execPairadd tile f s
  | .cmpeq tile f => Sys2Proof.Machine.execCmpeq tile f s
  | .cmpne tile f => Sys2Proof.Machine.execCmpne tile f s
  | .cmplt tile f => Sys2Proof.Machine.execCmplt tile f s
  | .cmple tile f => Sys2Proof.Machine.execCmple tile f s
  | .cmpgt tile f => Sys2Proof.Machine.execCmpgt tile f s
  | .cmpge tile f => Sys2Proof.Machine.execCmpge tile f s
  | .sel tile f => Sys2Proof.Machine.execSel tile f s
  | .cls tile f => Sys2Proof.Machine.execCls tile f s
  | .mand tile f => Sys2Proof.Machine.execMand tile f s
  | .mor tile f => Sys2Proof.Machine.execMor tile f s
  | .mnot tile f => Sys2Proof.Machine.execMnot tile f s
  | .perm tile f => Sys2Proof.Machine.execPerm tile f s
  | .rot tile f => Sys2Proof.Machine.execRot tile f s
  | .bfly tile f => Sys2Proof.Machine.execBfly tile f s
  | .bcast tile f => Sys2Proof.Machine.execBcast tile f s
  | .splat tile f => Sys2Proof.Machine.execSplat tile f s
  | .iota tile f => Sys2Proof.Machine.execIota tile f s
  | .zip tile f => Sys2Proof.Machine.execZip tile f s
  | .unzip tile f => Sys2Proof.Machine.execUnzip tile f s
  | .pack tile f => Sys2Proof.Machine.execPack tile f s
  | .unpack tile f => Sys2Proof.Machine.execUnpack tile f s
  | .rsum tile f => Sys2Proof.Machine.execRsum tile f s
  | .rprod tile f => Sys2Proof.Machine.execRprod tile f s
  | .rmax tile f => Sys2Proof.Machine.execRmax tile f s
  | .rmin tile f => Sys2Proof.Machine.execRmin tile f s
  | .rargmax tile f => Sys2Proof.Machine.execRargmax tile f s
  | .rargmin tile f => Sys2Proof.Machine.execRargmin tile f s
  | .tfn tile f => Sys2Proof.Machine.execTfn tile f s
  | .tder tile f => Sys2Proof.Machine.execTder tile f s
  | .tload tile f => Sys2Proof.Machine.execTload tile f s
  | .ld tile f => Sys2Proof.Machine.execLd tile f s
  | .st tile f => Sys2Proof.Machine.execSt tile f s
  | .ldp tile f => Sys2Proof.Machine.execLdp tile f s
  | .stp tile f => Sys2Proof.Machine.execStp tile f s
  | .lds tile f => Sys2Proof.Machine.execLds tile f s
  | .sts tile f => Sys2Proof.Machine.execSts tile f s
  | .memQueueAccess tile ecc => Sys2Proof.Machine.execMemQueueAccess tile ecc s
  | .castingLoad rq slot => Sys2Proof.Machine.execCastingLoad rq slot s
  | .castingLoadComplete unverified => Sys2Proof.Machine.execCastingLoadComplete unverified s
  | .castingUnload rq slot => Sys2Proof.Machine.execCastingUnload rq slot s
  | .castingStop rq c => Sys2Proof.Machine.execCastingStop rq c s
  | .castingRun rq c => Sys2Proof.Machine.execCastingRun rq c s
  | .regionStop rq h => Sys2Proof.Machine.execRegionStop rq h s
  | .regionRun rq h => Sys2Proof.Machine.execRegionRun rq h s
  | .regionRecast rq h image => Sys2Proof.Machine.execRegionRecast rq h image s
  | .recastComplete unverified => Sys2Proof.Machine.execRecastComplete unverified s
  | .remap => Sys2Proof.Machine.execRemap s
  | .tilesRetiredClear rq v => Sys2Proof.Machine.execTilesRetiredClear rq v s
  | .stepOpen => Sys2Proof.Machine.execStepOpen s
  | .slotOpen => Sys2Proof.Machine.execSlotOpen s
  | .entryEnd h => Sys2Proof.Machine.execEntryEnd h s
  | .assayWordFinal => Sys2Proof.Machine.execAssayWordFinal s
  | .combinedAssayReceived word votes => Sys2Proof.Machine.execCombinedAssayReceived word votes s
  | .decisionRecordsHeld records => Sys2Proof.Machine.execDecisionRecordsHeld records s
  | .stepStop rq => Sys2Proof.Machine.execStepStop rq s
  | .stepRun rq => Sys2Proof.Machine.execStepRun rq s
  | .patinaEmpty rq v => Sys2Proof.Machine.execPatinaEmpty rq v s
  | .updateBegin => Sys2Proof.Machine.execUpdateBegin s
  | .updateDone => Sys2Proof.Machine.execUpdateDone s
  | .updateTableWrite rq table => Sys2Proof.Machine.execUpdateTableWrite rq table s
  | .lrScheduleWrite rq schedule => Sys2Proof.Machine.execLrScheduleWrite rq schedule s
  | .gatherRequest peer shard version hold => Sys2Proof.Machine.execGatherRequest peer shard version hold s
  | .holdRelease shard slot => Sys2Proof.Machine.execHoldRelease shard slot s
  | .holdWaitExpiry shard => Sys2Proof.Machine.execHoldWaitExpiry shard s
  | .slowTierTimeout shard => Sys2Proof.Machine.execSlowTierTimeout shard s
  | .ckptExportStart rq => Sys2Proof.Machine.execCkptExportStart rq s
  | .ckptExportEnd rq => Sys2Proof.Machine.execCkptExportEnd rq s
  | .ckptImport rq file => Sys2Proof.Machine.execCkptImport rq file s
  | .ptpMessage port m => Sys2Proof.Machine.execPtpMessage port m s
  | .ptpAnnounceTimeout port => Sys2Proof.Machine.execPtpAnnounceTimeout port s
  | .holdoverExpiry => Sys2Proof.Machine.execHoldoverExpiry s
  | .timeSet rq v => Sys2Proof.Machine.execTimeSet rq v s
  | .sillageSpill written => Sys2Proof.Machine.execSillageSpill written s
  | .replayStart rq => Sys2Proof.Machine.execReplayStart rq s
  | .replayAbandon rq => Sys2Proof.Machine.execReplayAbandon rq s
  | .replayWaitExpiry => Sys2Proof.Machine.execReplayWaitExpiry s
  | .siteMapWrite rq map => Sys2Proof.Machine.execSiteMapWrite rq map s
  | .mapDigestReply peer reply => Sys2Proof.Machine.execMapDigestReply peer reply s
  | .gatherIssue layer => Sys2Proof.Machine.execGatherIssue layer s
  | .gatherResult shard version data => Sys2Proof.Machine.execGatherResult shard version data s
  | .gatherRetryTimer shard => Sys2Proof.Machine.execGatherRetryTimer shard s
  | .gatherWaitExpiry shard => Sys2Proof.Machine.execGatherWaitExpiry shard s
  | .offloadTimeoutExpiry channel => Sys2Proof.Machine.execOffloadTimeoutExpiry channel s
  | .bzPortUp port lanesInOrder => Sys2Proof.Machine.execBzPortUp port lanesInOrder s
  | .bzPortDown port => Sys2Proof.Machine.execBzPortDown port s
  | .bzRetrainTimer port => Sys2Proof.Machine.execBzRetrainTimer port s
  | .bzPortEnableWrite rq port v => Sys2Proof.Machine.execBzPortEnableWrite rq port v s
  | .bzMessageFrame port f => Sys2Proof.Machine.execBzMessageFrame port f s
  | .bzAckFrame port f => Sys2Proof.Machine.execBzAckFrame port f s
  | .bzCreditFrame port f => Sys2Proof.Machine.execBzCreditFrame port f s
  | .bzOperandFrame port f => Sys2Proof.Machine.execBzOperandFrame port f s
  | .bzResultFrame port f => Sys2Proof.Machine.execBzResultFrame port f s
  | .bzTreeFrame port f => Sys2Proof.Machine.execBzTreeFrame port f s
  | .bzProbeFrame port f => Sys2Proof.Machine.execBzProbeFrame port f s
  | .bzRetryTimeout peer seq => Sys2Proof.Machine.execBzRetryTimeout peer seq s
  | .bzProbeTimer => Sys2Proof.Machine.execBzProbeTimer s
  | .bzCreditRepeat binding => Sys2Proof.Machine.execBzCreditRepeat binding s
  | .bzModuleNumberWrite rq v => Sys2Proof.Machine.execBzModuleNumberWrite rq v s
  | .bzDeadlineExpiry collective => Sys2Proof.Machine.execBzDeadlineExpiry collective s
  | .roundTableWrite rq table => Sys2Proof.Machine.execRoundTableWrite rq table s
  | .rndGreeting site g => Sys2Proof.Machine.execRndGreeting site g s
  | .contributionComplete site round shards => Sys2Proof.Machine.execContributionComplete site round shards s
  | .rndWindowExpiry => Sys2Proof.Machine.execRndWindowExpiry s
  | .accordHistoryExchange site history => Sys2Proof.Machine.execAccordHistoryExchange site history s
  | .ingotFetchStart rq => Sys2Proof.Machine.execIngotFetchStart rq s
  | .ingotFetchAbandon rq => Sys2Proof.Machine.execIngotFetchAbandon rq s
  | .ingotFetchRequest site round => Sys2Proof.Machine.execIngotFetchRequest site round s
  | .ingotSectionReceived offset data => Sys2Proof.Machine.execIngotSectionReceived offset data s
  | .ingotRoundAgreement rounds => Sys2Proof.Machine.execIngotRoundAgreement rounds s
  | .ingotRetryTimer => Sys2Proof.Machine.execIngotRetryTimer s
  | .slkPortUp port => Sys2Proof.Machine.execSlkPortUp port s
  | .slkPortDown port => Sys2Proof.Machine.execSlkPortDown port s
  | .slkPortRetryTimer port => Sys2Proof.Machine.execSlkPortRetryTimer port s
  | .slkPortEnableWrite rq port v => Sys2Proof.Machine.execSlkPortEnableWrite rq port v s
  | .slkHelloTimer => Sys2Proof.Machine.execSlkHelloTimer s
  | .slkHello port f => Sys2Proof.Machine.execSlkHello port f s
  | .slkProbeTimer => Sys2Proof.Machine.execSlkProbeTimer s
  | .slkProbeTimeout site module => Sys2Proof.Machine.execSlkProbeTimeout site module s
  | .slkDataPacket port f => Sys2Proof.Machine.execSlkDataPacket port f s
  | .slkParityPacket port f => Sys2Proof.Machine.execSlkParityPacket port f s
  | .slkAckPacket port f => Sys2Proof.Machine.execSlkAckPacket port f s
  | .slkProbePacket port f => Sys2Proof.Machine.execSlkProbePacket port f s
  | .slkRekey rq v => Sys2Proof.Machine.execSlkRekey rq v s
  | .slkRekeyIntervalExpiry site module => Sys2Proof.Machine.execSlkRekeyIntervalExpiry site module s
  | .slkGraceExpiry site module => Sys2Proof.Machine.execSlkGraceExpiry site module s
  | .slkFecGroupTimer port site module => Sys2Proof.Machine.execSlkFecGroupTimer port site module s
  | .slkFecHoldExpiry port site module group => Sys2Proof.Machine.execSlkFecHoldExpiry port site module group s
  | .slkAckTimer context => Sys2Proof.Machine.execSlkAckTimer context s
  | .slkResendTimer context round fragment => Sys2Proof.Machine.execSlkResendTimer context round fragment s
  | .slkRestart rq v => Sys2Proof.Machine.execSlkRestart rq v s
  | .slkFlowTableWrite rq entries => Sys2Proof.Machine.execSlkFlowTableWrite rq entries s
  | .cipherRequest who descAddr desc => Sys2Proof.Machine.execCipherRequest who descAddr desc s
  | .cipherCompletion => Sys2Proof.Machine.execCipherCompletion s
  | .cipherKeyLoad rq blob => Sys2Proof.Machine.execCipherKeyLoad rq blob s
  | .cipherKeyErase rq slot => Sys2Proof.Machine.execCipherKeyErase rq slot s
  | .dmaStart rq c => Sys2Proof.Machine.execDmaStart rq c s
  | .dmaStop rq c => Sys2Proof.Machine.execDmaStop rq c s
  | .dmaPrivilegedStop c => Sys2Proof.Machine.execDmaPrivilegedStop c s
  | .dmaDescriptorsWrite rq c data => Sys2Proof.Machine.execDmaDescriptorsWrite rq c data s
  | .dmaTimerTrigger c => Sys2Proof.Machine.execDmaTimerTrigger c s
  | .dmaHalfDone c => Sys2Proof.Machine.execDmaHalfDone c s
  | .dmaPassComplete c env => Sys2Proof.Machine.execDmaPassComplete c env s
  | .dmaCompletionsRead rq c => Sys2Proof.Machine.execDmaCompletionsRead rq c s
  | .memPatrolScrub burst flips => Sys2Proof.Machine.execMemPatrolScrub burst flips s
  | .tempReadout q t => Sys2Proof.Machine.execTempReadout q t s
  | .memRetireRequest rq v => Sys2Proof.Machine.execMemRetireRequest rq v s
  | .retireCopyComplete => Sys2Proof.Machine.execRetireCopyComplete s
  | .memRetiredClear rq v => Sys2Proof.Machine.execMemRetiredClear rq v s
  | .dapRequest source datagram => Sys2Proof.Machine.execDapRequest source datagram s
  | .registerWrite rq index sub type value => Sys2Proof.Machine.execRegisterWrite rq index sub type value s
  | .domainSegmentRead rq index sub offset len => Sys2Proof.Machine.execDomainSegmentRead rq index sub offset len s
  | .domainSegmentWrite rq index sub offset last data => Sys2Proof.Machine.execDomainSegmentWrite rq index sub offset last data s
  | .domainIdleExpiry rq index sub => Sys2Proof.Machine.execDomainIdleExpiry rq index sub s
  | .eventAck source datagram => Sys2Proof.Machine.execEventAck source datagram s
  | .eventResendTimer => Sys2Proof.Machine.execEventResendTimer s
  | .resetRequestCold rq => Sys2Proof.Machine.execResetRequestCold rq s
  | .resetRequestWarm rq => Sys2Proof.Machine.execResetRequestWarm rq s
  | .resetRequestDelayExpiry => Sys2Proof.Machine.execResetRequestDelayExpiry s
  | .watchdogExpiry => Sys2Proof.Machine.execWatchdogExpiry s
  | .core0Release puf => Sys2Proof.Machine.execCore0Release puf s
  | .firmwareSlotVerified counterWrite => Sys2Proof.Machine.execFirmwareSlotVerified counterWrite s
  | .processorsReleased => Sys2Proof.Machine.execProcessorsReleased s
  | .lpddr6TrainingComplete failed => Sys2Proof.Machine.execLpddr6TrainingComplete failed s
  | .lpddr6InitComplete => Sys2Proof.Machine.execLpddr6InitComplete s
  | .selfTestsComplete r => Sys2Proof.Machine.execSelfTestsComplete r s
  | .modReadyAssert => Sys2Proof.Machine.execModReadyAssert s
  | .keepingStateRestored k => Sys2Proof.Machine.execKeepingStateRestored k s
  | .fwInstall rq image => Sys2Proof.Machine.execFwInstall rq image s
  | .fwInstallComplete readBack => Sys2Proof.Machine.execFwInstallComplete readBack s
  | .fwActivate rq v => Sys2Proof.Machine.execFwActivate rq v s
  | .pufEnrol rq v => Sys2Proof.Machine.execPufEnrol rq v s
  | .hallmarkNonce rq nonce => Sys2Proof.Machine.execHallmarkNonce rq nonce s
  | .hallmarkQuoteComplete => Sys2Proof.Machine.execHallmarkQuoteComplete s
  | .configRecordsWrite rq set => Sys2Proof.Machine.execConfigRecordsWrite rq set s
  | .peerEnrol rq record => Sys2Proof.Machine.execPeerEnrol rq record s
  | .faultLogCopy written => Sys2Proof.Machine.execFaultLogCopy written s
  | .stickyFamilyClear rq family v => Sys2Proof.Machine.execStickyFamilyClear rq family v s
  | .regionStickyClear rq h v => Sys2Proof.Machine.execRegionStickyClear rq h v s
  | .rejoin rq => Sys2Proof.Machine.execRejoin rq s
  | .parkedRetry rq => Sys2Proof.Machine.execParkedRetry rq s
  | .tileTest rq => Sys2Proof.Machine.execTileTest rq s
  | .scrubNow rq => Sys2Proof.Machine.execScrubNow rq s
  | .logFlush rq => Sys2Proof.Machine.execLogFlush rq s
  | .serviceOpComplete result => Sys2Proof.Machine.execServiceOpComplete result s
  | .seatedNRelease => Sys2Proof.Machine.execSeatedNRelease s
  | .timeUnitStart => Sys2Proof.Machine.execTimeUnitStart s
  | .mgmtLinkChange up => Sys2Proof.Machine.execMgmtLinkChange up s
  | .ptpTransmitTimer port what => Sys2Proof.Machine.execPtpTransmitTimer port what s

end Sys2Proof.Machine
end

