-- ==== Sys2Proof/Safety.lean ====
section
/-! DEFINITION. Safety.lean: the words the statements are written in: a step that goes on, a command that completes with
an effect, a dictionary write that passes the checks of R430, and what an occurrence may leave behind. -/

namespace Sys2Proof.Machine

/-- The step neither faults nor refuses. -/
def Safe (s : State) : Prop := ∃ t, step s = .next t

/-- `exec` answers a next state; the waiting commands are as they were, and its module satisfies `P`. -/
def Completes (i : Instr) (s : State) (P : Chip → Prop) : Prop :=
  ∃ t, exec i s = .next t ∧ t.pending = s.pending ∧ P t.chip

/-- Requester `rq` may write the bytes `b` to the object under `key` as far as the checks that every write passes first:
the dictionary serves, the object exists, and rights, access, type, length, range, presence and lock permit it. -/
def Chip.permits (c : Chip) (rq key : Nat) (b : Bytes) : Bool :=
  c.board.modReady &&
  match Obj.lookup (key / 256) (key % 256) with
  | some d => c.generalStatus rq d key d.ty.code b == stOk
  | none => false

/-- Status that answers a permitted write of this object: ACCEPTED for class C, OK otherwise (R431). -/
def writeAnswer (key : Nat) : Nat := ((Obj.lookup (key / 256) (key % 256)).map fun d => d.doneStatus).getD 0

/-- The module with a permitted write of `key` by `rq` answered, before the write's effect. -/
def Chip.answered (c : Chip) (rq key : Nat) : Chip := c.answer rq key (writeAnswer key) []

/-- The module after a write refused with `status`: the fault-log entry of R9 and the item's answer, nothing else. -/
def Chip.refusedWrite (c : Chip) (rq key status : Nat) : Chip := (c.refuse key status).answer rq key status []

/-- Registers that an entry, a sticky bit or an event may renew besides what caused it: the sticky words and their times,
FAULT_LOST, SL_RECORDS_LOST, what the event queue of a requester counts, and the cipher engine's counts of the tags of events. -/
def isLogKey (k : Nat) : Bool :=
  isSticky k || k == Obj.faultLost || k == Obj.slRecordsLost || k == Obj.cipherRequests || k == Obj.cipherBytes ||
  (decide (0x1020 ≤ k / 256) && decide (k / 256 ≤ 0x1030) && (k % 256 == 5 || k % 256 == 6))

/-- `d` is `c` but for what entries, sticky bits, events and answers leave: the registers of `isLogKey`, the sillage record,
the fault log, the event queues and what has been sent. -/
def Chip.OnlyLogged (c d : Chip) : Prop :=
  d = { c with regs := d.regs, sil := d.sil, flt := d.flt, dap := d.dap, out := d.out } ∧
  ∀ k, isLogKey k = false → d.reg k = c.reg k

/-- The die supplies stand, or are being brought up, only while the module is seated, PWR_EN is high, the input is in range and
no thermal stop is latched (R14, R23, R24, R31). -/
def Board.powerInv (b : Board) : Bool :=
  b.phase == .off || (b.seated && b.pwrEn && b.inputOk && !b.thermalLatch)

end Sys2Proof.Machine
end

