-- ==== Sys2Proof/Certificates/Slice0/Obligations.lean ====
section
/-! DEFINITION. Certificates/Slice0/Obligations.lean: the statements for the provers. Each says in its docstring which rules of
the spec it rests on; OBLIGATIONS.json lists them. -/

open Sys2Proof Sys2Proof.Machine

/-! ### The block: its queue, its steps, its state before first power -/

/-- A step takes the command at the front of the queue and is `exec` of it with the queue's rest. -/
def Obligations.StepTakesFrontCommand : Prop :=
  ∀ (i : Instr) (rest : List Instr) (s : State),
    step { s with pending := i :: rest } = exec i { s with pending := rest }

/-- With no command waiting, one period of the reference clock passes: MONO rises by 2 ns while the time unit runs (R263),
nothing moves while it does not. (The step's form on an empty queue is the model's choice, assumption log 5.) -/
def Obligations.IdleStepIsOneClockPeriod : Prop :=
  ∀ s : State, s.pending = [] →
    ∃ t, step s = .next t ∧ t.pending = [] ∧
      (s.chip.time.running = false → t = s) ∧
      (s.chip.time.running = true →
        t.chip.time.mono = s.chip.time.mono + 2 ∧
        t.chip.now + t.chip.time.slew = s.chip.now + s.chip.time.slew + 2 ∧
        t.chip = { s.chip with
          time := { s.chip.time with mono := t.chip.time.mono, offset := t.chip.time.offset, slew := t.chip.time.slew }
          board := { s.chip.board with ppsOut := t.chip.board.ppsOut, tenMOut := true } })

/-- No command stops the block and none puts a command into the queue: every step answers a next state whose queue is the
rest of the queue. -/
def Obligations.EveryStepGoesOn : Prop :=
  ∀ s : State, ∃ t, step s = .next t ∧ t.pending = s.pending.tail

/-- What the module holds before its first power: the default of each object of a fixed size (here those of the board, the
rails, the time unit and the step sequencer), every supply off, no pin driven, no start begun, memory and tiles empty,
the firmware of the factory in slot A and confirmed. -/
def Obligations.ResetState : Prop :=
  (∀ k, State.reset.chip.reg k = Obj.dflt k) ∧
  State.reset.chip.reg Obj.powerLimit = 0x44B54000 ∧ State.reset.chip.reg Obj.locate = 0 ∧
  State.reset.chip.reg Obj.vcoreCeiling = 0x3F400000 ∧ State.reset.chip.reg Obj.timeQuality = 0 ∧
  State.reset.chip.reg Obj.stepState = 0 ∧ State.reset.chip.reg Obj.patinaWindow = 32 ∧
  (∀ f : Fin 32, State.reset.chip.reg (Obj.stickyFamily f) = 0) ∧
  State.reset.chip.board.phase = .off ∧ State.reset.chip.board.modReady = false ∧
  State.reset.chip.board.faultLow = false ∧ State.reset.chip.start.stage = .none ∧
  State.reset.chip.array.tiles = [] ∧ State.reset.chip.mem.cells = [] ∧ State.reset.chip.cipher.slots = [] ∧
  State.reset.chip.flt.entries = [] ∧ State.reset.chip.emmc.startCount = 0 ∧ State.reset.chip.emmc.trial = 0 ∧
  State.reset.chip.emmc.confirmed = 0 ∧ State.reset.pending = []

/-- The power rule holds before first power. -/
def Obligations.PowerRuleAtReset : Prop := State.reset.chip.board.powerInv = true

/-- The power rule is kept by every step, whatever the command (R14, R23, R24, R31): the supplies stand, or are being
brought up, only while the module is seated, PWR_EN is high, the input is in range and no thermal stop is latched. -/
def Obligations.PowerRuleKeptByEveryStep : Prop :=
  ∀ s t : State, s.chip.board.powerInv = true → step s = .next t → t.chip.board.powerInv = true

/-! ### What every function shares: occurrences, writes, registers -/

/-- An occurrence of R485 (bit `b` of family `f` with its fault-log entry): the bit is set and no bit of the word is
cleared, the family's time of last setting is TIME64, one entry with the unit, the code 0x0100 + b (R484), the region, the
address and the detail is written with the next sequence number, and otherwise only what entries, events and records keep
changes. (Families 6 and 11 hold the bits that a lost record or a lost event sets beside it.) -/
def Obligations.OccurrenceSetsBitAndWritesEntry : Prop :=
  ∀ (c : Chip) (f b : Nat) (u : Unit2) (region addr detail : Nat), f < 14 → b < 32 → c.flt.entries.length < 1048576 →
    let d := c.occur f b u region addr detail
    c.OnlyLogged d ∧
    (∃ m, d.reg (Obj.stickyFamily f) = c.reg (Obj.stickyFamily f) ||| 2 ^ b ||| m ∧ (f ≠ 6 → f ≠ 11 → m = 0)) ∧
    (∃ e : FaultEntry, e ∈ d.flt.entries ∧ e.seq = c.flt.nextSeq ∧ e.unit = BitVec.ofNat 16 u.code ∧
      e.code = BitVec.ofNat 16 (0x0100 + b) ∧ e.region = BitVec.ofNat 16 region ∧ e.address = BitVec.ofNat 64 addr ∧
      e.detail = BitVec.ofNat 64 detail ∧ e.mono = c.time.mono ∧ e.time = c.now) ∧
    c.flt.nextSeq < d.flt.nextSeq

/-- The checks of one dictionary write come in this order (R425, R9, R423, R430, R442): rights, access code, type, length,
range, presence of the element, lock by the owning function. -/
def WriteChecksInOrder : Prop :=
  ∀ (c : Chip) (rq : Nat) (d : ObjDef) (key type : Nat) (b : Bytes),
    (c.level rq = none → c.generalStatus rq d key type b = stRights) ∧
    (∀ l, c.level rq = some l → mayWrite l rq key = false → c.generalStatus rq d key type b = stRights) ∧
    (∀ l, c.level rq = some l → mayWrite l rq key = true →
      (d.access = .ro → c.generalStatus rq d key type b = stWriteRefused) ∧
      (d.access ≠ .ro →
        (type ≠ d.ty.code → c.generalStatus rq d key type b = stTypeMismatch) ∧
        (type = d.ty.code →
          (lengthOk d.ty b.length = false → c.generalStatus rq d key type b = stLength) ∧
          (lengthOk d.ty b.length = true →
            (valueOk d b = false → c.generalStatus rq d key type b = stOutOfRange) ∧
            (valueOk d b = true →
              (c.present key = false → c.generalStatus rq d key type b = stState) ∧
              (c.present key = true →
                (d.access = .rwl ∧ c.locked d.owner (key / 256) = true → c.generalStatus rq d key type b = stLocked) ∧
                (¬ (d.access = .rwl ∧ c.locked d.owner (key / 256) = true) → c.generalStatus rq d key type b = stOk)))))))

/-- A requester of level 0 or 1 writes nothing, one of level 2 no service object, one of level 3 anything (Table 17-5). -/
def WriteRightsByLevel : Prop :=
  ∀ (rq key : Nat),
    (∀ l, l ≤ 1 → mayWrite l rq key = false) ∧
    (serviceOnly key = true → mayWrite 2 rq key = false) ∧
    mayWrite 3 rq key = true ∧
    (∀ n, n ≤ 16 → serviceOnly (Obj.reqEventMask n) = false →
      (mayWrite 2 rq (Obj.reqEventMask n) = true ↔ n = rq))

/-- The checks of one dictionary write in their order, and the rights that the levels give (R425, R430, Table 17-5). -/
def Obligations.ChecksOfAWrite : Prop := WriteChecksInOrder ∧ WriteRightsByLevel

/-- A write refused by the checks of R430 changes nothing but what its fault-log entry and its answer leave: no object, no
memory, no state of any function (R9). -/
def Obligations.RefusedWriteChangesNothing : Prop :=
  ∀ (c : Chip) (rq key type : Nat) (b : Bytes) (rule : ObjDef → WriteRule),
    (∀ d, Obj.lookup (key / 256) (key % 256) = some d → c.generalStatus rq d key type b ≠ stOk) →
    c.OnlyLogged (c.writeAs rq key type b rule)

/-- Reading a register back: a value written to an object of a fixed size is what the object then reads, every other
object reads as before. -/
def RegisterReadsBack : Prop :=
  ∀ (c : Chip) (k v : Nat),
    (c.setReg k v).reg k = v ∧ (∀ j, j ≠ k → (c.setReg k v).reg j = c.reg j) ∧
    c.setReg k v = { c with regs := (c.setReg k v).regs }

/-- The bytes of a tile's or a memory's write are the ones read back, every other byte stays, and the memory keeps its
canonical form: addresses rising, no cell listed at 0. -/
def MemoryWritesBytes : Prop :=
  ∀ (m : List Host.Cell) (a : Nat) (bs : Bytes), Memory.wf m = true →
    Memory.wf (Memory.writeBytes m a bs) = true ∧
    Memory.readBytes (Memory.writeBytes m a bs) a bs.length = bs ∧
    (∀ x, x < a ∨ a + bs.length ≤ x → Memory.read (Memory.writeBytes m a bs) x = Memory.read m x)

/-- What was written is what is read back, and nothing else changes: in the register file and in a memory. -/
def Obligations.ReadBack : Prop := RegisterReadsBack ∧ MemoryWritesBytes

/-! ### Board and power (The Module as a Block) -/

/-- Power entry (R14, R21, R22, R25): with PWR_EN passed, the input in range and no thermal stop latched, the sequencer begins the
coolant check; a failed check drives FAULT_N low and keeps the supplies off, the 1 s timer repeats it; a passed check
releases FAULT_N and brings the supplies up; in regulation, the start of a POWER reset begins. -/
def PowerEntry : Prop :=
  ∀ s : State,
    (∀ slot, s.chip.board.phase = .off → s.chip.board.pwrEn = true → s.chip.board.inputOk = true →
      s.chip.board.thermalLatch = false →
      Completes (.seatedNAssert slot) s fun c =>
        c = { s.chip with board := { s.chip.board with seated := true, slotPins := slot, phase := .checking } }) ∧
    (s.chip.board.phase = .off → s.chip.board.seated = true → s.chip.board.thermalLatch = false →
      Completes .pwrEnAssert s fun c =>
        c = { s.chip with board := { s.chip.board with pwrEn := true, inputOk := true, phase := .checking } }) ∧
    (∀ inlet flow, s.chip.board.phase = .checking →
      Completes (.coolantCheckComplete inlet flow) s fun c =>
        c = { s.chip with board := { s.chip.board with
          phase := if coolantBad inlet flow then .waiting else .softStart, faultLow := coolantBad inlet flow } }) ∧
    (s.chip.board.phase = .waiting →
      Completes .coolantRecheckTimer s fun c => c = { s.chip with board := { s.chip.board with phase := .checking } }) ∧
    (s.chip.board.phase = .softStart →
      Completes .suppliesInRegulation s fun c =>
        c.board.phase = .on ∧ c.start.stage = .reset ∧ c.start.kind = .power ∧ c.time = TimeUnit.reset ∧ c.mem = Lpddr6.reset)

/-- A restart after a power-fail (R24): when the input is back at the restart threshold with PWR_EN still high, the module
starts again of itself; with PWR_EN low it stays off. -/
def Obligations.RestartAfterPowerFail : Prop :=
  ∀ s : State, s.chip.board.phase = .off → s.chip.board.seated = true → s.chip.board.thermalLatch = false →
    (s.chip.board.pwrEn = true →
      Completes .powerRestart s fun c =>
        c = { s.chip with board := { s.chip.board with inputOk := true, phase := .checking } }) ∧
    (s.chip.board.pwrEn = false →
      Completes .powerRestart s fun c => c = { s.chip with board := { s.chip.board with inputOk := true } })

/-- What the removal of the supplies leaves: everything on the dies and in LPDDR6 gone, no eMMC command issued any more,
the eMMC itself untouched. -/
def PoweredDown (c d : Chip) : Prop :=
  d.board.phase = .off ∧ d.board.modReady = false ∧ d.board.emmcOpen = false ∧ d.board.indicator = false ∧
  d.start = StartSeq.reset ∧ d.time = TimeUnit.reset ∧ d.mem = Lpddr6.reset ∧ d.array.tiles = [] ∧ d.array.castings = [] ∧
  d.cipher = Cipher.reset ∧ d.dma = [] ∧ d.bz = Braze.reset ∧ d.step = StepSeq.reset ∧ d.upd = UpdateUnit.reset ∧
  d.dap = DapServer.reset ∧ d.ident = Identity.reset ∧ d.svc = Service.reset ∧ d.emmc = c.emmc

/-- Deasserting PWR_EN, a power-fail and an extraction under power have the same effect (R15, R23), and FAULT_N is released
(R25, R31); a thermal stop's latch ends with PWR_EN. -/
def PowerRemoval : Prop :=
  ∀ s : State, s.chip.board.phase ≠ .off →
    Completes .pwrEnDeassert s (fun c => PoweredDown s.chip c ∧ c.out = s.chip.out ∧ c.board.pwrEn = false ∧
      c.board.faultLow = false ∧ c.board.thermalLatch = false) ∧
    Completes .powerFail s (fun c => PoweredDown s.chip c ∧ c.out = s.chip.out ∧ c.board.inputOk = false ∧ c.board.faultLow = false) ∧
    Completes .seatedNRelease s (fun c => PoweredDown s.chip c ∧ c.out = s.chip.out ∧ c.board.seated = false ∧ c.board.faultLow = false)

/-- Power entry (R14, R21, R22, R25) and the removal of power (R15, R23, R25, R31). -/
def Obligations.PowerEntryAndRemoval : Prop := PowerEntry ∧ PowerRemoval

/-- Coolant and telemetry while the supplies stand (R28, R30, R31): a reading shows in the objects of Table 1-13 and Table 2-8,
FAULT_N is low exactly while a derating row applies, and the active limit follows; 2 s of low flow bring the 1,000 W row in;
a reading in a stop row, and 500 ms of flow below 1.0 L/min, stop the module until PWR_EN has fallen. -/
def CoolantReadings : Prop :=
  ∀ s : State, s.chip.board.phase = .on →
    (∀ r, stopNow r = false →
      Completes (.coolantReading r) s fun c =>
        c.reg Obj.coolantInletTemp = r.inlet.toNat ∧ c.reg Obj.coolantOutletTemp = r.outlet.toNat ∧
        c.reg Obj.coolantFlow = r.flow.toNat ∧ c.reg Obj.inputVoltage = r.inputVoltage.toNat ∧
        c.reg Obj.inputPower = r.inputPower.toNat ∧ c.reg Obj.tjWacorMax = r.tjWacor.toNat ∧
        c.board.inletHigh = f32Lt f32At40 r.inlet.toNat ∧
        c.board.flowLow = (s.chip.board.flowLow && f32Lt r.flow.toNat f32At1_5) ∧
        c.board.faultLow = (c.board.inletHigh || c.board.flowLow) ∧
        c.reg Obj.powerLimitActive = f32Min (f32Min (s.chip.reg Obj.powerLimit) c.board.derating) f32At1450 ∧
        c.board.phase = .on) ∧
    (∀ r, stopNow r = true →
      Completes (.coolantReading r) s fun c =>
        PoweredDown s.chip c ∧ c.board.thermalLatch = true ∧ c.board.faultLow = true) ∧
    (s.chip.board.below15 = true → s.chip.board.flowLow = false →
      Completes .flowLow2sExpiry s fun c =>
        c.board = { s.chip.board with flowLow := true, faultLow := true } ∧ bit (c.reg (Obj.stickyFamily 0)) 1 = true ∧
        c.reg Obj.powerLimitActive = f32Min (f32Min (s.chip.reg Obj.powerLimit) c.board.derating) f32At1450) ∧
    (s.chip.board.below10 = true →
      Completes .flowStop500msExpiry s fun c =>
        PoweredDown s.chip c ∧ c.board.thermalLatch = true ∧ c.board.faultLow = true)

/-- The locate indicator (R20): with the supplies in regulation and the time unit running it is lit while LOCATE_N is low or
LOCATE is true, and dark otherwise; at every other time it is dark. -/
def LocateIndicator : Prop :=
  ∀ (s : State) (low : Bool),
    Completes (.locateNChange low) s fun c =>
      c = { s.chip with board := { s.chip.board with
        locateLow := low
        indicator := s.chip.board.phase == .on && s.chip.time.running && (low || s.chip.reg Obj.locate == 1) } }

/-- The cages (R32, R33, R34): a module that advertises more than 18 W stays in low-power mode with CAGE_POWER_CLASS set;
removal empties the cage, whatever it held; more than 19.5 W for 10 ms takes its power and sets CAGE_OVERCURRENT. The other
cage stays as it was. -/
def Cages : Prop :=
  ∀ (s : State) (p : Fin 2),
    (∀ advertised, Completes (.cageInsert p advertised) s fun c =>
      c.board.cage p = ⟨true, true, f32Lt f32At18 advertised.toNat, false⟩ ∧
      (∀ q : Fin 2, q ≠ p → c.board.cage q = s.chip.board.cage q) ∧
      (f32Lt f32At18 advertised.toNat = true → bit (c.reg (Obj.stickyFamily 0)) 3 = true)) ∧
    Completes (.cageRemove p) s (fun c =>
      c.board.cage p = Cage.reset ∧ (∀ q : Fin 2, q ≠ p → c.board.cage q = s.chip.board.cage q) ∧
      (s.chip.reg (Obj.slkPortState p) ≠ 3 → c.reg (Obj.slkPortState p) = 0)) ∧
    ((s.chip.board.cage p).present = true → (s.chip.board.cage p).powered = true →
      Completes (.cageOvercurrent p) s fun c =>
        c.board.cage p = { s.chip.board.cage p with powered := false, overcurrent := true } ∧
        (∀ q : Fin 2, q ≠ p → c.board.cage q = s.chip.board.cage q) ∧
        bit (c.reg (Obj.stickyFamily 0)) 4 = true ∧ c.reg (Obj.slkPortState p) = 4)

/-- The board's inputs: LOCATE_N (R20), coolant and telemetry (R28, R30, R31) and the cages (R32 to R34). -/
def Obligations.BoardInputs : Prop := LocateIndicator ∧ CoolantReadings ∧ Cages

/-! ### Speed and power control (Architecture and Self-Timed Operation) -/

/-- The governor's decision keeps the core voltage between 680 and 750 mV and the pacing at most 90 %; it does not raise
while the power or the junction is over its target, and it never raises while pacing stands (R49, R50). -/
def GovernorBounds : Prop :=
  ∀ (v : Rat) (pacing since : Nat) (raise : Bool) (hold limit ceiling p tj : Rat),
    680 ≤ v → v ≤ 750 → 680 ≤ ceiling → pacing ≤ 90 →
    let r := govern v pacing since raise hold limit ceiling p tj
    680 ≤ r.v ∧ r.v ≤ 750 ∧ r.pacing ≤ 90 ∧
    ((limit - 25 < p ∨ 104 < tj) → r.v ≤ v ∧ r.raised = false) ∧
    (0 < pacing → r.v ≤ v) ∧
    (since < 50 → r.v ≤ v)

/-- Speed windows, slow monitors, governor decisions and crossing overruns take effect (R43, R46, R49, R57). -/
def SpeedCommands : Prop :=
  ∀ s : State,
    (∀ w l, s.chip.time.running = true →
      Completes (.speedWindow w l) s fun c =>
        c.gov.hcWacor = hcOf w ∧ c.gov.hcLink = hcOf l ∧
        c.gov.windows = ((hcOf w, hcOf l) :: s.chip.gov.windows).take 1000 ∧
        c.reg Obj.hcWacor = meanF32 (c.gov.windows.map (·.1)) ∧ c.reg Obj.hcLinkDie = meanF32 (c.gov.windows.map (·.2)) ∧
        c.reg Obj.hcWacorWorst = f32Max (s.chip.reg Obj.hcWacorWorst) (f32OfRat (hcOf w)) ∧
        c = { s.chip with gov := c.gov, step := c.step, regs := c.regs }) ∧
    (∀ die m, s.chip.board.phase = .on →
      Completes (.spdSlowDetect die m) s fun c =>
        c.gov = { s.chip.gov with
          spdRaise := s.chip.gov.spdRaise || die == .wacor, spdRaiseLink := s.chip.gov.spdRaiseLink || die == .link } ∧
        bit (c.reg (Obj.stickyFamily 1)) 0 = true ∧ { s.chip with gov := c.gov }.OnlyLogged c) ∧
    (∀ power tj link, s.chip.gov.started = true →
      let r := govern s.chip.gov.vWacor s.chip.gov.pacing s.chip.gov.sinceRaise s.chip.gov.spdRaise s.chip.gov.spdHold
        (ratOf .f32 (s.chip.reg Obj.powerLimitActive)) (ceilingMv (s.chip.reg Obj.vcoreCeiling)) (ratOf .f32 power.toNat)
        (ratOf .f32 tj.toNat)
      Completes (.governorDecision power tj link) s fun c =>
        c.gov.vWacor = r.v ∧ c.gov.pacing = r.pacing ∧ c.gov.spdHold = r.hold ∧
        c.gov.vLink = railLink s.chip.gov.vLink (ratOf .f32 link.toNat) ∧
        c.reg Obj.vcoreWacor = railCode (roundDown25 r.v) ∧ c.reg Obj.pacingDuty = r.pacing ∧
        c.board = s.chip.board ∧ c.array = s.chip.array ∧ c.mem = s.chip.mem) ∧
    (∀ b, s.chip.board.phase = .on →
      Completes (.rxCrossingOverrun b) s fun c =>
        c.gov = { s.chip.gov with rxOverruns := s.chip.gov.rxOverruns + 1 } ∧ bit (c.reg (Obj.stickyFamily 1)) 3 = true ∧
        { s.chip with gov := c.gov }.OnlyLogged c)

/-- The governor's bounds (R49, R50) and the effects of the speed commands (R43, R46, R49, R57). -/
def Obligations.SpeedControl : Prop := GovernorBounds ∧ SpeedCommands

/-! ### Resets and the start (Start-Up and Reset) -/

/-- A reset is taken as the kind of R450 to R452, reported in RESET_LAST_KIND (R447); a POWER or COLD one restarts the time
unit; the functions are then as Table 19-5 gives. -/
def ResetTaken (k : ResetKind) (c d : Chip) : Prop :=
  d.start.kind = k ∧ d.board.modReady = false ∧
  d.reg Obj.resetLastKind = kindCode k (c.emmc.runMark || (c.start.underway && c.start.unplanned)) ∧
  d.time = (if k.restartsTime then TimeUnit.reset else c.time) ∧
  d.array.tiles = [] ∧ d.array.castings = [] ∧ d.bz = Braze.reset ∧ d.cipher = Cipher.reset ∧ d.dma = [] ∧
  d.ident = Identity.reset ∧ d.step.on = false ∧ d.step.patina = [] ∧ d.emmc.runMark = false ∧
  d.emmc.startCount = c.emmc.startCount ∧
  (k.clearing = true → d.mem.cells = [] ∧ d.mem.up = false ∧ d.upd = UpdateUnit.reset ∧ d.map = SiteMap.reset ∧ d.rnd = Rounds.reset) ∧
  (k.clearing = false → d.mem.cells = c.mem.cells ∧ d.mem.up = c.mem.up ∧ d.upd.tensors = c.upd.tensors ∧ d.map.maps = c.map.maps) ∧
  (∀ key, isLogKey key = false → key ≠ Obj.resetLastKind →
    d.reg key = if k.keeps key then c.reg key else Obj.dflt key)

/-- Resets by request, by watchdog and by the tray (R448 to R452). -/
def ResetCommands : Prop :=
  ∀ s : State,
    (∀ k, s.chip.start.requested = some k →
      Completes .resetRequestDelayExpiry s fun c => ResetTaken (s.chip.resetKind k) s.chip c ∧ c.start.requested = none) ∧
    (s.chip.board.phase = .on → s.chip.start.core0Out = true →
      Completes .watchdogExpiry s fun c => ResetTaken (s.chip.resetKind .watchdog) s.chip c) ∧
    (s.chip.board.phase = .on → s.chip.time.running = true → s.chip.start.held = false →
      Completes .trayRstLong s fun c =>
        c.start.held = true ∧
        if s.chip.start.core0Out then ResetTaken (s.chip.resetKind .cold) s.chip c else c = s.chip.trayHeld true) ∧
    (s.chip.board.phase = .on → s.chip.start.held = true →
      ∀ ns, Completes (.trayRstRelease ns) s fun c => c = s.chip.trayHeld false) ∧
    (s.chip.board.phase = .on → s.chip.start.held = false → s.chip.time.running = true → s.chip.start.core0Out = true →
      ∀ ns, Completes (.trayRstRelease ns) s fun c =>
        if ns < 1000 then c = s.chip
        else ResetTaken (s.chip.resetKind (if ns < 10000000 then .warm else .cold)) s.chip c)

/-- A WATCHDOG reset with three others in the last 600 s of MONO is carried out as ESCALATED (R450), a keeping one with a
retirement copy running too (R452), and during a start the stronger kind stands (R451). -/
def ResetKindRules : Prop :=
  ∀ c : Chip,
    (c.start.underway = false → c.mem.copying = none →
      c.resetKind .power = .power ∧ c.resetKind .cold = .cold ∧ c.resetKind .warm = .warm ∧
      ((recentWatchdogs c.start.watchdogs c.time.mono).length < 3 → c.resetKind .watchdog = .watchdog) ∧
      (3 ≤ (recentWatchdogs c.start.watchdogs c.time.mono).length → c.resetKind .watchdog = .escalated)) ∧
    (c.start.underway = false → c.mem.copying.isSome = true → c.resetKind .warm = .escalated ∧ c.resetKind .watchdog = .escalated) ∧
    (c.start.underway = true → ∀ k, c.start.kind.rank ≤ (c.resetKind k).rank) ∧
    (c.start.underway = true → c.start.kind.clearing = true → ∀ k, (c.resetKind k).clearing = true)

/-- Resets by request, watchdog and tray, and the kind each is carried out as (R448 to R452). -/
def Obligations.Resets : Prop := ResetCommands ∧ ResetKindRules

/-- The rows of Table 19-3 up to the firmware (R449, R453, R455, R464, R471): the time unit runs from MONO 0; core 0 reads the PUF;
a slot that passes boots and the start is counted once; with neither slot passing the start is dead. -/
def StartToFirmware : Prop :=
  ∀ s : State, s.chip.board.phase = .on →
    (s.chip.start.stage = .reset →
      Completes .timeUnitStart s fun c =>
        c.time = { TimeUnit.reset with running := true } ∧ c.start = { s.chip.start with stage := .timeUnit } ∧
        c.regs = s.chip.regs ∧ c.mem = s.chip.mem) ∧
    (∀ p, s.chip.start.stage = .timeUnit → s.chip.start.held = false →
      Completes (.core0Release p) s fun c =>
        c.start.stage = .core0 ∧
        c.ident.seed = (match p.corrected with
          | some x => some (shake256 48 (pufRoot x ++ labelIdentity))
          | none => s.chip.ident.seed) ∧
        (p.corrected.isNone = true → bit (c.reg (Obj.stickyFamily 12)) 5 = true) ∧
        c.emmc = s.chip.emmc) ∧
    (∀ w, s.chip.start.stage = .core0 → s.chip.start.dead = false → s.chip.start.kind.clearing = true →
      Completes (.firmwareSlotVerified w) s fun c =>
        match s.chip.bootSlot.1 with
        | none => c.start.dead = true ∧ c.start.stage = .core0 ∧ c.emmc.startCount = s.chip.emmc.startCount
        | some (i, trial) =>
          c.start.stage = .firmware ∧ c.start.bootedSlot = i ∧ c.start.trial = trial ∧
          (w = .ok → s.chip.ident.seed.isSome = true →
            c.emmc.startCount = s.chip.emmc.startCount + 1 ∧ c.start.counterOk = true) ∧
          (w = .failed ∨ s.chip.ident.seed = none →
            c.emmc.startCount = s.chip.emmc.startCount ∧ bit (c.reg (Obj.stickyFamily 12)) 0 = true) ∧
          c.reg Obj.startCount = c.emmc.startCount.toNat)

/-- The rows of Table 19-3 from the processors to MOD_READY and the kept state (R193, R207, R454, R457, R91, R389). -/
def StartToService : Prop :=
  ∀ s : State, s.chip.board.phase = .on →
    (s.chip.start.stage = .firmware →
      Completes .processorsReleased s fun c =>
        c.start = { s.chip.start with stage := .processors } ∧ c.blob Obj.deviceId = c.deviceId ∧ c.emmc = s.chip.emmc) ∧
    (∀ l, s.chip.start.stage = .processors → s.chip.start.kind.clearing = true → s.chip.start.trained = false →
      Completes (.lpddr6TrainingComplete l) s fun c => c.start = { s.chip.start with trained := true }) ∧
    (s.chip.start.trained = true → s.chip.start.memoryWritten = false →
      Completes .lpddr6InitComplete s fun c =>
        c.start = { s.chip.start with memoryWritten := true } ∧ c.mem.up = true ∧ c.mem.cells = [] ∧ c.mem.tags = []) ∧
    (∀ r, s.chip.start.stage = .processors → s.chip.start.selfTested = false →
      Completes (.selfTestsComplete r) s fun c =>
        c.start = { s.chip.start with selfTested := true } ∧
        c.cipher.unitsFailed = r.unitsFailed.eraseDups.map (·.val) ∧
        c.reg Obj.cipherUnits = 256 - r.unitsFailed.eraseDups.length) ∧
    (s.chip.start.mayServe = true →
      Completes .modReadyAssert s fun c =>
        c.board.modReady = true ∧ c.start.stage = .ready ∧ c.flt.early = [] ∧
        (s.chip.start.trial = false → c.emmc.confirmed = s.chip.emmc.confirmed) ∧
        (s.chip.start.trial = true → s.chip.ident.seed.isSome = true →
          c.emmc.confirmed = s.chip.start.bootedSlot ∧ c.emmc.trial = 0)) ∧
    (∀ k, s.chip.start.stage = .ready → s.chip.start.kind.clearing = false → s.chip.start.restored = false →
      Completes (.keepingStateRestored k) s fun c =>
        if k.digestOk = true ∧ k.journalReadable = true then c.start = { s.chip.start with restored := true }
        else ResetTaken (s.chip.resetKind .escalated) s.chip c)

/-- The start of Table 19-3, from the time unit to MOD_READY and the kept state. -/
def Obligations.StartSequence : Prop := StartToFirmware ∧ StartToService

/-! ### The dictionary access protocol (The Dictionary Access Protocol) -/

/-- Every item of Table 17-3 as a request carries it. -/
def requestItem (i : DapItem) : Bytes :=
  beBytes 1 i.op ++ beBytes 1 i.type ++ beBytes 2 i.index ++ beBytes 1 i.sub ++ zeros 1 ++ beBytes 1 i.flags ++ zeros 1 ++
  beBytes 2 i.len ++ zeros 2 ++ beBytes 4 i.offset ++ padTo (pad4 i.value.length) i.value

/-- The fields of an item that a request may carry: OP 1 to 4; TYPE, INDEX, SUBINDEX, LEN and OFFSET within their widths; FLAGS
0 or 1; no OFFSET with OP 1 and 2; LEN the length of the value where one is carried; LEN 0 and no value with OP 1; no value
with OP 3. -/
def formedItem (i : DapItem) : Bool :=
  decide (1 ≤ i.op ∧ i.op ≤ 4) && decide (i.type < 256) && decide (i.index < 65536) && decide (i.sub < 256) &&
  decide (i.flags ≤ 1) && decide (i.len < 65536) && decide (i.offset < 4294967296) &&
  (!decide (i.op ≤ 2) || i.offset == 0) && (!(i.op == 1) || i.len == 0) &&
  (if i.op = 1 ∨ i.op = 3 then i.value.isEmpty else i.value.length == i.len)

/-- Items of a request are read as they were written (R422, Table 17-3): for every list of items, whatever their fields and
values within the widths, the items found in their bytes are exactly those items, and no form rule is broken. -/
def Obligations.RequestItemsReadAsWritten : Prop :=
  ∀ l : List DapItem, (∀ i ∈ l, formedItem i = true) → dapItems l.length (l.map requestItem).flatten = (l, false)

/-- A datagram that fails the header or the address check is discarded: it is counted in DAP_DISCARDS and changes nothing else,
and nothing is sent (R424). With the management port down or before MOD_READY there is no server. -/
def MalformedDatagramsAreDiscarded : Prop :=
  ∀ (s : State) (source : BitVec 128) (m : Bytes),
    (s.chip.board.modReady = true → s.chip.dap.linkUp = true →
      dapHeaderOk m = false ∨ s.chip.dapFrom (dapRq m) source = false →
      Completes (.dapRequest source m) s (fun c => c = s.chip.count Obj.dapDiscards 1 64) ∧
      Completes (.eventAck source m) s (fun c => c = s.chip.count Obj.dapDiscards 1 64)) ∧
    (s.chip.board.modReady = false ∨ s.chip.dap.linkUp = false →
      Completes (.dapRequest source m) s (fun c => c = s.chip))

/-- A request of the anonymous requester that only reads (R421, R424, R426, R429): the response leaves with one answer per item,
each from the state as it stands; besides it only DAP_REQUESTS and what refused items leave changes. -/
def AnonymousReadIsAnswered : Prop :=
  ∀ (s : State) (source : BitVec 128) (m : Bytes) (items : List DapItem),
    s.chip.board.modReady = true → s.chip.dap.linkUp = true → dapHeaderOk m = true → dapKind m = 1 → dapRq m = 0 →
    m.drop (m.length - 16) = zeros 16 → dapStart m = s.chip.emmc.startCount.toNat →
    dapItems (dapCount m) (slice m 40 (m.length - 56)) = (items, false) → (∀ i ∈ items, i.op = 1) →
    Completes (.dapRequest source m) s fun c =>
      (∃ answers : List DapAnswer, answers.length = items.length ∧ (answers.map fun a => a.item) = items ∧
        Out.dap 0 source (s.chip.dapMessage 0 2 items.length (dapXid m) 0 stOk s.chip.now64
          (answers.map DapAnswer.bytes).flatten) ∈ c.out) ∧
      (s.chip.count Obj.dapRequests 1 64).OnlyLogged c

/-- A request whose transaction id was seen, with the same tag, is not executed again: its kept response is sent once more,
byte for byte (R428); with another tag it is answered with XID_MISMATCH and not executed. -/
def RepeatedRequestIsNotExecuted : Prop :=
  ∀ (s : State) (source : BitVec 128) (m : Bytes) (n : Nat) (k : Bytes),
    s.chip.board.modReady = true → s.chip.dap.linkUp = true → s.chip.start.counterOk = true → dapHeaderOk m = true →
    dapKind m = 1 → dapRq m = n → n ≠ 0 → s.chip.dapFrom n source = true → s.chip.slotKey (3055 + n) = some k →
    cmac k (m.take (m.length - 16)) = m.drop (m.length - 16) → dapStart m = s.chip.emmc.startCount.toNat →
    (∀ r, (s.chip.dap.req n).verdict (BitVec.ofNat 32 (dapXid m)) (m.drop (m.length - 16)) = .repeated r →
      Completes (.dapRequest source m) s fun c =>
        c.out = Out.dap n source r :: s.chip.out ∧ c = { s.chip with regs := c.regs, out := c.out }) ∧
    ((s.chip.dap.req n).verdict (BitVec.ofNat 32 (dapXid m)) (m.drop (m.length - 16)) = .mismatch →
      Completes (.dapRequest source m) s fun c => c = { s.chip with regs := c.regs, out := c.out })

/-- Request datagrams: malformed ones, anonymous reads and repeated transaction ids (R421 to R429). -/
def Obligations.RequestsAtTheServer : Prop := MalformedDatagramsAreDiscarded ∧ AnonymousReadIsAnswered ∧ RepeatedRequestIsNotExecuted

/-- An acknowledgement frees every event up to its sequence number and no later one, and is not answered (R437). -/
def AcknowledgementFreesEvents : Prop :=
  ∀ (s : State) (source : BitVec 128) (m : Bytes) (n : Nat) (k : Bytes),
    s.chip.board.modReady = true → s.chip.dap.linkUp = true → dapHeaderOk m = true → dapKind m = 4 → dapRq m = n → n ≠ 0 →
    s.chip.dapFrom n source = true → s.chip.slotKey (3055 + n) = some k →
    cmac k (m.take (m.length - 16)) = m.drop (m.length - 16) → dapStart m = s.chip.emmc.startCount.toNat →
    dapXid m ≤ (s.chip.dap.req n).sent →
    Completes (.eventAck source m) s fun c =>
      (c.dap.req n).events = (s.chip.dap.req n).events.filter (fun e => decide (dapXid m < e.seq)) ∧
      c.reg (Obj.reqEventsPending n) = (c.dap.req n).events.length ∧
      c = { s.chip with regs := c.regs, dap := c.dap }

/-- Transaction ids (R427): the first id of a start is new; an id up to 2^20 above the highest is new and becomes the highest; one
more than that above it is stale. -/
def Obligations.TransactionIdWindow : Prop :=
  ∀ (r : ReqState) (t : BitVec 32) (tag : Bytes),
    (r.high = none → r.verdict t tag = .new ∧ (r.take t).high = some t) ∧
    (∀ h, r.high = some h → 1 ≤ xidAhead h t → xidAhead h t ≤ 1048576 → r.verdict t tag = .new ∧ (r.take t).high = some t) ∧
    (∀ h, r.high = some h → 1048576 < xidAhead h t → xidWindow ≤ xidAhead t h → r.verdict t tag = .stale) ∧
    (∀ h, r.high = some h → xidAhead t h < xidWindow → (r.take t).high = some h)

/-- A write of an object that has no rule of its own is stored (R8, R9): the object then reads the value, its unassigned bits
0, every other register reads as before and nothing else changes but the answer that leaves. -/
def Obligations.RegisterWriteIsStored : Prop :=
  ∀ (s : State) (rq : Fin 17) (index : BitVec 16) (sub type : Byte) (value : Bytes) (d : ObjDef),
    let key := objKey index.toNat sub.toNat
    s.chip.permits rq key value = true → Obj.lookup index.toNat sub.toNat = some d → type.toNat = d.ty.code →
    d.ty.fixed = true → d.access = .rw ∨ d.access = .rwl →
    ((boardRules d (index.toNat - d.index) ++ stepRules d (index.toNat - d.index) ++ serviceRules d).find? fun e =>
      e.1 == objKey d.index d.sub).isNone = true →
    Completes (.registerWrite rq index sub type value) s fun c =>
      c.reg key = d.range.stored (leNat value) ∧ (∀ j, j ≠ key → c.reg j = s.chip.reg j) ∧
      c.out = Out.item rq key (BitVec.ofNat 8 d.doneStatus) [] :: s.chip.out ∧
      c = { s.chip with regs := c.regs, out := c.out }

/-- DOMAIN transfers (R434): a segment read at offset 0 takes a snapshot and returns its first bytes; a segment written that is not
the last is kept in an open transfer and has no effect; the last one takes effect with the bytes of all segments in order
(here on CASTING_STAGE); a transfer that has been idle is closed without effect. -/
def Obligations.DomainTransfers : Prop :=
  ∀ (s : State) (rq : Fin 17),
    (∀ (index : BitVec 16) (sub : Byte) (len : BitVec 16) (d : ObjDef),
      let key := objKey index.toNat sub.toNat
      s.chip.board.modReady = true → Obj.lookup index.toNat sub.toNat = some d → d.ty = .domain →
      s.chip.readStatus rq d key = stOk → len.toNat ≤ 4096 → s.chip.dap.transfers = [] →
      Completes (.domainSegmentRead rq index sub 0 len) s fun c =>
        Out.item rq key 0 (slice (s.chip.view d key) 0 len.toNat) ∈ c.out ∧
        (len.toNat < (s.chip.view d key).length →
          findTransfer c.dap.transfers rq key = some ⟨rq, key, false, s.chip.view d key, [(0, len.toNat)]⟩)) ∧
    (∀ data, s.chip.permits rq Obj.castingStage data = true → data.length ≤ 4096 → s.chip.dap.transfers = [] →
      Completes (.domainSegmentWrite rq (BitVec.ofNat 16 (Obj.castingStage / 256)) (BitVec.ofNat 8 Obj.castingStage) 0 false data) s
        fun c => c.dap.transfers = [⟨rq, Obj.castingStage, true, data, []⟩] ∧
          c.out = Out.item rq Obj.castingStage 0 [] :: s.chip.out ∧ c = { s.chip with dap := c.dap, out := c.out }) ∧
    (∀ data before, s.chip.permits rq Obj.castingStage (before ++ data) = true → data.length ≤ 4096 → before ≠ [] →
      before.length < 4294967296 → s.chip.dap.transfers = [⟨rq, Obj.castingStage, true, before, []⟩] →
      Completes (.domainSegmentWrite rq (BitVec.ofNat 16 (Obj.castingStage / 256)) (BitVec.ofNat 8 Obj.castingStage)
          (BitVec.ofNat 32 before.length) true data) s
        fun c => c.dap.transfers = [] ∧ c.blob Obj.castingStage = before ++ data) ∧
    (∀ (index : BitVec 16) (sub : Byte) (t : Transfer),
      findTransfer s.chip.dap.transfers rq (objKey index.toNat sub.toNat) = some t →
      Completes (.domainIdleExpiry rq index sub) s fun c =>
        c.dap.transfers = dropTransfer s.chip.dap.transfers rq (objKey index.toNat sub.toNat) ∧
        s.chip.sil.nextSeq < c.sil.nextSeq ∧ c.blobs = s.chip.blobs ∧ c.emmc = s.chip.emmc)

/-- Events not yet acknowledged are sent again, each to its requester, and stay held (R437); the management port's state
follows its link. -/
def EventResendAndLink : Prop :=
  ∀ s : State,
    (s.chip.board.modReady = true → s.chip.dap.linkUp = true →
      Completes .eventResendTimer s fun c =>
        (∀ q ∈ s.chip.emmc.config.requesters, ∀ e ∈ (s.chip.dap.req q.n).events, Out.event q.n e ∈ c.out) ∧
        c = { s.chip with regs := c.regs, out := c.out }) ∧
    (∀ up, Completes (.mgmtLinkChange up) s fun c =>
      c.dap.linkUp = up ∧ c.emmc = s.chip.emmc ∧ c.array = s.chip.array ∧ c.mem = s.chip.mem)

/-- Events are held until acknowledged and sent again meanwhile (R437); the management port follows its link. -/
def Obligations.EventsAndLink : Prop := AcknowledgementFreesEvents ∧ EventResendAndLink

/-! ### Dictionary writes of the board, the rails and the clock -/

/-- POWER_LIMIT, VCORE_CEILING, TIME_SET and RESET_REQUEST, each permitted (R28, R46, R51, R269, R448): the value takes effect and the
write is answered. -/
def Obligations.BoardWrites : Prop :=
  ∀ (s : State) (rq : Fin 17),
    (∀ v : F32, s.chip.permits rq Obj.powerLimit (leBytes 4 v.toNat) = true →
      Completes (.powerLimitWrite rq v) s fun c =>
        c.reg Obj.powerLimit = v.toNat ∧
        c.reg Obj.powerLimitActive = f32Min (f32Min v.toNat s.chip.board.derating) f32At1450 ∧
        (∀ k, k ≠ Obj.powerLimit → k ≠ Obj.powerLimitActive → c.reg k = s.chip.reg k) ∧
        c.out = Out.item rq Obj.powerLimit 0 [] :: s.chip.out ∧ c = { s.chip with regs := c.regs, out := c.out }) ∧
    (∀ v : F32, s.chip.permits rq Obj.vcoreCeiling (leBytes 4 v.toNat) = true →
      Completes (.vcoreCeilingWrite rq v) s fun c =>
        c.reg Obj.vcoreCeiling = v.toNat ∧ (∀ k, k ≠ Obj.vcoreCeiling → c.reg k = s.chip.reg k) ∧
        c = { s.chip with regs := c.regs, out := c.out, gov := { s.chip.gov with spdHold := 0 } }) ∧
    (∀ v : BitVec 64, s.chip.permits rq Obj.timeSet (leBytes 8 v.toNat) = true → s.chip.time.ptpSource = 0 →
      Completes (.timeSet rq v) s fun c =>
        c.now = v.toInt ∧ c.time.set = true ∧ c.time.byOperator = true ∧ c.time.slew = 0 ∧ c.time.mono = s.chip.time.mono ∧
        c.emmc = s.chip.emmc ∧ c.array = s.chip.array) ∧
    (s.chip.permits rq Obj.resetRequest [2] = true →
      Completes (.resetRequestCold rq) s fun c =>
        c = { s.chip.answered rq Obj.resetRequest with start := { s.chip.start with requested := some (match s.chip.start.requested with
          | some j => j.stronger .cold
          | none => .cold) } }) ∧
    (s.chip.permits rq Obj.resetRequest [3] = true →
      Completes (.resetRequestWarm rq) s fun c =>
        c = { s.chip.answered rq Obj.resetRequest with start := { s.chip.start with requested := some (match s.chip.start.requested with
          | some j => j.stronger .warm
          | none => .warm) } })

/-! ### Firmware, identity and quotes -/

/-- Firmware slots (R469, R470): an install that may open marks the inactive slot incomplete and leaves the other one as it is;
read back, it is recorded verified exactly where no check of R468 fails; activation arms the trial in the control block. -/
def FirmwareSlots : Prop :=
  ∀ (s : State) (rq : Fin 17),
    (∀ image, s.chip.permits rq Obj.fwInstall image = true → s.chip.emmc.trial = 0 → s.chip.installOpen = false →
      Completes (.fwInstall rq image) s fun c =>
        c.ident.install = some (s.chip.origin rq) ∧ c.emmc.slot s.chip.inactive = ⟨image, 1, 0⟩ ∧
        c.emmc.slot (otherSlot s.chip.inactive) = s.chip.emmc.slot (otherSlot s.chip.inactive) ∧ c.emmc.runMark = true ∧
        c.emmc.trial = 0) ∧
    (∀ readBack o, s.chip.ident.install = some o →
      let code := if readBack = .failed then fwEmmc
        else verifyImage s.chip.emmc (Nat.max s.chip.emmc.rollbackMin.toNat s.chip.start.fwVersion.toNat)
          (s.chip.emmc.slot s.chip.inactive).image
      Completes (.fwInstallComplete readBack) s fun c =>
        c.ident.install = none ∧ c.reg Obj.fwLastReason = code ∧
        (c.emmc.slot s.chip.inactive).state = (if code = 0 then 2 else 3) ∧
        (c.emmc.slot s.chip.inactive).image = (s.chip.emmc.slot s.chip.inactive).image ∧
        c.emmc.slot (otherSlot s.chip.inactive) = s.chip.emmc.slot (otherSlot s.chip.inactive) ∧
        (code ≠ 0 → bit (c.reg (Obj.stickyFamily 12)) 2 = true)) ∧
    (∀ v, s.chip.permits rq Obj.fwActivate [v] = true → s.chip.emmc.slotState s.chip.inactive = 2 → s.chip.emmc.trial = 0 →
      s.chip.installOpen = false → s.chip.ident.seed.isSome = true →
      Completes (.fwActivate rq v) s fun c =>
        c.emmc = { s.chip.emmc with trial := 1 } ∧ c.reg Obj.fwLastReason = 0)

/-- Identity (R466, R475 to R478, R481): enrolment of the PUF is accepted once; nonces wait in order and each gives one quote by the
device key; a configuration set takes effect as a whole where no check of R476 fails and not at all otherwise; an enrolment
record that R481 accepts changes the enrolled list. -/
def IdentityCommands : Prop :=
  ∀ (s : State) (rq : Fin 17),
    (∀ v, s.chip.permits rq Obj.pufEnrol [v] = true → s.chip.emmc.keyProgrammed = false →
      Completes (.pufEnrol rq v) s fun c =>
        c.emmc = { s.chip.emmc with keyProgrammed := true } ∧ c.ident = { s.chip.ident with puf := 1 }) ∧
    (∀ v, s.chip.permits rq Obj.pufEnrol [v] = true → s.chip.emmc.keyProgrammed = true →
      Completes (.pufEnrol rq v) s fun c => c.emmc = s.chip.emmc ∧ c.ident = s.chip.ident ∧ c.reg Obj.fwLastReason = fwPuf) ∧
    (∀ nonce, s.chip.permits rq Obj.hallmarkNonce nonce = true → nonce.length = 32 →
      Completes (.hallmarkNonce rq nonce) s fun c =>
        c = { s.chip.answered rq Obj.hallmarkNonce with
          ident := { s.chip.ident with quotes := s.chip.ident.quotes ++ [(nonce, s.chip.origin rq)] } }) ∧
    (∀ nonce o rest seed, s.chip.ident.quotes = (nonce, o) :: rest → s.chip.ident.seed = some seed →
      Completes .hallmarkQuoteComplete s fun c =>
        c.blob Obj.hallmarkQuote = s.chip.quoteFor seed nonce ∧ c.ident.quotes = rest ∧
        c.ident.signed = s.chip.ident.signed + 1 ∧ c.emmc = s.chip.emmc) ∧
    (∀ set, s.chip.permits rq Obj.configRecords set = true →
      Completes (.configRecordsWrite rq set) s fun c =>
        (s.chip.checkSet set ≠ 0 → c.emmc = s.chip.emmc ∧ c.cipher = s.chip.cipher ∧
          c.reg Obj.fwLastReason = s.chip.checkSet set ∧ bit (c.reg (Obj.stickyFamily 12)) 7 = true) ∧
        (s.chip.checkSet set = 0 → c.emmc.config = configSetOf set ∧ c.emmc.enrolled = (configSetOf set).peers ∧
          c.emmc.enrolSeq = none)) ∧
    (∀ record l, s.chip.permits rq Obj.peerEnrol record = true → record.length = 56 → s.chip.enrolledBy record = some l →
      Completes (.peerEnrol rq record) s fun c =>
        c.emmc = { s.chip.emmc with enrolled := l, enrolSeq := some (u32At record 4) })

/-- Firmware slots (R469, R470) and identity (R466, R475 to R478, R481). -/
def Obligations.FirmwareAndIdentity : Prop := FirmwareSlots ∧ IdentityCommands

/-! ### Service and faults -/

/-- Sticky words (R445, R488, R489): a permitted write clears the bits written as 1 and leaves the others; a bit whose condition
still applies stays set; no other register changes. -/
def StickyWordsClear : Prop :=
  ∀ (s : State) (rq : Fin 17),
    (∀ (f : Fin 32) (v : BitVec 32),
      let key := Obj.stickyFamily f
      s.chip.permits rq key (leBytes 4 v.toNat) = true →
      Completes (.stickyFamilyClear rq f v) s fun c =>
        c.reg key = (s.chip.reg key - (s.chip.reg key &&& v.toNat)) ||| (s.chip.reg key &&& s.chip.heldSticky key) ∧
        (∀ j, j ≠ key → c.reg j = s.chip.reg j) ∧ c = { s.chip with regs := c.regs, out := c.out }) ∧
    (∀ (h : Fin 256) (v : BitVec 64),
      let key := Obj.regionSticky h
      s.chip.permits rq key (leBytes 8 v.toNat) = true →
      Completes (.regionStickyClear rq h v) s fun c =>
        c.reg key = s.chip.reg key - (s.chip.reg key &&& v.toNat) ∧
        (∀ j, j ≠ key → c.reg j = s.chip.reg j) ∧ c = { s.chip with regs := c.regs, out := c.out })

/-- The fault log's copy (R482, R486): the entries not yet copied go to the eMMC in order, or, where the write fails, copying stops
with COPY_FAIL. -/
def FaultLogIsCopied : Prop :=
  ∀ s : State, s.chip.board.phase = .on → s.chip.start.core0Out = true → s.chip.board.emmcOpen = true →
    s.chip.flt.copyStopped = false →
    let l := s.chip.flt.entries.filter fun e => decide (s.chip.flt.uncopied ≤ e.seq)
    l ≠ [] →
    Completes (.faultLogCopy .ok) s (fun c =>
      c.emmc.faultCopy = (s.chip.emmc.faultCopy ++ l).drop ((s.chip.emmc.faultCopy ++ l).length - copyLimit) ∧
      c.flt = { s.chip.flt with uncopied := s.chip.flt.nextSeq } ∧ c = { s.chip with emmc := c.emmc, flt := c.flt }) ∧
    Completes (.faultLogCopy .failed) s (fun c =>
      c.flt.copyStopped = true ∧ bit (c.reg (Obj.stickyFamily 13)) 0 = true ∧ c.emmc = s.chip.emmc)

/-- Sticky words clear by writing 1 (R445, R488, R489), and the fault log is copied to the eMMC (R482, R486). -/
def Obligations.FaultWords : Prop := StickyWordsClear ∧ FaultLogIsCopied

/-- A service operation (R490 to R495) that nothing forbids begins: SERVICE_STATE reads 1 and the operation stands with its argument
and the write it answers. -/
def ServiceBegins (i : Instr) (s : State) (rq : Fin 17) (op : Byte) : Prop :=
  s.chip.permits rq Obj.serviceOp [op] = true → s.chip.reg Obj.serviceState ≠ 1 →
  s.chip.svcCheck op.toNat (s.chip.reg Obj.serviceArg) = svcOk →
  Completes i s fun c =>
    c.svc = ⟨op.toNat, BitVec.ofNat 64 (s.chip.reg Obj.serviceArg), some (s.chip.origin rq), 0⟩ ∧
    c.reg Obj.serviceState = 1 ∧ c.board = s.chip.board

/-- The five service operations begin (Table 21-5); a log flush ends with SERVICE_STATE 2 where the eMMC took all of it and with 3
where it did not; an operation whose start found a reason ends with 3 and SVC_FAIL. -/
def Obligations.ServiceOperations : Prop :=
  ∀ (s : State) (rq : Fin 17),
    ServiceBegins (.rejoin rq) s rq 1 ∧ ServiceBegins (.parkedRetry rq) s rq 2 ∧ ServiceBegins (.tileTest rq) s rq 3 ∧
    ServiceBegins (.scrubNow rq) s rq 4 ∧ ServiceBegins (.logFlush rq) s rq 5 ∧
    (∀ r, s.chip.svc.origin.isSome = true → s.chip.svc.reason = 0 → s.chip.svc.op = 5 → s.chip.flt.copyStopped = false →
      s.chip.sil.spillStopped = false →
      Completes (.serviceOpComplete r) s fun c =>
        c.svc = Service.reset ∧ c.reg Obj.serviceState = (if r = .ok then 2 else 3) ∧
        (r = .ok → c.sil.spilled = s.chip.sil.ring.length)) ∧
    (∀ r, s.chip.svc.origin.isSome = true → s.chip.svc.reason ≠ 0 → s.chip.array.loader = [] →
      Completes (.serviceOpComplete r) s fun c =>
        c.svc = Service.reset ∧ c.reg Obj.serviceState = 3 ∧ bit (c.reg (Obj.stickyFamily 13)) 1 = true)

/-! ### Tiles: the vector engine (The Vector Engine) -/

/-- Where an instruction of Table 5-3 leaves its result. -/
inductive VectorDest where
  | nothing
  | vector
  /-- The pair vd, vd + 1. -/
  | pair
  /-- PACK: vd, with the scales in vc for an MX format or lo in vd + 1 for the pair format. -/
  | pack
  /-- UNPACK: vd, and vd + 1 for the pair format. -/
  | unpack
  | mask
  | scalar

/-- A register instruction of Table 5-3: its command, what makes it valid (R152), its effect on the tile's registers. -/
structure VectorRow where
  cmd : Fin 544 → VFields → Instr
  rule : VRule
  regs : VRegs
  extra : VIn → VFields → Tile → Bool
  body : VBody
  dest : VectorDest

def vectorRows0 : List VectorRow := [
  ⟨.nop, ⟨tyNone, false, 0⟩, .plain, noExtra, vNop, .nothing⟩,
  ⟨.sli, ⟨tyNone, false, 0x3FFFFFF⟩, .toScalar, noExtra, vSli, .scalar⟩,
  ⟨.sadd, ⟨tyNone, false, 0x3FFFFFF⟩, .scalarToScalar, noExtra, vSadd, .scalar⟩,
  ⟨.add, ⟨tyFHBIU, true, 0⟩, .plain, noExtra, vAdd, .vector⟩,
  ⟨.sub, ⟨tyFHBIU, true, 0⟩, .plain, noExtra, vSub, .vector⟩,
  ⟨.mul, ⟨tyFHBIU, true, 0⟩, .plain, noExtra, vMul, .vector⟩,
  ⟨.fma, ⟨tyFHB, true, 0⟩, .plain, noExtra, vFma, .vector⟩,
  ⟨.fms, ⟨tyFHB, true, 0⟩, .plain, noExtra, vFms, .vector⟩,
  ⟨.div, ⟨tyF, true, 0⟩, .plain, noExtra, vDiv, .vector⟩,
  ⟨.sqrt, ⟨tyF, true, 0⟩, .plain, noExtra, vSqrt, .vector⟩,
  ⟨.max, ⟨tyFHBIU, false, 0⟩, .plain, noExtra, vMax, .vector⟩,
  ⟨.min, ⟨tyFHBIU, false, 0⟩, .plain, noExtra, vMin, .vector⟩,
  ⟨.abs, ⟨tyFHB, false, 0⟩, .plain, noExtra, vAbs, .vector⟩,
  ⟨.neg, ⟨tyFHB, false, 0⟩, .plain, noExtra, vNeg, .vector⟩]

def vectorRows1 : List VectorRow := [
  ⟨.and, ⟨tyIU, false, 0⟩, .plain, noExtra, vAnd, .vector⟩,
  ⟨.or, ⟨tyIU, false, 0⟩, .plain, noExtra, vOr, .vector⟩,
  ⟨.xor, ⟨tyIU, false, 0⟩, .plain, noExtra, vXor, .vector⟩,
  ⟨.shl, ⟨tyIU, false, 0x3F⟩, .plain, noExtra, vShl, .vector⟩,
  ⟨.shr, ⟨tyIU, false, 0x3F⟩, .plain, noExtra, vShr, .vector⟩,
  ⟨.twosum, ⟨tyFH, false, 0⟩, .pairTo, noExtra, vTwosum, .pair⟩,
  ⟨.twoprod, ⟨tyFH, false, 0⟩, .pairTo, noExtra, vTwoprod, .pair⟩,
  ⟨.pairadd, ⟨tyFH, false, 0⟩, .pairToFrom, noExtra, vPairadd, .pair⟩,
  ⟨.cmpeq, ⟨tyFIU, false, 0⟩, .toMask, noExtra, (vCompare .eq), .mask⟩,
  ⟨.cmpne, ⟨tyFIU, false, 0⟩, .toMask, noExtra, (vCompare .ne), .mask⟩,
  ⟨.cmplt, ⟨tyFIU, false, 0⟩, .toMask, noExtra, (vCompare .lt), .mask⟩,
  ⟨.cmple, ⟨tyFIU, false, 0⟩, .toMask, noExtra, (vCompare .le), .mask⟩,
  ⟨.cmpgt, ⟨tyFIU, false, 0⟩, .toMask, noExtra, (vCompare .gt), .mask⟩,
  ⟨.cmpge, ⟨tyFIU, false, 0⟩, .toMask, noExtra, (vCompare .ge), .mask⟩]

def vectorRows2 : List VectorRow := [
  ⟨.sel, ⟨tyFHBIU, false, 0⟩, .noMz, noExtra, vSel, .vector⟩,
  ⟨.cls, ⟨tyF, false, 0⟩, .plain, noExtra, vClass, .vector⟩,
  ⟨.mand, ⟨tyNone, false, 0⟩, .maskToMask, noExtra, vMand, .mask⟩,
  ⟨.mor, ⟨tyNone, false, 0⟩, .maskToMask, noExtra, vMor, .mask⟩,
  ⟨.mnot, ⟨tyNone, false, 0⟩, .maskToMask1, noExtra, vMnot, .mask⟩,
  ⟨.perm, ⟨tyFHBIU, false, 0⟩, .plain, noExtra, vPerm, .vector⟩,
  ⟨.rot, ⟨tyFHBIU, false, 0x3F⟩, .plain, noExtra, vRot, .vector⟩,
  ⟨.bfly, ⟨tyFHBIU, false, 0x3F⟩, .plain, noExtra, vBfly, .vector⟩,
  ⟨.bcast, ⟨tyFHBIU, false, 0x3F⟩, .plain, noExtra, vBcast, .vector⟩,
  ⟨.splat, ⟨tyFHBIU, false, 0⟩, .fromScalar, noExtra, vSplat, .vector⟩,
  ⟨.iota, ⟨tyIU, false, 0⟩, .fromScalar, noExtra, vIota, .vector⟩,
  ⟨.zip, ⟨tyFHBIU, false, 1⟩, .plain, noExtra, vZip, .vector⟩,
  ⟨.unzip, ⟨tyFHBIU, false, 1⟩, .plain, noExtra, vUnzip, .vector⟩,
  ⟨.pack, ⟨tyF, true, 0x3FFFFC0⟩, .plain, packOk, vPack, .pack⟩]

def vectorRows3 : List VectorRow := [
  ⟨.unpack, ⟨tyF, false, 0x3FFFF80⟩, .plain, unpackOk, vUnpack, .unpack⟩,
  ⟨.rsum, ⟨tyFHB, true, 0x3C00001⟩, .plain, noExtra, vRsum, .vector⟩,
  ⟨.rprod, ⟨tyFHB, true, 0x3C00001⟩, .plain, noExtra, vRprod, .vector⟩,
  ⟨.rmax, ⟨tyFHB, false, 0x3C00001⟩, .plain, noExtra, vRmax, .vector⟩,
  ⟨.rmin, ⟨tyFHB, false, 0x3C00001⟩, .plain, noExtra, vRmin, .vector⟩,
  ⟨.rargmax, ⟨tyFHB, false, 0x3C00001⟩, .plain, argBaseOk, vRargmax, .vector⟩,
  ⟨.rargmin, ⟨tyFHB, false, 0x3C00001⟩, .plain, argBaseOk, vRargmin, .vector⟩]

def vectorRows : List VectorRow := vectorRows0 ++ vectorRows1 ++ vectorRows2 ++ vectorRows3

/-- The instruction issues in tile `tile`: the tile runs, and, once the queued loads of its registers have taken place (R134), the
program has a word there that is no matrix command and its fields are valid. -/
def issues (c : Chip) (tile : Nat) (f : VFields) (r : VectorRow) : Bool :=
  (c.tile tile).running &&
  let c := c.settle tile f
  (c.tile tile).fetchOk && r.rule.ok f && r.regs.ok f && r.extra (c.vIn tile) f (c.tile tile)

/-- Every register instruction that issues has its effect on its tile (Table 5-3), is counted, and leaves every other tile, the
board, LPDDR6, the update unit, the cipher engine and the eMMC as they were; the next instruction is the next word. -/
def Obligations.VectorInstructionsTakeEffect : Prop :=
  ∀ r ∈ vectorRows, ∀ (s : State) (tile : Fin 544) (f : VFields), issues s.chip tile f r = true →
    let t := (s.chip.settle tile f).tile tile
    Completes (r.cmd tile f) s fun c =>
      c.tile tile = { (r.body ((s.chip.settle tile f).vIn tile) f t).tile with pc := t.pc + 1 } ∧
      c.reg Obj.vecIssued = (s.chip.reg Obj.vecIssued + 1) % 2 ^ 64 ∧
      (∀ p, p ≠ tile.val → c.tile p = s.chip.tile p) ∧
      c.board = s.chip.board ∧ c.mem = s.chip.mem ∧ c.upd = s.chip.upd ∧ c.cipher = s.chip.cipher ∧ c.emmc = s.chip.emmc

/-- A register instruction whose word breaks R152 reads and writes nothing: its tile stops with a tile fault, VEC_INSTR_INVALID is
counted, and the region of the tile is stopped by tile fault. -/
def Obligations.InvalidVectorInstruction : Prop :=
  ∀ r ∈ vectorRows, ∀ (s : State) (tile : Fin 544) (f : VFields) (h : Nat),
    (s.chip.tile tile).running = true → (s.chip.tile tile).memQueue = [] → (s.chip.tile tile).region = some h → h < 256 →
    (r.rule.ok f && r.regs.ok f) = false →
    Completes (r.cmd tile f) s fun c =>
      c.tile tile = { s.chip.tile tile with status := .faulted } ∧
      c.reg Obj.vecInstrInvalidCount = (s.chip.reg Obj.vecInstrInvalidCount + 1) % 2 ^ 32 ∧
      bit (c.reg (Obj.regionSticky h)) bitVecInstrInvalid = true ∧ c.reg (Obj.regionState h) = 4 ∧
      (∀ p, p ≠ tile.val → c.tile p = s.chip.tile p)

/-- Vector registers that an instruction's destination names. -/
def VectorDest.regs (d : VectorDest) (f : VFields) : List Nat :=
  match d with
  | .vector => [f.vd.toNat]
  | .pair => [f.vd.toNat, f.vd.toNat + 1]
  | .pack => if f.fmt = 13 then [f.vd.toNat, f.vd.toNat + 1] else [f.vd.toNat, f.vc.toNat]
  | .unpack => if f.fmt = 13 then [f.vd.toNat, f.vd.toNat + 1] else [f.vd.toNat]
  | _ => []

/-- The frame of the register instructions: only the destination's registers change; memory, queues, descriptors, table and
everything else of the tile stay. -/
def Obligations.VectorInstructionFrame : Prop :=
  ∀ r ∈ vectorRows, ∀ (i : VIn) (f : VFields) (t : Tile),
    let u := (r.body i f t).tile
    u = { t with vregs := u.vregs, mregs := u.mregs, sregs := u.sregs } ∧
    (∀ n, n ∉ r.dest.regs f → u.vreg n = t.vreg n) ∧
    (∀ k, (r.dest = .mask → k ≠ f.vd.toNat) → u.mreg k = t.mreg k) ∧
    (∀ k, (r.dest = .scalar → k ≠ f.vd.toNat) → u.sreg k = t.sreg k)

/-- The registers of a tile (R129): v0 to v31 hold 2,048 bits, m1 to m7 and s1 to s15 hold 64 bits, and each reads what was written to
it last and no other; m0 always reads as all ones and s0 as 0, whatever is written to them; and an instruction that names m0 or
s0 as its destination is invalid, in every form that has such a destination. -/
def Obligations.TileRegisters : Prop :=
  (∀ (t : Tile) (v k j : Nat), k ≠ j →
    ((t.setVreg k v).vreg k = v % 2 ^ 2048 ∧ (t.setVreg k v).vreg j = t.vreg j) ∧
    (k ≠ 0 → (t.setMreg k v).mreg k = v % 2 ^ 64 ∧ (t.setSreg k v).sreg k = v % 2 ^ 64) ∧
    (t.setMreg k v).mreg j = t.mreg j ∧ (t.setSreg k v).sreg j = t.sreg j ∧
    (t.setMreg k v).mreg 0 = 2 ^ 64 - 1 ∧ (t.setSreg k v).sreg 0 = 0) ∧
  (∀ f : VFields, f.vd = 0 →
    VRegs.toMask.ok f = false ∧ VRegs.maskToMask.ok f = false ∧ VRegs.maskToMask1.ok f = false ∧
    VRegs.toScalar.ok f = false ∧ VRegs.scalarToScalar.ok f = false) ∧
  (∀ r ∈ vectorRows, (r.dest = .mask ∨ r.dest = .scalar) → ∀ f : VFields, f.vd = 0 → r.regs.ok f = false)

/-- Lane `j` of an instruction's destination after it: `new` where the lane is active; elsewhere 0 under MZ and the old lane
otherwise (R132). -/
def LaneIs (i : VIn) (f : VFields) (t : Tile) (body : VBody) (j new : Nat) : Prop :=
  laneOf ((body i f t).tile.vreg f.vd.toNat) j =
    if bit (f.active t) j then new else if f.mz = 1 then 0 else laneOf (t.vreg f.vd.toNat) j

/-- Integer and bitwise instructions lane by lane (Table 5-3): arithmetic is modulo 2^32, shifts are logical but for SHR of I32, the
order of MAX and MIN is signed for I32; ABS and NEG act on the sign bit of a binary32. -/
def IntegerLanes : Prop :=
  ∀ (i : VIn) (f : VFields) (t : Tile) (j : Nat), j < 64 →
    let a := laneOf (t.vreg f.va.toNat) j
    let b := laneOf (t.vreg f.vb.toNat) j
    (3 ≤ f.ty.toNat → f.ty.toNat ≤ 4 →
      LaneIs i f t vAdd j ((a + b) % 2 ^ 32) ∧ LaneIs i f t vSub j ((a + 2 ^ 32 - b) % 2 ^ 32) ∧
      LaneIs i f t vMul j (a * b % 2 ^ 32) ∧
      LaneIs i f t vAnd j (a &&& b) ∧ LaneIs i f t vOr j (a ||| b) ∧ LaneIs i f t vXor j (a ^^^ b) ∧
      LaneIs i f t vShl j (a * 2 ^ f.count % 2 ^ 32) ∧
      LaneIs i f t vMax j (if intLt f.ty.toNat a b then b else a) ∧
      LaneIs i f t vMin j (if intLt f.ty.toNat a b then a else b)) ∧
    (f.ty.toNat = 4 → LaneIs i f t vShr j (a / 2 ^ f.count)) ∧
    (f.ty.toNat = 3 → f.count < 32 →
      LaneIs i f t vShr j (a / 2 ^ f.count + if 2 ^ 31 ≤ a then 2 ^ 32 - 2 ^ (32 - f.count) else 0)) ∧
    (f.ty.toNat = 0 → LaneIs i f t vAbs j (a % 2 ^ 31) ∧ LaneIs i f t vNeg j (a ^^^ 2 ^ 31))

/-- The result of an operation on 32-bit lanes or on both 16-bit halves of a lane, by TYPE (R130). -/
def byHalves (ty : Nat) (fn : List Nat → Nat) (l : List Nat) : Nat :=
  if halfType ty then fn (l.map (· % 2 ^ 16)) % 2 ^ 16 + fn (l.map (· / 2 ^ 16)) % 2 ^ 16 * 2 ^ 16 else fn l % 2 ^ 32

/-- Floating-point instructions element by element: each element of an active lane, in the format of TYPE and with the attribute of
RND (R84, R130, R137), is the operation of that format. -/
def FloatLanes : Prop :=
  ∀ (i : VIn) (f : VFields) (t : Tile) (j : Nat), j < 64 → f.ty.toNat ≤ 2 →
    let F := typeFmt f.ty.toNat
    let r := upperRnd (i.rnd f)
    let l := [laneOf (t.vreg f.va.toNat) j, laneOf (t.vreg f.vb.toNat) j, laneOf (t.vreg f.vc.toNat) j]
    LaneIs i f t vAdd j (byHalves f.ty.toNat (fun l => (F.add r (arg l 0) (arg l 1)).1) l) ∧
    LaneIs i f t vSub j (byHalves f.ty.toNat (fun l => (F.sub r (arg l 0) (arg l 1)).1) l) ∧
    LaneIs i f t vMul j (byHalves f.ty.toNat (fun l => (F.mul r (arg l 0) (arg l 1)).1) l) ∧
    LaneIs i f t vFma j (byHalves f.ty.toNat
      (fun l => (F.fma r (F.decode (arg l 0)) (F.decode (arg l 1)) (F.decode (arg l 2))).1) l) ∧
    LaneIs i f t vMax j (byHalves f.ty.toNat (fun l => (F.maxMin true (arg l 0) (arg l 1)).1) l) ∧
    LaneIs i f t vMin j (byHalves f.ty.toNat (fun l => (F.maxMin false (arg l 0) (arg l 1)).1) l) ∧
    (f.ty.toNat = 0 → i.strict = true →
      LaneIs i f t vDiv j (byHalves 0 (fun l => (F.div false r (arg l 0) (arg l 1)).1) l) ∧
      LaneIs i f t vSqrt j (byHalves 0 (fun l => (F.sqrt false r (arg l 0)).1) l))

/-- Lane movement and compares (Table 5-3, R139): where each lane of the destination comes from; a compare's bit of an active lane is
the predicate of that lane, and the other bits stay or are cleared. -/
def LaneMovementAndCompares : Prop :=
  ∀ (i : VIn) (f : VFields) (t : Tile) (j : Nat), j < 64 →
    let a := fun n => laneOf (t.vreg f.va.toNat) n
    let b := fun n => laneOf (t.vreg f.vb.toNat) n
    LaneIs i f t vPerm j (a (b j % 64)) ∧ LaneIs i f t vRot j (a ((j + f.count) % 64)) ∧
    LaneIs i f t vBfly j (a (j ^^^ f.count)) ∧ LaneIs i f t vBcast j (a f.count) ∧
    LaneIs i f t vSplat j (t.sreg f.va.toNat % 2 ^ 32) ∧ LaneIs i f t vIota j ((t.sreg f.va.toNat + j) % 2 ^ 32) ∧
    LaneIs i f t vZip j (if j % 2 = 0 then a (32 * f.half + j / 2) else b (32 * f.half + j / 2)) ∧
    LaneIs i f t vUnzip j (if j < 32 then a (2 * j + f.half) else b (2 * (j - 32) + f.half)) ∧
    laneOf ((vSel i f t).tile.vreg f.vd.toNat) j = (if bit (f.active t) j then a j else b j) ∧
    (∀ p, 3 ≤ f.ty.toNat → 1 ≤ f.vd.toNat → f.vd.toNat ≤ 7 →
      bit ((vCompare p i f t).tile.mreg f.vd.toNat) j =
        if bit (f.active t) j then intCmp p f.ty.toNat (a j) (b j) else (f.mz == 0 && bit (t.mreg f.vd.toNat) j)) ∧
    (1 ≤ f.vd.toNat → f.vd.toNat ≤ 7 →
      bit ((vMand i f t).tile.mreg f.vd.toNat) j =
        (if bit (f.active t) j then bit (t.mreg f.va.toNat) j && bit (t.mreg f.vb.toNat) j
         else (f.mz == 0 && bit (t.mreg f.vd.toNat) j)) ∧
      bit ((vMor i f t).tile.mreg f.vd.toNat) j =
        (if bit (f.active t) j then bit (t.mreg f.va.toNat) j || bit (t.mreg f.vb.toNat) j
         else (f.mz == 0 && bit (t.mreg f.vd.toNat) j)) ∧
      bit ((vMnot i f t).tile.mreg f.vd.toNat) j =
        (if bit (f.active t) j then !bit (t.mreg f.va.toNat) j else (f.mz == 0 && bit (t.mreg f.vd.toNat) j)))

/-- Results lane by lane: integer and bitwise instructions, movement, compares (Table 5-3). -/
def Obligations.LaneResults : Prop := IntegerLanes ∧ LaneMovementAndCompares

/-- Reductions with no active element (R143): RSUM leaves 0, RPROD 1, RMAX −∞ and RMIN +∞ in lane 0 and +0 in every other lane; with
ACC, lanes 0 and 1 stay; VEC_EMPTY is raised. -/
def EmptyReductions : Prop :=
  ∀ (i : VIn) (f : VFields) (t : Tile), f.active t = 0 →
    let d := f.vd.toNat
    (f.acc = false →
      (vRsum i f t).tile.vreg d = 0 ∧ (vRprod i f t).tile.vreg d = 0x3F800000 ∧ (vRmax i f t).tile.vreg d = 0xFF800000 ∧
      (vRmin i f t).tile.vreg d = 0x7F800000 ∧ (vRargmax i f t).tile.vreg d = 0xFF800000 + 0xFFFFFF * 2 ^ 32 ∧
      (vRargmin i f t).tile.vreg d = 0x7F800000 + 0xFFFFFF * 2 ^ 32) ∧
    (f.acc = true → ∀ b ∈ [vRsum, vRprod, vRmax, vRmin, vRargmax, vRargmin],
      (b i f t).tile.vreg d = t.vreg d % 2 ^ 64) ∧
    (∀ b ∈ [vRsum, vRprod, vRmax, vRmin, vRargmax, vRargmin], (b i f t).empty = true)

/-- Results of floating-point instructions lane by lane, and of reductions over no lane (Table 5-3, R142, R143). -/
def Obligations.FloatResults : Prop := FloatLanes ∧ EmptyReductions

/-- Program control (R151): LOOP counts its register down and goes to its own word plus X while the count is not 0, else to the next
word. -/
def LoopBranches : Prop :=
  ∀ (s : State) (tile : Fin 544) (f : VFields),
    let t := (s.chip.settle tile f).tile tile
    let target := (t.pc : Int) + signed 26 f.x.toNat
    let n := (t.sreg f.vd.toNat + (2 ^ 64 - 1)) % 2 ^ 64
    (s.chip.tile tile).running = true → t.fetchOk = true → (VRule.mk tyNone false 0x3FFFFFF).ok f = true →
    VRegs.toScalar.ok f = true → t.targetOk target = true →
    Completes (.loop tile f) s fun c =>
      c.tile tile = { t.setSreg f.vd.toNat n with pc := if n = 0 then t.pc + 1 else target.toNat } ∧
      (∀ p, p ≠ tile.val → c.tile p = s.chip.tile p)

/-- Queues and the ends of work (R156, R159): WAITQ takes the slot of a ready queue and otherwise holds issue, which goes on when the
queue becomes ready; RELEASE returns the oldest held slot; MXWAIT holds issue while a matrix result is in flight; HALT
completes queued accesses and matrix results and halts the tile. -/
def QueueInstructions : Prop :=
  ∀ (s : State) (tile : Fin 544) (f : VFields),
    let t := s.chip.tile tile
    (∀ q, t.running = true → t.fetchOk = true → (VRule.mk tyNone false 0xFF).ok f = true → t.queue? f.queue = some q →
      (q.waitReady = true → Completes (.waitq tile f) s fun c =>
        c.tile tile = { t.setQueue q.takeWait with pc := t.pc + 1 }) ∧
      (q.waitReady = false → Completes (.waitq tile f) s fun c =>
        c.tile tile = { t.account s.chip.time.mono with status := .waitingQueue (BitVec.ofNat 8 f.queue) } ∧
        (∀ p, p ≠ tile.val → c.tile p = s.chip.tile p)) ∧
      Completes (.release tile f) s (fun c => c.tile tile = { t.setQueue q.release with pc := t.pc + 1 })) ∧
    (∀ n q, t.status = .waitingQueue n → t.queue? n.toNat = some q → q.waitReady = true →
      Completes (.waitqReady tile) s fun c =>
        (c.tile tile).status = .running ∧ (c.tile tile).pc = t.pc + 1 ∧ (c.tile tile).queues = (t.setQueue q.takeWait).queues) ∧
    (t.running = true → t.fetchOk = true → (VRule.mk tyNone false 0).ok f = true →
      (t.matrix = [] → Completes (.mxwait tile f) s fun c => c.tile tile = { t with pc := t.pc + 1 }) ∧
      (t.matrix ≠ [] → Completes (.mxwait tile f) s fun c =>
        c.tile tile = { t.account s.chip.time.mono with status := .waitingMatrix, pc := t.pc + 1 }) ∧
      Completes (.halt tile f) s (fun c =>
        (c.tile tile).status = .halted ∧ (c.tile tile).pc = t.pc + 1 ∧ (c.tile tile).memQueue = [] ∧
        (c.tile tile).matrix = []))

/-- LOOP and the instructions of the queues (Tables 5-3 and 5-4). -/
def Obligations.LoopsAndQueues : Prop := LoopBranches ∧ QueueInstructions

/-- The vector memory instructions enter the memory queue in order (R135, R150): an access that is aligned and within the tile's
memory waits behind the earlier ones; one that is not stops the tile with VEC_ADDR and moves nothing. -/
def Obligations.VectorMemoryInstructions : Prop :=
  ∀ (s : State) (tile : Fin 544) (f : VFields),
    let t := s.chip.tile tile
    let a := f.address t
    t.running = true → t.memQueue = [] → t.fetchOk = true → (VRule.mk tyNone false 0x3FFFF00).ok f = true →
    (accessOk a 32 256 = true →
      Completes (.ld tile f) s (fun c => c.tile tile = { t with
        memQueue := [.load f.vd.toNat false a (BitVec.ofNat 64 (f.active t)) (f.mz == 1)], pc := t.pc + 1 }) ∧
      Completes (.st tile f) s (fun c => c.tile tile = { t with
        memQueue := [.store (leBytes 256 (t.vreg f.vd.toNat)) (BitVec.ofNat 64 (f.active t)) a], pc := t.pc + 1 })) ∧
    (accessOk a 512 512 = true → f.vd.toNat ≠ 31 →
      Completes (.ldp tile f) s (fun c => c.tile tile = { t with
        memQueue := [.load f.vd.toNat true a (BitVec.ofNat 64 (f.active t)) (f.mz == 1)], pc := t.pc + 1 }) ∧
      Completes (.stp tile f) s (fun c => c.tile tile = { t with
        memQueue := [.store (leBytes 256 (t.vreg f.vd.toNat) ++ leBytes 256 (t.vreg (f.vd.toNat + 1)))
          (BitVec.ofNat 64 (f.active t)) a], pc := t.pc + 1 })) ∧
    (accessOk a 32 8 = true → f.vd.toNat ≤ 15 →
      (1 ≤ f.vd.toNat → Completes (.lds tile f) s fun c => c.tile tile = { t with
        memQueue := [.loadScalar f.vd.toNat a], pc := t.pc + 1 }) ∧
      Completes (.sts tile f) s (fun c => c.tile tile = { t with
        memQueue := [.storeScalar (BitVec.ofNat 64 (t.sreg f.vd.toNat)) a], pc := t.pc + 1 })) ∧
    (∀ h, t.region = some h → h < 256 → accessOk a 32 256 = false →
      Completes (.st tile f) s fun c =>
        c.tile tile = { t with status := .faulted } ∧ bit (c.reg (Obj.regionSticky h)) bitVecAddr = true)

/-- The access at the front of the memory queue (R106, R132, R135): with its data delivered and no result of a matrix command in the
way it takes place and leaves the queue. A store changes the bytes of its active lanes at its address and no other byte; a
scalar store the 8 bytes at its address; a load the lanes of its register from memory, and no byte. -/
def Obligations.MemoryQueueAccess : Prop :=
  ∀ (s : State) (tile : Fin 544) (o : MemOp) (rest : List MemOp),
    let t := s.chip.tile tile
    t.memQueue = o :: rest → t.matrix = [] →
    Completes (.memQueueAccess tile ⟨0, false⟩) s (fun c =>
      c.tile tile = o.apply { t with memQueue := rest } ∧ (∀ p, p ≠ tile.val → c.tile p = s.chip.tile p) ∧
      c = { s.chip with array := { s.chip.array with tiles := c.array.tiles } } ∧
      (∀ data lanes addr, o = .store data lanes addr → data.length % 4 = 0 → ∀ x,
        Memory.read (c.tile tile).mem x =
          if addr ≤ x ∧ x < addr + data.length ∧ bit lanes.toNat ((x - addr) / 4 % 64) then data.getD (x - addr) 0
          else Memory.read t.mem x) ∧
      (∀ data addr, o = .storeScalar data addr → ∀ x,
        Memory.read (c.tile tile).mem x =
          if addr ≤ x ∧ x < addr + 8 then (leBytes 8 data.toNat).getD (x - addr) 0 else Memory.read t.mem x) ∧
      (∀ vd pair addr m z, o = .load vd pair addr m z → (c.tile tile).mem = t.mem) ∧
      (∀ sd addr, o = .loadScalar sd addr → (c.tile tile).mem = t.mem ∧
        (1 ≤ sd → (c.tile tile).sreg sd = leNat (Memory.readBytes t.mem addr 8))))

/-- Tables (R148, R149): TLOAD keeps the pair at its address where the pair passes R148; TFN and TDER evaluate the pair whose TABLE_ID
they name and fault on any other. -/
def Obligations.TableInstructions : Prop :=
  ∀ (s : State) (tile : Fin 544) (f : VFields),
    let t := s.chip.tile tile
    t.running = true → t.memQueue = [] → t.matrix = [] → t.fetchOk = true →
    ((VRule.mk tyNone false 0x3FFFF00).ok f = true → accessOk (f.address t) 512 tablePairBytes = true →
      tableOk (Memory.readBytes t.mem (f.address t) tablePairBytes) = true →
      Completes (.tload tile f) s fun c =>
        c.tile tile = { t with table := some (Memory.readBytes t.mem (f.address t) tablePairBytes), pc := t.pc + 1 }) ∧
    (∀ tab, (VRule.mk tyF false 0xFFFF).ok f = true → t.table = some tab →
      (f.tid = tableWord tab 44 % 2 ^ 16 →
        Completes (.tfn tile f) s (fun c => c.tile tile = { (vTfn (s.chip.vIn tile) f t).tile with pc := t.pc + 1 }) ∧
        Completes (.tder tile f) s (fun c => c.tile tile = { (vTder (s.chip.vIn tile) f t).tile with pc := t.pc + 1 })) ∧
      (f.tid ≠ tableWord tab 44 % 2 ^ 16 →
        Completes (.tfn tile f) s fun c => c.tile tile = { t with status := .faulted }))

/-! ### Matrix unit and router (Tiles and the Matrix Unit, Castings) -/

/-- Matrix commands (R104, R109, R110, R126): a valid command issues, its block is computed from the operands as they stand and the
next command is two words on; an invalid one reads and writes nothing and stops its tile; the oldest D in flight is written
to its place in tile memory and leaves, and a tile held at MXWAIT goes on once none is left. -/
def MatrixCommands : Prop :=
  ∀ (s : State) (tile : Fin 544),
    let t := s.chip.tile tile
    (∀ word : BitVec 128,
      let m := MxCmd.ofWord word.toNat
      t.running = true → t.memQueue = [] → t.matrix = [] → t.fetchMxOk = true →
      m.valid (s.chip.vIn tile).arith t.descs.length = true →
      Completes (.mma tile word ⟨0, false⟩) s fun c =>
        c.tile tile = { t with pc := t.pc + 2, matrix := [MatrixJob.of t m (mxCompute (s.chip.vIn tile) t m)] } ∧
        (∀ p, p ≠ tile.val → c.tile p = s.chip.tile p) ∧
        c = { s.chip with array := { s.chip.array with tiles := c.array.tiles } }) ∧
    (∀ (word : BitVec 128) (e : EccRead) (h : Nat),
      t.running = true → t.region = some h → h < 256 →
      (t.fetchMxOk && (MxCmd.ofWord word.toNat).valid (s.chip.vIn tile).arith t.descs.length) = false →
      Completes (.mma tile word e) s fun c =>
        c.tile tile = { t with status := .faulted } ∧ bit (c.reg (Obj.regionSticky h)) bitMxCmdInvalid = true ∧
        c.reg Obj.mxCmdInvalidCount = (s.chip.reg Obj.mxCmdInvalidCount + 1) % 2 ^ 32 ∧ c.reg (Obj.regionState h) = 4 ∧
        (∀ p, p ≠ tile.val → c.tile p = s.chip.tile p)) ∧
    (∀ (j : MatrixJob) (rest : List MatrixJob), t.matrix = j :: rest →
      Completes (.mmaDWritten tile) s fun c =>
        (c.tile tile).mem = Memory.writeBytes t.mem j.addrD j.image ∧ (c.tile tile).matrix = rest ∧
        (c.tile tile).vregs = t.vregs ∧ (c.tile tile).sregs = t.sregs ∧ (c.tile tile).queues = t.queues ∧
        (c.tile tile).status = (if t.status = .waitingMatrix ∧ rest = [] then .running else t.status) ∧
        c.reg Obj.mxFlushCount = (s.chip.reg Obj.mxFlushCount + j.flushed) % 2 ^ 64 ∧
        (∀ p, p ≠ tile.val → c.tile p = s.chip.tile p))

/-- The patrol scrub of a line (R106, R107, R177): clean, it changes nothing; a corrected error is counted and leaves the tile as it
is; an uncorrectable one stops the tile, and it is marked failed and entered in the retirement record. -/
def TilePatrolScrub : Prop :=
  ∀ (s : State) (tile : Fin 544) (line : Fin 1024),
    Completes (.tilePatrolScrub tile line ⟨0, false⟩) s (fun c => c = s.chip) ∧
    (∀ n, n ≠ 0 → Completes (.tilePatrolScrub tile line ⟨n, false⟩) s fun c =>
      c.reg Obj.tileMemCorrected = (s.chip.reg Obj.tileMemCorrected + n) % 2 ^ 64 ∧
      (∀ h, (s.chip.tile tile).region = some h → bit (c.reg (Obj.regionSticky h)) bitTileMemCorr = true) ∧
      ((s.chip.tile tile).region = none → bit (c.reg (Obj.stickyFamily 2)) 5 = true) ∧
      c = { s.chip with regs := c.regs, sil := c.sil, flt := c.flt, dap := c.dap, out := c.out }) ∧
    (∀ n, s.chip.array.useOf tile ≠ .failed →
      Completes (.tilePatrolScrub tile line ⟨n, true⟩) s fun c =>
        c.tile tile = { s.chip.tile tile with status := .faulted } ∧ c.array.useOf tile = .failed ∧
        tile.val ∈ c.emmc.tilesRetired ∧
        c.reg Obj.tileMemUncorrectable = (s.chip.reg Obj.tileMemUncorrectable + 1) % 2 ^ 32 ∧
        (∀ p, p ≠ tile.val → c.tile p = s.chip.tile p ∧ c.array.useOf p = s.chip.array.useOf p))

/-- The router (R105, R156, R157): a flit lands in a released slot of a receive area and changes no other byte than its own; one that
names no such slot stops the tile; the oldest message handed over is delivered whole into the next free slot of the other
tile, or waits where none is free; to a DMA channel it leaves the mesh. -/
def RouterCommands : Prop :=
  ∀ (s : State) (tile : Fin 544),
    let t := s.chip.tile tile
    (∀ (addr : Nat) (data : Bytes) (q : TileQueue) (i : Nat) (held : List Nat),
      t.flitTarget addr (data.take 64).length = some (q, i, held) →
      Completes (.routerFlitReceive tile addr data) s fun c =>
        (c.tile tile).mem = Memory.writeBytes t.mem addr (data.take 64) ∧
        (c.tile tile).queues = (t.setQueue (q.takeFlit i ((addr - (q.base + i * q.slotBytes)) / 64) held)).queues ∧
        (∀ p, p ≠ tile.val → c.tile p = s.chip.tile p) ∧
        c = { s.chip with array := { s.chip.array with tiles := c.array.tiles } }) ∧
    (∀ (addr : Nat) (data : Bytes) (h : Nat), t.flitTarget addr (data.take 64).length = none → t.region = some h → h < 256 →
      Completes (.routerFlitReceive tile addr data) s fun c =>
        c.tile tile = { t with status := .faulted } ∧ bit (c.reg (Obj.regionSticky h)) bitTileWriteRefused = true ∧
        (∀ p, p ≠ tile.val → c.tile p = s.chip.tile p)) ∧
    (∀ (queue : Byte) (q : TileQueue) (h : Nat) (k : Casting) (r : Route),
      t.queue? queue.toNat = some q → t.region = some h → q.inbound = false → q.slot q.nextMove = .full →
      s.chip.array.casting (h / 64) = some k → k.routes.find? (fun x => x.route == q.route) = some r →
      let data := t.slotData q q.nextMove
      (r.kind = 0 →
        let d := s.chip.array.physical r.dst.toNat
        ∀ u, (s.chip.tile d).queue? r.dstQueue.toNat = some u → d ≠ tile.val →
          (u.slot u.nextMove = .free →
            Completes (.routerMessageSend tile queue) s fun c =>
              c.tile d = (s.chip.tile d).receive u data ∧ c.tile tile = t.setQueue q.sent ∧
              (∀ p, p ≠ tile.val → p ≠ d → c.tile p = s.chip.tile p) ∧ c.array.meshOut = s.chip.array.meshOut) ∧
          (u.slot u.nextMove ≠ .free → Completes (.routerMessageSend tile queue) s fun c => c = s.chip)) ∧
      (r.kind ≠ 0 →
        Completes (.routerMessageSend tile queue) s fun c =>
          c.array.meshOut = s.chip.array.meshOut ++ [(routeKey (h / 64) r.route.toNat, data)] ∧
          c.tile tile = t.setQueue q.sent ∧ (∀ p, p ≠ tile.val → c.tile p = s.chip.tile p)))

/-- Matrix commands (Table 4-3) and the router (R104 to R106). -/
def Obligations.MatrixAndRouter : Prop := MatrixCommands ∧ RouterCommands

/-! ### Castings (Castings) -/

/-- Control of regions and castings (R173): a stop takes effect at the end of the step in progress, at once without one; a run sets a
stopped region running and takes back a stop that has not taken effect; a region stopped by tile fault is not run, and the
write refused; the other regions stay as they were. -/
def RegionAndCastingControl : Prop :=
  ∀ (s : State) (rq : Fin 17),
    let asked := fun (st : Nat) => if st = 2 then (if s.chip.step.inStep then 3 else 1) else st
    (∀ h : Fin 256, s.chip.permits rq (Obj.regionControl h) [1] = true →
      Completes (.regionStop rq h) s fun c =>
        c.reg (Obj.regionState h) = asked (s.chip.regionState h) ∧ c.reg (Obj.regionControl h) = 1 ∧
        (∀ g : Fin 256, g ≠ h → c.reg (Obj.regionState g) = s.chip.regionState g) ∧ c.array.tiles = s.chip.array.tiles) ∧
    (∀ h : Fin 256, s.chip.permits rq (Obj.regionControl h) [2] = true →
      (s.chip.regionState h = 1 ∨ s.chip.regionState h = 2 ∨ s.chip.regionState h = 3 →
        Completes (.regionRun rq h) s fun c =>
          c.reg (Obj.regionState h) = 2 ∧ c.reg (Obj.regionControl h) = 2 ∧
          (∀ g : Fin 256, g ≠ h → c.reg (Obj.regionState g) = s.chip.regionState g) ∧
          c.array.tiles = s.chip.array.tiles) ∧
      (s.chip.regionState h = 4 → Completes (.regionRun rq h) s fun c => s.chip.OnlyLogged c)) ∧
    (∀ (slot : Fin 4) (k : Casting), s.chip.array.casting slot = some k → (∀ r ∈ k.regions, r.region < 64) →
      (s.chip.permits rq (Obj.castingControl slot) [1] = true →
        Completes (.castingStop rq slot) s fun c =>
          (∀ r ∈ k.regions, c.reg (Obj.regionState (regionIndex slot r.region)) =
            asked (s.chip.regionState (regionIndex slot r.region))) ∧ c.array.tiles = s.chip.array.tiles) ∧
      (s.chip.permits rq (Obj.castingControl slot) [2] = true →
        (∀ r ∈ k.regions, 1 ≤ s.chip.regionState (regionIndex slot r.region) ∧
          s.chip.regionState (regionIndex slot r.region) ≤ 3) →
        Completes (.castingRun rq slot) s fun c =>
          (∀ r ∈ k.regions, c.reg (Obj.regionState (regionIndex slot r.region)) = 2) ∧
          c.array.tiles = s.chip.array.tiles))

/-- Loads, unloads and re-casts (R168, R174 to R176): the loader takes the staged image at the write, and as its turn ends the casting
stands in its slot where no check of Table 6-9 fails and nothing of it does otherwise, with the reason reported; an unload
of a casting at rest takes it out and leaves every other casting and its tiles; a re-cast replaces its region alone. -/
def CastingLoads : Prop :=
  ∀ (s : State) (rq : Fin 17),
    (∀ slot : Byte, s.chip.permits rq Obj.castingLoad [slot] = true → s.chip.array.loader = [] →
      Completes (.castingLoad rq slot) s fun c =>
        c.array = { s.chip.array with loader := [.load slot.toNat (s.chip.blob Obj.castingStage) (s.chip.origin rq)] } ∧
        c = { s.chip.answered rq Obj.castingLoad with array := c.array }) ∧
    (∀ (slot : Fin 4) (b : Bytes) (o : Origin), s.chip.array.loader = [.load slot b o] →
      Completes (.castingLoadComplete []) s fun c =>
        match s.chip.checkLoad slot b with
        | .inl (code, off) =>
          c.reg Obj.castLastReason = code ∧ c.reg Obj.castLastOffset = off ∧ bit (c.reg (Obj.stickyFamily 2)) 1 = true ∧
          c.array = { s.chip.array with loader := [] }
        | .inr _ =>
          c.reg Obj.castLastReason = 0 ∧ c.array.casting slot = some (castingOfImage b) ∧
          c.reg (Obj.castingId slot) = (castingOfImage b).id.toNat ∧ c.array.loader = [] ∧
          (∀ n, n ≠ slot.val → c.array.casting n = s.chip.array.casting n) ∧
          c.board = s.chip.board ∧ c.emmc = s.chip.emmc ∧ c.cipher = s.chip.cipher) ∧
    (∀ slot : Byte, s.chip.permits rq Obj.castingUnload [slot] = true → s.chip.mayUnload slot.toNat = true →
      s.chip.array.loader = [] →
      Completes (.castingUnload rq slot) s fun c =>
        c.array.casting slot.toNat = none ∧ c.reg (Obj.castingId slot.toNat) = Obj.dflt (Obj.castingId slot.toNat) ∧
        (∀ n, n ≠ slot.toNat → c.array.casting n = s.chip.array.casting n) ∧
        (∀ p, (s.chip.tile p).region.map (· / 64) ≠ some slot.toNat → c.tile p = s.chip.tile p) ∧ c.emmc = s.chip.emmc) ∧
    (∀ (h : Fin 256) (image : Bytes), s.chip.permits rq (Obj.regionImage h) image = true → s.chip.array.loader = [] →
      Completes (.regionRecast rq h image) s fun c =>
        c.array = { s.chip.array with loader := [.recast h image (s.chip.origin rq)] } ∧
        c = { s.chip.answered rq (Obj.regionImage h) with array := c.array }) ∧
    (∀ (h : Fin 256) (b : Bytes) (o : Origin) (k : Casting) (r : Region), s.chip.array.loader = [.recast h b o] →
      s.chip.array.casting (h / 64) = some k → s.chip.loadedRegion h = some r → s.chip.regionState h ≠ 2 →
      s.chip.regionState h ≠ 3 →
      Completes (.recastComplete []) s fun c =>
        match s.chip.checkRecast h k r b with
        | .inl (code, off) =>
          c.reg Obj.castLastReason = code ∧ c.reg Obj.castLastOffset = off ∧ bit (c.reg (Obj.stickyFamily 2)) 1 = true ∧
          c.array = { s.chip.array with loader := [] }
        | .inr (_, m) =>
          c.reg Obj.castLastReason = 0 ∧ c.array.casting (h / 64) = some m ∧ c.blob (Obj.regionImage h) = b ∧
          c.reg (Obj.recastCount h) = (s.chip.reg (Obj.recastCount h) + 1) % 2 ^ 32 ∧ c.reg (Obj.regionState h) = 1 ∧
          c.array.loader = [] ∧ c.emmc = s.chip.emmc)

/-- Castings: control of regions, loads, unloads and re-casts (R168, R173 to R176). -/
def Obligations.CastingCommands : Prop := RegionAndCastingControl ∧ CastingLoads

/-- A failed tile's replacement (R178 to R180): the logical tile is bound to the best spare, with TILE_REMAP; with no spare, NO_SPARE is
set and nothing is rebound; a clear of the retirement record waits for the next start. -/
def TileReplacement : Prop :=
  ∀ s : State,
    (∀ (l slot : Nat) (k : Casting) (r : Region), s.chip.array.loader = [.remap l] →
      (s.chip.array.castings.findSome? fun e => (e.2.regions.find? fun x => x.tiles.contains l).map fun x => (e.1, e.2, x)) =
        some (slot, k, r) → slot < 4 → r.region < 64 →
      s.chip.array.useOf (s.chip.array.physical l) = .failed →
      (∀ p, s.chip.array.bestSpare k.routes l = some p →
        Completes .remap s fun c =>
          c.array.physical l = p ∧ c.array.useOf p = .bound ∧ (∀ m, m ≠ l → c.array.physical m = s.chip.array.physical m) ∧
          bit (c.reg (Obj.stickyFamily 2)) 2 = true ∧ c.emmc = s.chip.emmc) ∧
      (s.chip.array.bestSpare k.routes l = none →
        Completes .remap s fun c =>
          c.array = { s.chip.array with loader := [] } ∧ bit (c.reg (Obj.stickyFamily 2)) 4 = true)) ∧
    (∀ (rq : Fin 17) (v : Byte), s.chip.permits rq Obj.tilesRetiredClear [v] = true →
      Completes (.tilesRetiredClear rq v) s fun c =>
        c = { s.chip.answered rq Obj.tilesRetiredClear with
          emmc := { s.chip.emmc with clearTiles := s.chip.emmc.clearTiles || v == 1 } })

/-- Tile memory errors found by the patrol (R107), and a failed tile's replacement (R177 to R180). -/
def Obligations.TileFailures : Prop := TilePatrolScrub ∧ TileReplacement

/-! ### The training step (The Training Step) -/

/-- The course of a step (R90, R159, R160, R209, R219, R220): it opens with the next number under its own key where R160 permits and
not otherwise; a slot opens or is withheld by pacing; an entry that every tile of its region has ended counts as ended; the
assay word, once final, is contributed, and a parked fetch still missing aborts the step. -/
def Obligations.StepCourse : Prop :=
  ∀ s : State,
    (s.chip.mayOpen = true →
      let n := (s.chip.reg Obj.stepNumber + 1) % 2 ^ 32
      let key := stepKey (s.chip.reg Obj.srRunSeed) s.chip.openingRound n
      Completes .stepOpen s fun c =>
        c.step.inStep = true ∧ c.reg Obj.stepNumber = n ∧ c.reg Obj.stepState = 1 ∧ c.step.round = s.chip.openingRound ∧
        c.step.key = BitVec.ofNat 64 key ∧ c.reg Obj.srStepKey = key ∧ c.step.word = 0 ∧ c.step.contributed = false ∧
        c.step.combined = none ∧ c.step.records = none ∧ c.board = s.chip.board ∧ c.mem = s.chip.mem ∧
        c.array.castings = s.chip.array.castings) ∧
    (s.chip.mayOpen = false → Completes .stepOpen s fun c => c = s.chip) ∧
    (s.chip.step.inStep = true → s.chip.step.abandoned = false → s.chip.step.committing = false →
      let l := s.chip.stepCastings.filter fun e => s.chip.slotMayOpen e.1 e.2
      l ≠ [] →
      Completes .slotOpen s fun c =>
        if 100 ≤ s.chip.gov.owed + s.chip.reg Obj.pacingDuty then
          c = { s.chip with gov := { s.chip.gov with owed := s.chip.gov.owed + s.chip.reg Obj.pacingDuty - 100 }
                            step := { s.chip.step with withheld := s.chip.step.withheld + 1 } }
        else
          c.gov = { s.chip.gov with owed := s.chip.gov.owed + s.chip.reg Obj.pacingDuty } ∧ c.step.withheld = 0 ∧
          c.step.opened = l.foldl (fun m e => Sparse.put 0 m e.1 (Sparse.get 0 m e.1 + 1)) s.chip.step.opened ∧
          c.regs = s.chip.regs ∧ c.mem = s.chip.mem ∧ c.array.castings = s.chip.array.castings) ∧
    (∀ (h : Fin 256) (e : SchedEntry) (r : Region), s.chip.entryOf h = some e → s.chip.array.regionOf h = some r →
      s.chip.step.inStep = true → s.chip.step.abandoned = false →
      (∀ l ∈ r.tiles, (s.chip.tile (s.chip.array.physical l)).entryOver = true) →
      Completes (.entryEnd h) s fun c =>
        Sparse.get 0 c.step.ended h = Sparse.get 0 s.chip.step.ended h + 1 ∧
        (∀ g, g ≠ h.val → Sparse.get 0 c.step.ended g = Sparse.get 0 s.chip.step.ended g) ∧
        c.array.castings = s.chip.array.castings ∧ c.board = s.chip.board) ∧
    (s.chip.step.inStep = true → s.chip.step.contributed = false → s.chip.slotsOver = true → s.chip.reduced = true →
      (s.chip.fetchMissing = none →
        Completes .assayWordFinal s fun c =>
          c.step.contributed = true ∧ c.reg Obj.stepState = 3 ∧ c.step.word = s.chip.step.word ∧ c.step.inStep = true ∧
          c.array = s.chip.array ∧ c.mem = s.chip.mem ∧ c.upd = s.chip.upd) ∧
      (∀ sh, s.chip.fetchMissing = some sh → s.chip.step.committing = false → s.chip.step.abandoned = false →
        Completes .assayWordFinal s fun c =>
          c.step.contributed = true ∧ c.step.abandoned = true ∧ bit c.step.word.toNat abDma = true ∧
          bit (c.reg (Obj.stickyFamily 4)) 1 = true ∧ c.array = s.chip.array ∧ c.mem = s.chip.mem))

/-- The decision of a step outside a replay (R221 to R227): a combined word of 0 commits the step, any other skips it, and a skipped
step leaves the committed step number and every shard as they were; the decision records of a committing step give the
global norm and enter the patina. -/
def StepDecision : Prop :=
  ∀ s : State, s.chip.step.inStep = true → s.chip.sil.replay.running = false →
    (∀ votes, s.chip.step.combined = none → s.chip.step.records = none →
      Completes (.combinedAssayReceived 0 votes) s fun c =>
        c.step.committing = true ∧ c.reg Obj.stepState = 4 ∧ c.step.inStep = true ∧ c.reg Obj.assayLast = 0 ∧
        c.reg Obj.assayLocalLast = s.chip.step.word.toNat ∧ c.step.commitMono = s.chip.time.mono ∧
        c.upd = s.chip.upd ∧ c.array = s.chip.array) ∧
    (∀ (word : BitVec 32) votes, s.chip.step.combined = none → s.chip.step.records = none → word ≠ 0 →
      s.chip.step.abandoned = true ∨ word.toNat &&& abortMask ≠ 0 →
      Completes (.combinedAssayReceived word votes) s fun c =>
        c.step.inStep = false ∧ c.reg Obj.assayLast = word.toNat ∧
        c.reg Obj.stepsSkipped = (s.chip.reg Obj.stepsSkipped + 1) % 2 ^ 64 ∧ bit (c.reg (Obj.stickyFamily 4)) 0 = true ∧
        c.reg Obj.stepCommitted = s.chip.reg Obj.stepCommitted ∧ c.upd.shards = s.chip.upd.shards) ∧
    (∀ records, s.chip.step.records = none → s.chip.step.abandoned = false →
      let m : Sparse DecisionRecord :=
        records.foldl (fun (m : Sparse DecisionRecord) (x : Nat × DecisionRecord) => Sparse.put DecisionRecord.zero m x.1 x.2) []
      (s.chip.step.combined = none →
        Completes (.decisionRecordsHeld records) s fun c =>
          c = { s.chip with step := { s.chip.step with records := some m, decideMono := s.chip.time.mono } }) ∧
      (s.chip.step.combined = some 0 →
        Completes (.decisionRecordsHeld records) s fun c =>
          c.reg Obj.globalNormLast = globalNorm m ∧ c.upd.g = BitVec.ofNat 32 (globalNorm m) ∧
          c.step.patina = (m :: s.chip.step.patina).take (s.chip.reg Obj.patinaWindow) ∧ c.step.latest = m ∧
          c.reg Obj.patinaCommitted = (s.chip.reg Obj.patinaCommitted + 1) % 2 ^ 32 ∧ c.array = s.chip.array ∧
          c.mem = s.chip.mem) ∧
      (∀ w, s.chip.step.combined = some w → w ≠ 0 →
        Completes (.decisionRecordsHeld records) s fun c =>
          c.step.inStep = false ∧ c.reg Obj.stepCommitted = s.chip.reg Obj.stepCommitted ∧
          c.upd.shards = s.chip.upd.shards))

/-- Control of stepping (R227, R233): a stop takes effect at once where no step is open and waits for the boundary otherwise; a run
clears a halt; the patina empties at the boundary, at once where no step is open. -/
def StepControl : Prop :=
  ∀ (s : State) (rq : Fin 17),
    (s.chip.permits rq Obj.stepControl [1] = true →
      Completes (.stepStop rq) s fun c =>
        c.step.on = false ∧ c.step.inStep = s.chip.step.inStep ∧ c.array = s.chip.array ∧ c.mem = s.chip.mem ∧
        (s.chip.step.inStep = true → c.step.stopOrigins = s.chip.step.stopOrigins ++ [s.chip.origin rq] ∧
          c.reg Obj.stepState = s.chip.reg Obj.stepState) ∧
        (s.chip.step.inStep = false → c.step.stopOrigins = [] ∧
          c.reg Obj.stepState = if s.chip.reg Obj.stepState ≤ 4 then 0 else s.chip.reg Obj.stepState)) ∧
    (s.chip.permits rq Obj.stepControl [2] = true → s.chip.reg Obj.ckptState = 0 →
      Completes (.stepRun rq) s fun c =>
        c.step.on = true ∧ c.step.inStep = s.chip.step.inStep ∧ c.array = s.chip.array ∧ c.mem = s.chip.mem ∧
        c.reg Obj.stepState =
          (if s.chip.reg Obj.stepState = 5 ∨ s.chip.reg Obj.stepState = 6 then 0 else s.chip.reg Obj.stepState) ∧
        c.reg Obj.skipsConsecutive = (if s.chip.reg Obj.stepState = 5 then 0 else s.chip.reg Obj.skipsConsecutive)) ∧
    (∀ v : Byte, s.chip.permits rq Obj.patinaEmpty [v] = true →
      Completes (.patinaEmpty rq v) s fun c =>
        c.array = s.chip.array ∧ c.mem = s.chip.mem ∧
        (v = 0 ∨ s.chip.step.inStep = true → c.step.patina = s.chip.step.patina ∧
          c.reg Obj.patinaCommitted = s.chip.reg Obj.patinaCommitted ∧
          (v ≠ 0 → c.step.emptyPatina = true)) ∧
        (v ≠ 0 → s.chip.step.inStep = false → c.step.patina = [] ∧ c.reg Obj.patinaCommitted = 0))

/-- The decision of a step and its control (Table 8-1, R220 to R227). -/
def Obligations.StepCommands : Prop := StepDecision ∧ StepControl

/-! ### Time (Time, Records and Replay) -/

/-- The time unit's inputs (R264 to R269): an edge is stamped with MONO and judged, and where its source is followed what is missing
to the whole second is slewed; an input without edges is no longer live; a holdover that expires is quality 1; the 10 MHz
input is as it is found. None of them touches MONO or the tiles. -/
def TimeSources : Prop :=
  ∀ s : State,
    (∀ i : PpsInput, s.chip.time.running = true →
      let off := toSecond s.chip.now
      Completes (.ppsEdge i) s (fun c =>
        c.time.pps i = (s.chip.time.pps i).edge s.chip.time.mono off ∧ c.time.mono = s.chip.time.mono ∧
        c.array = s.chip.array ∧ c.mem = s.chip.mem ∧
        (s.chip.time.set = true → c.reg Obj.timeSource = PpsInput.source i → -1000000 ≤ off → off ≤ 1000000 → c.time.slew = off)) ∧
      Completes (.ppsLossExpiry i) s (fun c =>
        c.time.pps i = { s.chip.time.pps i with run := 0, live := false } ∧ c.time.mono = s.chip.time.mono ∧
        c.now = s.chip.now ∧ c.array = s.chip.array ∧ c.mem = s.chip.mem)) ∧
    (∀ live, Completes (.tenMhzInChange live) s fun c => c = { s.chip with time := { s.chip.time with tenMhz := live } }) ∧
    (s.chip.time.holdover.isSome = true → s.chip.time.pick (s.chip.reg Obj.timeRefSelect) = 0 →
      Completes .holdoverExpiry s fun c =>
        c.time.holdoverExpired = true ∧ c.time.holdover = none ∧ c.now = s.chip.now ∧
        (s.chip.time.set = true → c.reg Obj.timeQuality = 1))

/-- PTP (R264, R270): at a port that is enabled and up, a better announce becomes the port's best, a Sync's stamp waits for its
Follow_Up, a master answers a delay request and sends what its intervals call for, a slave asks for its path delay, and a
port that hears no announce has no best master. At any other port nothing happens. -/
def PtpPorts : Prop :=
  ∀ (s : State) (p : Fin 9),
    let x := s.chip.time.ports.getD p PtpPort.reset
    (s.chip.ptpLive p = false →
      (∀ m, Completes (.ptpMessage p m) s fun c => c = s.chip) ∧ Completes (.ptpAnnounceTimeout p) s (fun c => c = s.chip) ∧
      (∀ w, Completes (.ptpTransmitTimer p w) s fun c => c = s.chip)) ∧
    (s.chip.ptpLive p = true → s.chip.time.ports.length = 9 →
      (∀ a : PtpAnnounce, (∀ b, x.best = some b → announceBetter a b = true) →
        Completes (.ptpMessage p (.announce a)) s fun c =>
          (c.time.ports.getD p PtpPort.reset).best = some a ∧ c.time.mono = s.chip.time.mono) ∧
      (∀ rx, Completes (.ptpMessage p (.sync rx)) s fun c =>
        c = { s.chip with time := { s.chip.time with ports := s.chip.time.ports.set p { x with syncRx := some rx } } }) ∧
      (∀ rx, x.state = .master → Completes (.ptpMessage p (.delayReq rx)) s fun c => c = s.chip.emit (.ptp p .delayResp rx)) ∧
      (∀ rx t1 t2 t3, x.lastSync = some (t2, t1) → x.reqTx = some t3 →
        Completes (.ptpMessage p (.delayResp rx)) s fun c =>
          (c.time.ports.getD p PtpPort.reset).pathDelay = ((t2 - t1) + (rx - t3)) / 2) ∧
      Completes (.ptpAnnounceTimeout p) s (fun c =>
        (c.time.ports.getD p PtpPort.reset).best = none ∧ (c.time.ports.getD p PtpPort.reset).state = .master) ∧
      (x.state = .master →
        Completes (.ptpTransmitTimer p .sync) s (fun c =>
          c = (s.chip.emit (.ptp p (.timed .sync) s.chip.now)).emit (.ptp p .followUp s.chip.now)) ∧
        Completes (.ptpTransmitTimer p .announce) s (fun c => c = s.chip.emit (.ptp p (.timed .announce) s.chip.now))) ∧
      (p = 0 → x.state = .slave →
        Completes (.ptpTransmitTimer p .delayReq) s fun c =>
          (c.time.ports.getD p PtpPort.reset).reqTx = some s.chip.now ∧
          c.out = Out.ptp p (.timed .delayReq) s.chip.now :: s.chip.out) ∧
      (p ≠ 0 →
        Completes (.ptpTransmitTimer p .pdelayReq) s fun c =>
          (c.time.ports.getD p PtpPort.reset).reqTx = some s.chip.now ∧
          c.out = Out.ptp p (.timed .pdelayReq) s.chip.now :: s.chip.out))

/-- Time sources (R264 to R269) and the PTP ports (R270). -/
def Obligations.TimeAndPtp : Prop := TimeSources ∧ PtpPorts

/-! ### Updates and checkpoints (The Update Engines) -/

/-- The update of a committed step and its tables (R240, R241, R242, R245, R249 to R254): it begins with the rate of the schedule and the
clip factor of the norm, a BEGIN in the journal of every engine; it is done when every shard is flipped, and the module then
stands at the step's version; a table or a schedule takes effect whole or not at all; a gather takes the version it names
with a hold, which is released or, after its wait, revoked; a parked write-back that fails halts stepping. -/
def Obligations.UpdateEngines : Prop :=
  ∀ s : State,
    (s.chip.step.inStep = true → s.chip.step.committing = true → s.chip.step.records.isSome = true →
      s.chip.upd.running = false → s.chip.sil.replay.running = false →
      let applied := s.chip.reg Obj.updatesApplied
      let lr := scheduledRate (s.chip.blob Obj.lrSchedule) applied
      let clip := clipFactor (s.chip.reg Obj.clipNorm) s.chip.upd.g.toNat
      Completes .updateBegin s fun c =>
        c.upd.running = true ∧ c.upd.lr = BitVec.ofNat 32 lr ∧ c.upd.clip = BitVec.ofNat 32 clip ∧
        c.upd.shards = s.chip.upd.shards ∧ c.upd.tensors = s.chip.upd.tensors ∧
        ∀ e, e < 24 → ∃ l, c.journal e = journalKept (s.chip.journal e) ++
          [journalRecord jBegin s.chip.step.round (s.chip.reg Obj.stepNumber) 0 s.chip.upd.g.toNat clip lr applied] ++ l) ∧
    (s.chip.step.inStep = true → s.chip.step.committing = true → s.chip.updateWhole = true →
      let n := s.chip.reg Obj.stepNumber
      let applied := ((journalOpen (s.chip.journal 0)).map fun j => j.applied).getD (s.chip.reg Obj.updatesApplied)
      Completes .updateDone s fun c =>
        c.reg Obj.stepCommitted = n ∧ c.reg Obj.shardVersionRound = s.chip.step.round ∧ c.reg Obj.shardVersionStep = n ∧
        c.reg Obj.updatesApplied = applied + 1 ∧ c.reg Obj.lrLast = s.chip.upd.lr.toNat ∧
        c.reg Obj.clipFactorLast = s.chip.upd.clip.toNat ∧ c.reg Obj.skipsConsecutive = 0 ∧ c.step.inStep = false ∧
        c.upd.running = false ∧
        ∀ e, e < 24 → c.journal e = s.chip.journal e ++ [journalRecord jDone s.chip.step.round n 0 0 0 0 0]) ∧
    (∀ (rq : Fin 17) (b : Bytes),
      (s.chip.permits rq Obj.updateTable b = true →
        Completes (.updateTableWrite rq b) s fun c =>
          match s.chip.badUpdTable b with
          | none => c.upd.castingId.toNat = u64At b 8 % 2 ^ 64 ∧ c.upd.tensors = (tblTensors b).map (fun x => x.2) ∧
              c.upd.shards = (tblShards b).map (fun x => x.2) ∧ c.reg Obj.updLastReason = 0 ∧ c.blob Obj.updateTable = b ∧
              c.mem = s.chip.mem
          | some (code, _) => c.upd = s.chip.upd ∧ c.reg Obj.updLastReason = code ∧
              bit (c.reg (Obj.stickyFamily 5)) 0 = true ∧ c.blobs = s.chip.blobs) ∧
      (s.chip.permits rq Obj.lrSchedule b = true →
        Completes (.lrScheduleWrite rq b) s fun c =>
          match scheduleBad b with
          | none => c.blob Obj.lrSchedule = b ∧ c.reg Obj.updLastReason = 0 ∧ c.upd = s.chip.upd
          | some _ => c.blobs = s.chip.blobs ∧ c.reg Obj.updLastReason = 6 ∧ c.upd = s.chip.upd)) ∧
    (∀ (peer : BitVec 16) (shard : BitVec 32) (v : Option Version) (hold : Bool),
      (s.chip.ownShard shard = none → Completes (.gatherRequest peer shard v hold) s fun c => c = s.chip) ∧
      (∀ sh t h c1, s.chip.ownShard shard = some sh → s.chip.upd.tensors[sh.tensor]? = some t →
        s.chip.shardHeader sh = (.inl h, c1) →
        (h.slotFor v = none →
          Completes (.gatherRequest peer shard v hold) s fun c =>
            Out.gatherServed peer shard (Ver.version noVersion) [] ∈ c.out ∧ bit (c.reg (Obj.stickyFamily 5)) 2 = true ∧
            c.reg Obj.versionGoneCount = (s.chip.reg Obj.versionGoneCount + 1) % 2 ^ 32 ∧ c.upd = s.chip.upd) ∧
        (∀ n b c2, h.slotFor v = some n → sh.isParked = false ∨ n = h.active →
          c1.readMem [] ((if sh.isParked then sh.stageAddr else sh.slotAddr n) + (t.gatherPart sh.rowCount).1)
            (t.gatherPart sh.rowCount).2 = (.inl b, c2) →
          Completes (.gatherRequest peer shard v hold) s fun c =>
            Out.gatherServed peer shard (Ver.version (h.version n)) b ∈ c.out ∧
            c.holdsOn shard.toNat n = s.chip.holdsOn shard.toNat n + (if hold then 1 else 0)))) ∧
    (∀ (shard : BitVec 32) (slot : Fin 2),
      (s.chip.holdsOn shard.toNat slot = 0 → Completes (.holdRelease shard slot) s fun c => c = s.chip) ∧
      (s.chip.holdsOn shard.toNat slot ≠ 0 → s.chip.upd.running = false →
        Completes (.holdRelease shard slot) s fun c =>
          c = s.chip.setHolds shard.toNat slot (s.chip.holdsOn shard.toNat slot - 1) ∧
          c.holdsOn shard.toNat slot = s.chip.holdsOn shard.toNat slot - 1)) ∧
    (∀ shard sh h c1, s.chip.ownShard shard = some sh → s.chip.upd.running = true → shard ∈ s.chip.upd.waiting →
      s.chip.shardHeader sh = (.inl h, c1) → sh.shardId = shard → s.chip.holdsOn shard.toNat h.target ≠ 0 →
      Completes (.holdWaitExpiry shard) s fun c =>
        c.holdsOn shard.toNat h.target = 0 ∧ bit (c.reg (Obj.stickyFamily 5)) 3 = true ∧
        c.reg Obj.holdsRevoked = (s.chip.reg Obj.holdsRevoked + 1) % 2 ^ 32) ∧
    (∀ shard sh, s.chip.ownShard shard = some sh → s.chip.upd.running = true → shard ∈ s.chip.upd.unwritten →
      shard ∉ s.chip.upd.stuck →
      Completes (.slowTierTimeout shard) s fun c =>
        c.upd = { s.chip.upd with parkedLost := true, stuck := s.chip.upd.stuck ++ [shard] } ∧ c.step.on = false ∧
        c.reg Obj.stepState = 6 ∧ bit (c.reg (Obj.stickyFamily 4)) 3 = true ∧ c.mem = s.chip.mem)

/-- Checkpoints (R257 to R259): a request stops stepping and waits for the boundary; the file is then presented under its key, and
without a key the request ends; the end of an export lets stepping go on where it ran; an import that passes every check
puts the module at the version of the file, and one that fails any leaves its state and says why. -/
def Obligations.Checkpoints : Prop :=
  ∀ (s : State) (rq : Fin 17),
    (s.chip.permits rq Obj.ckptRequest [1] = true → s.chip.reg Obj.ckptState = 0 →
      (s.chip.step.inStep = true →
        Completes (.ckptExportStart rq) s fun c =>
          c.reg Obj.ckptState = 1 ∧ c.upd = { s.chip.upd with exportOrigin := some (s.chip.origin rq) } ∧
          c.step = { s.chip.step with resume := s.chip.step.on, on := false } ∧ c.mem = s.chip.mem) ∧
      (s.chip.step.inStep = false → s.chip.ckptKey = none →
        Completes (.ckptExportStart rq) s fun c =>
          c.reg Obj.ckptState = 0 ∧ c.upd.exportOrigin = none ∧ c.step.on = s.chip.step.on ∧ c.mem = s.chip.mem) ∧
      (∀ k l d, s.chip.step.inStep = false → s.chip.ckptKey = some k →
        let asked := { s.chip.answered rq Obj.ckptRequest with
          upd := { s.chip.upd with exportOrigin := some (s.chip.origin rq) }
          step := { s.chip.step with resume := s.chip.step.on, on := false } }
        let c0 := (asked.setReg Obj.ckptState 1).setReg Obj.stepState
          (if s.chip.reg Obj.stepState ≤ 4 then 0 else s.chip.reg Obj.stepState)
        c0.ckptSections = (some l, d) →
        Completes (.ckptExportStart rq) s fun c =>
          c.reg Obj.ckptState = 2 ∧ c.blob Obj.ckptExport = d.ckptFile k l ∧
          c.reg Obj.ckptBytes = (d.ckptFile k l).length ∧ c.step.on = false ∧ c.upd.shards = s.chip.upd.shards)) ∧
    (s.chip.permits rq Obj.ckptRequest [2] = true →
      (s.chip.reg Obj.ckptState = 1 ∨ s.chip.reg Obj.ckptState = 2 →
        Completes (.ckptExportEnd rq) s fun c =>
          c.reg Obj.ckptState = 0 ∧ c.blob Obj.ckptExport = [] ∧
          c.upd = { s.chip.upd with exportOrigin := none, exportBytes := [] } ∧
          c.step = { s.chip.step with on := s.chip.step.on || s.chip.step.resume, resume := false } ∧ c.mem = s.chip.mem) ∧
      (s.chip.reg Obj.ckptState = 0 →
        Completes (.ckptExportEnd rq) s fun c => c.upd = s.chip.upd ∧ c.step = s.chip.step ∧ c.mem = s.chip.mem)) ∧
    (∀ file, s.chip.permits rq Obj.ckptImport file = true → s.chip.importStatus = stOk →
      Completes (.ckptImport rq file) s fun c =>
        match s.chip.openCkpt file with
        | .inr (code, _) =>
          c.reg Obj.updLastReason = code ∧ bit (c.reg (Obj.stickyFamily 5)) 0 = true ∧ c.upd = s.chip.upd ∧
          c.mem = s.chip.mem ∧ c.reg Obj.stepCommitted = s.chip.reg Obj.stepCommitted
        | .inl f =>
          c.reg Obj.updLastReason = 0 ∧ c.reg Obj.shardVersionRound = u32At f 0x18 ∧
          c.reg Obj.shardVersionStep = u32At f 0x1C ∧ c.reg Obj.stepCommitted = u32At f 0x1C ∧
          c.reg Obj.updatesApplied = u64At f 0x20 ∧ c.step.patina = [] ∧ c.upd.shards = s.chip.upd.shards)

/-! ### LPDDR6 (LPDDR6 Memory and Compression) -/

/-- The check code corrects every error of one symbol (R188 to R190): whichever of the 36 symbols is off, and by whatever value, its
place and the value are found. -/
def Obligations.SingleSymbolErrorsAreFound : Prop :=
  ∀ (p : Nat) (v : Byte), p < 36 → v ≠ 0 → checkBurst [(p, v)] = .single p v.toNat

/-- Memory commands (R190, R192, R201, R203 to R207, Table 7-6): a scrub of a clean burst changes nothing but the count of bytes; a
corrected one is written back and counted, an uncorrectable one is poisoned; a temperature readout shows in its objects and
a package above 105 °C issues no access until it is down to 100 °C; a retirement copies where R206 permits and withholds
its sub-channel when it is complete; a clear of the record waits for the next start. -/
def Obligations.MemoryCommands : Prop :=
  ∀ s : State,
    (∀ (burst : Nat) (e : Flips),
      let a := 32 * burst
      let g := a / groupWindow
      (a < memBytes → s.chip.groupServes g = true →
        (e = [] → (s.chip.burstTag a).poison = false →
          Completes (.memPatrolScrub burst e) s fun c => c = s.chip.countBursts g 1) ∧
        (∀ p v, checkBurst e = .single p v →
          Completes (.memPatrolScrub burst e) s fun c =>
            let d := applyErrors (s.chip.burstData a) (s.chip.burstTag a).byte e
            let r := applyErrors d.1 d.2 [(p, BitVec.ofNat 8 v)]
            c.mem.cells = (s.chip.putBurst a r.1 (BurstTag.ofByte r.2)).mem.cells ∧
            bit (c.reg (Obj.stickyFamily 3)) 0 = true ∧
            c.reg (Obj.subchCorrected (s.chip.subchannelAt a)) =
              (s.chip.reg (Obj.subchCorrected (s.chip.subchannelAt a)) + 1) % 2 ^ 64) ∧
        (checkBurst e = .uncorrectable →
          Completes (.memPatrolScrub burst e) s fun c =>
            (c.burstTag a).poison = true ∧ bit (c.reg (Obj.stickyFamily 3)) 1 = true ∧
            c.reg (Obj.subchUncorrectable (s.chip.subchannelAt a)) =
              (s.chip.reg (Obj.subchUncorrectable (s.chip.subchannelAt a)) + 1) % 2 ^ 32)) ∧
      (memBytes ≤ a ∨ s.chip.groupServes g = false → Completes (.memPatrolScrub burst e) s fun c => c = s.chip)) ∧
    (∀ (q : Fin 192) (t : F32),
      (s.chip.mem.up = false → Completes (.tempReadout q t) s fun c => c = s.chip) ∧
      (s.chip.mem.up = true →
        Completes (.tempReadout q t) s fun c =>
          c.reg (Obj.subchTemp q) = t.toNat ∧ c.reg (Obj.subchRefreshDiv q) = refreshDiv (tempRow t.toNat) ∧
          (f32Lt f32At105 t.toNat = true → q.val ∈ c.mem.hot) ∧
          (f32Lt f32At105 t.toNat = false → f32Lt f32At100 t.toNat = false → q.val ∉ c.mem.hot) ∧
          (∀ r, r ≠ q.val → (r ∈ c.mem.hot ↔ r ∈ s.chip.mem.hot)) ∧
          (tempRow t.toNat = 3 → tempRow (s.chip.reg (Obj.subchTemp q)) ≠ 3 → bit (c.reg (Obj.stickyFamily 3)) 6 = true) ∧
          (tempRow t.toNat = 4 → tempRow (s.chip.reg (Obj.subchTemp q)) ≠ 4 → bit (c.reg (Obj.stickyFamily 3)) 7 = true) ∧
          c.mem.cells = s.chip.mem.cells ∧ c.mem.tags = s.chip.mem.tags)) ∧
    (∀ (rq : Fin 17) (v : Byte), s.chip.permits rq Obj.memRetireRequest [v] = true → s.chip.mem.copying = none →
      s.chip.mem.candidates = [] →
      (s.chip.retireBlocked v.toNat = false →
        Completes (.memRetireRequest rq v) s fun c =>
          c.mem = { s.chip.mem with copying := some (v.toNat, some (s.chip.origin rq)) } ∧ c.reg Obj.memRetireState = 1 ∧
          c.reg (Obj.subchState v.toNat) = 1) ∧
      (s.chip.retireBlocked v.toNat = true →
        Completes (.memRetireRequest rq v) s fun c =>
          c.mem = s.chip.mem ∧ c.reg Obj.memRetireState = 2 ∧ bit (c.reg (Obj.stickyFamily 3)) 9 = true)) ∧
    (∀ q o, q < 192 → s.chip.mem.copying = some (q, o) → s.chip.mem.candidates = [] →
      Completes .retireCopyComplete s fun c =>
        c.mem = { s.chip.mem with copying := none } ∧ c.reg (Obj.groupRetired (q / 8)) = q % 8 ∧
        c.reg (Obj.subchState q) = 2 ∧ c.reg Obj.memRetireState = 0 ∧ bit (c.reg (Obj.stickyFamily 3)) 8 = true ∧
        c.emmc = { s.chip.emmc with memRetired := s.chip.emmc.memRetired ++ [q] }) ∧
    (∀ (rq : Fin 17) (v : Byte), s.chip.permits rq Obj.memRetiredClear [v] = true →
      Completes (.memRetiredClear rq v) s fun c =>
        c = { s.chip.answered rq Obj.memRetiredClear with emmc := { s.chip.emmc with clearMem := s.chip.emmc.clearMem || v == 1 } })

/-! ### Sillage and replay (The Sillage) -/

/-- Sillage (R274): while spilling is enabled and the eMMC can be written, the oldest record not yet copied joins the spill area, and
a failed write stops spilling with its bit. Replay (R284 to R287): a start that passes the checks of R285 opens stepping
from the step after the committed one with the records of REPLAY_SOURCE in order, one that fails them is refused with the
code; an abandonment waits for the step's boundary and is immediate where no step is open; a replay that outlasts its wait
ends with the step uncommitted. -/
def Obligations.SillageAndReplay : Prop :=
  ∀ s : State,
    (∀ r, s.chip.reg Obj.slSpillEnable ≠ 0 → s.chip.sil.spillStopped = false → s.chip.board.emmcOpen = true →
      s.chip.sil.ring[s.chip.sil.spilled]? = some r →
      Completes (.sillageSpill .ok) s (fun c =>
        c = { s.chip with sil := { s.chip.sil with spilled := s.chip.sil.spilled + 1 }
                          emmc := { s.chip.emmc with spill := spillPush s.chip.emmc.spill r } }) ∧
      Completes (.sillageSpill .failed) s fun c =>
        c.sil.spillStopped = true ∧ bit (c.reg (Obj.stickyFamily 6)) 3 = true ∧ c.emmc = s.chip.emmc ∧ c.mem = s.chip.mem) ∧
    (∀ o, s.chip.reg Obj.slSpillEnable = 0 ∨ s.chip.sil.spillStopped = true ∨ s.chip.board.emmcOpen = false ∨
        s.chip.sil.ring[s.chip.sil.spilled]? = none →
      Completes (.sillageSpill o) s fun c => c = s.chip) ∧
    (∀ rq : Fin 17, s.chip.permits rq Obj.replayControl [1] = true → s.chip.step.inStep = false →
      s.chip.sil.replay.running = false →
      let src := s.chip.blob Obj.replaySource
      Completes (.replayStart rq) s fun c =>
        if s.chip.replayReason = 0 then
          c.sil.replay = ⟨(splitRecords src.length src).getD [], 0, true, false, false, some (s.chip.origin rq), none⟩ ∧
          c.step = { s.chip.step with on := true } ∧ c.reg Obj.stepNumber = s.chip.reg Obj.stepCommitted ∧
          c.reg Obj.replayState = 1 ∧ c.reg Obj.replayLastReason = 0 ∧ c.reg Obj.replayFirstDiverged = 0 ∧
          c.mem = s.chip.mem ∧ c.upd = s.chip.upd
        else
          c.reg Obj.replayLastReason = s.chip.replayReason ∧ c.sil.replay = s.chip.sil.replay ∧ c.step = s.chip.step ∧
          c.reg Obj.stepNumber = s.chip.reg Obj.stepNumber ∧ c.mem = s.chip.mem ∧ c.upd = s.chip.upd) ∧
    (∀ rq : Fin 17, s.chip.permits rq Obj.replayControl [2] = true →
      (s.chip.sil.replay.running = false →
        Completes (.replayAbandon rq) s fun c => c.sil.replay = s.chip.sil.replay ∧ c.step = s.chip.step ∧ c.mem = s.chip.mem) ∧
      (s.chip.sil.replay.running = true → s.chip.step.inStep = true →
        Completes (.replayAbandon rq) s fun c =>
          c.sil.replay = { s.chip.sil.replay with abandon := some (s.chip.origin rq) } ∧ c.step = s.chip.step ∧
          c.mem = s.chip.mem) ∧
      (s.chip.sil.replay.running = true → s.chip.step.inStep = false →
        Completes (.replayAbandon rq) s fun c =>
          c.sil.replay.running = false ∧ c.step = { s.chip.step with on := false } ∧ c.reg Obj.replayState = 0 ∧
          c.mem = s.chip.mem)) ∧
    (s.chip.sil.replay.running = true → s.chip.step.inStep = true → s.chip.step.committing = false →
      s.chip.reg Obj.ckptState = 0 →
      Completes .replayWaitExpiry s fun c =>
        c.sil.replay.running = false ∧ c.step.inStep = false ∧ c.step.on = false ∧ c.reg Obj.replayState = 4 ∧
        bit (c.reg (Obj.stickyFamily 6)) 5 = true ∧ c.reg Obj.stepCommitted = s.chip.reg Obj.stepCommitted ∧
        c.upd.shards = s.chip.upd.shards) ∧
    (s.chip.sil.replay.running = false ∨ s.chip.step.inStep = false ∨ s.chip.step.committing = true →
      Completes .replayWaitExpiry s fun c => c = s.chip)

/-! ### Site mapping (Mapping Across Modules) -/

/-- The site map (R289, R291, R458): a map that passes the checks of Table 11-5 stands for its casting's slot and begins its agreement,
at once agreed where no other module shares a group; one that fails any leaves every map and says which. A peer's digest
that differs, or a version that cannot be brought together, splits; agreement of every peer ends it. -/
def SiteMapping : Prop :=
  ∀ (s : State),
    (∀ (rq : Fin 17) map, s.chip.permits rq Obj.siteMap map = true →
      Completes (.siteMapWrite rq map) s fun c =>
        match s.chip.badMap map with
        | some x =>
          c.reg Obj.mapLastReason = x.1 ∧ c.reg Obj.mapLastOffset = x.2 ∧ bit (c.reg (Obj.stickyFamily 7)) 0 = true ∧
          c.map = s.chip.map ∧ c.blob Obj.siteMap = s.chip.blob Obj.siteMap ∧ c.mem = s.chip.mem
        | none =>
          ∀ slot, s.chip.slotOfId (u64At map 8) = some slot →
            c.mapOf slot = some (mapDataOf map) ∧ (∀ k, k ≠ slot → c.mapOf k = s.chip.mapOf k) ∧
            c.map.last = some slot ∧ c.map.agreed = [] ∧ c.reg Obj.mapLastReason = 0 ∧
            c.reg Obj.siteMapState = (if (s.chip.mapPeers (mapDataOf map)).isEmpty then 2 else 1) ∧
            c.blob Obj.siteMap = map ∧ c.mem = s.chip.mem ∧ c.array = s.chip.array) ∧
    (∀ (peer : BitVec 16) (r : MapReply) (m : MapData), s.chip.lastMap = some m →
      let mine : Ver := (s.chip.reg Obj.shardVersionRound, s.chip.reg Obj.shardVersionStep)
      let theirs : Ver := Version.ver r.version
      (s.chip.reg Obj.siteMapState = 1 → peer ∈ s.chip.mapPeers m →
        (r.digest ≠ m.digest →
          Completes (.mapDigestReply peer r) s fun c =>
            c.reg Obj.siteMapState = 3 ∧ bit (c.reg (Obj.stickyFamily 7)) 1 = true ∧ c.map = s.chip.map ∧
            c.upd = s.chip.upd) ∧
        (r.digest = m.digest → theirs = mine →
          Completes (.mapDigestReply peer r) s fun c =>
            peer ∈ c.map.agreed ∧ (∀ p, p ∈ c.map.agreed ↔ p = peer ∨ p ∈ s.chip.map.agreed) ∧
            c.reg Obj.siteMapState = (if (s.chip.mapPeers m).all fun p => p == peer || s.chip.map.agreed.contains p then 2 else 1) ∧
            c.upd = s.chip.upd ∧ c.mem = s.chip.mem) ∧
        (r.digest = m.digest → theirs ≠ mine → Ver.before mine theirs = false → s.chip.versionBefore ≠ some theirs →
          s.chip.upd.shards ≠ [] →
          Completes (.mapDigestReply peer r) s fun c =>
            c.reg Obj.siteMapState = 3 ∧ bit (c.reg (Obj.stickyFamily 12)) 1 = true ∧ c.upd = s.chip.upd)) ∧
      (s.chip.reg Obj.siteMapState ≠ 1 ∨ peer ∉ s.chip.mapPeers m →
        Completes (.mapDigestReply peer r) s fun c => c = s.chip))

/-- Gathers and offload (R253, R295, R296, R303): a layer whose turn it is, with a free buffer, is gathered into it, its shards of other
modules being asked for; an answer of the version looked for lands with its hold, an older one is released and asked
again, and one without data or one that never lands ends in a DMA error and abandons the step; a late return ends its
channel so. -/
def GathersAndOffload : Prop :=
  ∀ (s : State),
    (∀ (layer : BitVec 16) slot l pass, s.chip.layerMap layer = some (slot, l) → s.chip.nextPass layer l.keep = some pass →
      s.chip.step.inStep = true → s.chip.step.abandoned = false → s.chip.step.committing = false →
      (s.chip.map.uses.filter fun u => u.layer == layer && !u.free).length < l.buffers →
      s.chip.earlierIssued slot layer = true →
      let n := (s.chip.map.uses.filter fun u => u.layer == layer).length
      Completes (.gatherIssue layer) s fun c =>
        c.map.uses = s.chip.map.uses ++ [⟨slot, layer, pass, n % Nat.max 1 l.buffers, s.chip.time.mono, false⟩] ∧
        (pass = 0 → Out.layerGather layer ∈ c.out)) ∧
    (∀ layer : BitVec 16, s.chip.step.inStep = false ∨ s.chip.layerMap layer = none →
      Completes (.gatherIssue layer) s fun c => c = s.chip) ∧
    (∀ (shard : BitVec 32) (v : Version) data sh, s.chip.fetchOpen shard = some sh → data ≠ [] →
      Completes (.gatherResult shard v data) s fun c =>
        shard ∈ c.upd.fetched ∧ c.upd.shards = s.chip.upd.shards ∧ c.step = s.chip.step ∧ c.map = s.chip.map) ∧
    (∀ (shard : BitVec 32) (v : Version) data g, s.chip.fetchOpen shard = none → s.chip.step.inStep = true →
      s.chip.step.abandoned = false → s.chip.gatherOf shard = some g →
      let want : Ver := match g.named with
        | some w => Version.ver w
        | none => (s.chip.reg Obj.shardVersionRound, s.chip.reg Obj.shardVersionStep)
      (data ≠ [] → Version.ver v = want →
        Completes (.gatherResult shard v data) s fun c =>
          { g with served := some v, landed := some s.chip.time.mono, held := true, ownSlot := none, size := data.length } ∈
            c.map.gathers ∧
          c.reg Obj.gatherBytes = (s.chip.reg Obj.gatherBytes + data.length) % 2 ^ 64 ∧ c.step = s.chip.step) ∧
      (data ≠ [] → Version.ver v ≠ want →
        Completes (.gatherResult shard v data) s fun c =>
          { g with retries := g.retries + 1 } ∈ c.map.gathers ∧ Out.holdRelease none shard v ∈ c.out ∧
          c.reg Obj.gatherRetries = (s.chip.reg Obj.gatherRetries + 1) % 2 ^ 64 ∧ c.mem = s.chip.mem ∧ c.step = s.chip.step) ∧
      (data = [] → s.chip.step.committing = false →
        Completes (.gatherResult shard v data) s fun c =>
          c.step.abandoned = true ∧ bit c.step.word.toNat abDma = true ∧
          c.reg Obj.dmaErrors = (s.chip.reg Obj.dmaErrors + 1) % 2 ^ 64 ∧ c.mem = s.chip.mem)) ∧
    (∀ shard : BitVec 32,
      (∀ g, s.chip.gatherWaiting shard = some g → g.retries ≠ 0 →
        Completes (.gatherRetryTimer shard) s fun c => c = s.chip.emit (.gatherRequest none shard g.named)) ∧
      (s.chip.gatherWaiting shard = none →
        Completes (.gatherRetryTimer shard) s (fun c => c = s.chip) ∧ Completes (.gatherWaitExpiry shard) s fun c => c = s.chip) ∧
      (∀ g, s.chip.gatherWaiting shard = some g → s.chip.step.committing = false →
        Completes (.gatherWaitExpiry shard) s fun c =>
          c.step.abandoned = true ∧ bit c.step.word.toNat abDma = true ∧ bit (c.reg (Obj.stickyFamily 7)) 2 = true ∧
          c.reg Obj.dmaErrors = (s.chip.reg Obj.dmaErrors + 1) % 2 ^ 64 ∧ c.mem = s.chip.mem)) ∧
    (∀ ch : Fin 512,
      (s.chip.dmaStateOf ch = dmaWaiting ∨ s.chip.dmaStateOf ch = dmaRunning →
        Completes (.offloadTimeoutExpiry ch) s fun c =>
          c.dmaStateOf ch = dmaFailed ∧ c.reg (Obj.dmaEnable ch) = 0 ∧ c.reg (Obj.dmaLastStatus ch) = 0x17 ∧
          bit (c.reg (Obj.stickyFamily 7)) 4 = true ∧ c.mem = s.chip.mem) ∧
      (s.chip.dmaStateOf ch ≠ dmaWaiting → s.chip.dmaStateOf ch ≠ dmaRunning →
        Completes (.offloadTimeoutExpiry ch) s fun c => c = s.chip))

/-- Site maps, gathers and offload (R288 to R305). -/
def Obligations.SiteMapAndGathers : Prop := SiteMapping ∧ GathersAndOffload

/-! ### The Braze fabric (The Braze Fabric) -/

/-- The command that brings a frame of this class. -/
def frameCommand (cls : Nat) (p : Fin 8) (f : BzFrame) : Instr :=
  match cls with
  | 0 => .bzMessageFrame p f
  | 1 => .bzAckFrame p f
  | 2 => .bzCreditFrame p f
  | 3 => .bzOperandFrame p f
  | 4 => .bzResultFrame p f
  | 5 => .bzTreeFrame p f
  | _ => .bzProbeFrame p f

/-- A well-formed frame of this class on an up port, next in its flow, nothing held beyond it, no number conflict. -/
def frameInOrder (c : Chip) (cls : Nat) (p : Fin 8) (f : BzFrame) : Prop :=
  let fl := c.bzFlow f.hdr.src.toNat
  c.bzUp p = true ∧ c.bzWellFormed cls f = true ∧ c.bz.conflict = false ∧ f.hdr.epoch = fl.rxEpoch ∧ f.hdr.seq = fl.rxNext ∧
  fl.rxHeld = []

/-- Braze ports, numbering and timers (R308, R313, R315, R317, R326): a port that has trained is up, or says that its lanes are out of
order, only while it is enabled and the module powered; a frame not acknowledged is sent again until BZ_RETRY_LIMIT, then
its peer is lost; lost peers are probed; a change of number ends a conflict; a deadline that passes on open work abandons
the step. -/
def BrazePortsAndTimers : Prop :=
  ∀ (s : State),
    (∀ p : Fin 8,
      let st := s.chip.reg (Obj.bzPortState p)
      (s.chip.board.phase = .on → st ≠ 2 → st ≠ 4 →
        Completes (.bzPortUp p true) s (fun c =>
          c.reg (Obj.bzPortState p) = 2 ∧ (∀ q : Fin 8, q ≠ p → c.reg (Obj.bzPortState q) = s.chip.reg (Obj.bzPortState q)) ∧
          c.map = s.chip.map ∧ c.step = s.chip.step ∧ c.array = s.chip.array ∧ c.mem = s.chip.mem ∧ c.board = s.chip.board) ∧
        Completes (.bzPortUp p false) s fun c =>
          c.reg (Obj.bzPortState p) = 3 ∧ (st ≠ 3 → bit (c.reg (Obj.stickyFamily 8)) 1 = true) ∧ c.bz = s.chip.bz ∧
          c.mem = s.chip.mem ∧ c.step = s.chip.step) ∧
      (∀ b, s.chip.board.phase ≠ .on ∨ st = 2 ∨ st = 4 → Completes (.bzPortUp p b) s fun c => c = s.chip) ∧
      (st ≠ 4 →
        Completes (.bzPortDown p) s fun c =>
          c.reg (Obj.bzPortState p) = 0 ∧ (st = 2 → bit (c.reg (Obj.stickyFamily 8)) 0 = true) ∧ c.bz = s.chip.bz ∧
          c.mem = s.chip.mem ∧ c.step = s.chip.step) ∧
      (st = 4 → Completes (.bzPortDown p) s fun c => c = s.chip) ∧
      (s.chip.board.phase = .on → s.chip.reg (Obj.bzPortEnable p) = 1 → st = 0 ∨ st = 3 →
        Completes (.bzRetrainTimer p) s fun c => c.reg (Obj.bzPortState p) = 1 ∧ c.bz = s.chip.bz ∧ c.mem = s.chip.mem) ∧
      (∀ (rq : Fin 17) (v : Byte), s.chip.permits rq (Obj.bzPortEnable p) [v] = true →
        Completes (.bzPortEnableWrite rq p v) s fun c =>
          c.reg (Obj.bzPortEnable p) = v.toNat ∧
          c.reg (Obj.bzPortState p) = (if v = 0 then 4 else if st = 4 then 1 else st) ∧ c.bz = s.chip.bz ∧ c.mem = s.chip.mem)) ∧
    (∀ (peer : BitVec 16) (seq : BitVec 32),
      let found := (s.chip.bzFlow peer.toNat).unacked.find? fun x => x.frame.hdr.seq == seq
      (found = none → Completes (.bzRetryTimeout peer seq) s fun c => c = s.chip) ∧
      (∀ x, found = some x →
        (x.tries < s.chip.reg Obj.bzRetryLimit →
          Completes (.bzRetryTimeout peer seq) s fun c =>
            c.reg Obj.bzRetries = (s.chip.reg Obj.bzRetries + 1) % 2 ^ 64 ∧ bit (c.reg (Obj.stickyFamily 8)) 2 = true ∧
            (c.bzFlow peer.toNat).unacked = (s.chip.bzFlow peer.toNat).unacked.map fun y =>
              if y.frame.hdr.seq = seq then { y with tries := y.tries + 1 } else y) ∧
        (s.chip.reg Obj.bzRetryLimit ≤ x.tries →
          Completes (.bzRetryTimeout peer seq) s fun c =>
            (c.bzFlow peer.toNat).lost = true ∧ (c.bzFlow peer.toNat).unacked = [] ∧
            bit (c.reg (Obj.stickyFamily 8)) 3 = true ∧ c.reg Obj.bzRetries = s.chip.reg Obj.bzRetries))) ∧
    ((∀ e ∈ s.chip.bz.flows, e.2.lost = false) → Completes .bzProbeTimer s fun c => c = s.chip) ∧
    (s.chip.bzUpPorts ≠ [] →
      Completes .bzProbeTimer s fun c =>
        ∀ e ∈ s.chip.bz.flows, e.2.lost = true →
          ∃ (p : Nat) (m : MacHeader) (f : BzFrame),
            Out.braze p m f ∈ c.out ∧ bzClass f = 6 ∧ f.hdr.dst = BitVec.ofNat 16 e.1 ∧ f.payload = []) ∧
    (∀ (ch : BitVec 32) slot b, s.chip.bindingAt ch.toNat = some (slot, b) →
      let x := s.chip.bzCredit ch.toNat
      (x.taken < x.given → b.peerModule.toNat = s.chip.reg Obj.bzModuleNumber → s.chip.bzUpPorts ≠ [] →
        Completes (.bzCreditRepeat ch) s fun c =>
          ∃ (p : Nat) (m : MacHeader) (f : BzFrame),
            Out.braze p m f ∈ c.out ∧ bzClass f = 2 ∧ f.hdr.channel = ch ∧ f.hdr.offset = BitVec.ofNat 32 x.given ∧
            f.hdr.dst = b.module) ∧
      (x.given ≤ x.taken → Completes (.bzCreditRepeat ch) s fun c => c = s.chip)) ∧
    (∀ (rq : Fin 17) (v : BitVec 16), s.chip.permits rq Obj.bzModuleNumber (leBytes 2 v.toNat) = true →
      let conflict := s.chip.bz.conflict && v.toNat == s.chip.reg Obj.bzModuleNumber
      Completes (.bzModuleNumberWrite rq v) s fun c =>
        c.reg Obj.bzModuleNumber = v.toNat ∧ c.bz = { s.chip.bz with conflict := conflict } ∧
        c.reg Obj.bzState =
          (if s.chip.bzUpPorts.isEmpty then 0 else if v.toNat = noModule then 1 else if conflict then 3 else 2) ∧
        c.mem = s.chip.mem) ∧
    (∀ n : BitVec 32,
      (s.chip.step.inStep = false ∨ s.chip.deadlineOpen n.toNat = false ∨ s.chip.deadlineWaits = true →
        Completes (.bzDeadlineExpiry n) s fun c => c = s.chip) ∧
      (s.chip.step.inStep = true → s.chip.deadlineOpen n.toNat = true → s.chip.deadlineWaits = false →
        s.chip.step.committing = false →
        Completes (.bzDeadlineExpiry n) s fun c =>
          c.reg Obj.bzDeadlinesExpired = (s.chip.reg Obj.bzDeadlinesExpired + 1) % 2 ^ 32 ∧
          bit (c.reg (Obj.stickyFamily 8)) 7 = true ∧ c.step.abandoned = true ∧
          c.reg Obj.stepCommitted = s.chip.reg Obj.stepCommitted ∧
          (n.toNat ≠ treeNumber 5 → bit c.step.word.toNat abDeadline = true ∧ c.step.inStep = true) ∧
          (n.toNat = treeNumber 5 → s.chip.step.combined = none → c.step.inStep = false)))

/-- Braze frames (R311 to R323): a port that is not up takes nothing, and a frame that is not as Table 12-3 gives is counted as discarded
and changes nothing else; the next frame of a flow moves its SEQ on and is delivered, one that lies before it is a
duplicate that delivers nothing; a message is handed over with its last frame; operands, results and tree contributions
gather until they are whole; an acknowledgement frees what it covers; a credit never goes back; a probe of the own number
is a conflict, a reply restores the peer only with a presence quote that is accepted. -/
def BrazeFrames : Prop :=
  ∀ (s : State) (p : Fin 8) (f : BzFrame),
    let peer := f.hdr.src.toNat
    let number := f.hdr.channel.toNat
    let step := f.hdr.msg.toNat
    let fl := s.chip.bzFlow peer
    (∀ cls, cls < 7 → s.chip.bzUp p = false → Completes (frameCommand cls p f) s fun c => c = s.chip) ∧
    (∀ cls, cls < 7 → s.chip.bzUp p = true → s.chip.bzWellFormed cls f = false →
      Completes (frameCommand cls p f) s fun c =>
        c = { s.chip with regs := c.regs } ∧
        c.reg (Obj.bzPortDiscards p) = (s.chip.reg (Obj.bzPortDiscards p) + 1) % 2 ^ 64) ∧
    (∀ cls, cls ∈ [0, 3, 4, 5] → frameInOrder s.chip cls p f →
      Completes (frameCommand cls p f) s fun c =>
        (c.bzFlow peer).rxNext = fl.rxNext + 1 ∧ (c.bzFlow peer).rxHeld = [] ∧ (c.bzFlow peer).rxEpoch = fl.rxEpoch ∧
        c.reg (Obj.bzPortBytesRx p) = (s.chip.reg (Obj.bzPortBytesRx p) + f.payload.length) % 2 ^ 64) ∧
    (∀ cls, cls ∈ [0, 3, 4, 5] → s.chip.bzUp p = true → s.chip.bzWellFormed cls f = true → s.chip.bz.conflict = false →
      f.hdr.epoch = fl.rxEpoch → seqBefore f.hdr.seq fl.rxNext = true →
      Completes (frameCommand cls p f) s fun c =>
        c.reg Obj.bzDuplicates = (s.chip.reg Obj.bzDuplicates + 1) % 2 ^ 64 ∧ c.bz.inbox = s.chip.bz.inbox ∧
        c.bz.collectives = s.chip.bz.collectives ∧ c.bz.trees = s.chip.bz.trees ∧ (c.bzFlow peer).rxNext = fl.rxNext ∧
        c.mem = s.chip.mem) ∧
    (∀ slot b, frameInOrder s.chip 0 p f → s.chip.bindingAt number = some (slot, b) → b.module.toNat = peer →
      b.peerModule.toNat = s.chip.reg Obj.bzModuleNumber →
      let old := ((s.chip.bz.partials.find? fun x => x.1 == f.hdr.channel && x.2.1 == f.hdr.msg).map (·.2.2)).getD []
      Completes (.bzMessageFrame p f) s fun c =>
        if bit f.hdr.flags.toNat 1 then
          c.bz.inbox = s.chip.bz.inbox ++ [(slot * 4096 + b.peerRoute.toNat, old ++ f.payload)] ∧
          (c.bzCredit number).taken = (s.chip.bzCredit number).taken + 1
        else c.bz.inbox = s.chip.bz.inbox ∧ (f.hdr.channel, f.hdr.msg, old ++ f.payload) ∈ c.bz.partials) ∧
    (frameInOrder s.chip 3 p f →
      (s.chip.collective number step = none →
        Completes (.bzOperandFrame p f) s fun c =>
          c.reg Obj.bzDuplicates = (s.chip.reg Obj.bzDuplicates + 1) % 2 ^ 64 ∧ c.bz.collectives = s.chip.bz.collectives) ∧
      (∀ x, s.chip.collective number step = some x → x.issued = true → (∃ m ∈ x.members, m.toNat = peer) →
        (f.hdr.fmt ≠ x.fmt →
          Completes (.bzOperandFrame p f) s fun c =>
            bit (c.reg (Obj.stickyFamily 8)) 5 = true ∧ c.bz.collectives = s.chip.bz.collectives) ∧
        (f.hdr.fmt = x.fmt → f.hdr.k = x.k → x.done = false → x.chunk < x.chunkCount → collKind number ∈ [1, 2, 7] →
          (∀ m ∈ x.members, m ∈ x.added ∨ (Sparse.get [] x.inbuf m.toNat).length < x.chunkLen x.chunk) →
          (∀ m ∈ x.members, m.toNat = peer → m ∉ x.added) →
          (Sparse.get [] x.inbuf peer).length + f.payload.length < x.chunkLen x.chunk →
          Completes (.bzOperandFrame p f) s fun c =>
            ∃ y, c.collective number step = some y ∧ y.chunk = x.chunk ∧
              Sparse.get [] y.inbuf peer = Sparse.get [] x.inbuf peer ++ f.payload))) ∧
    (frameInOrder s.chip 4 p f →
      (s.chip.collective number step = none →
        (s.chip.instanceGone number step = true →
          Completes (.bzResultFrame p f) s fun c =>
            c.reg Obj.bzDuplicates = (s.chip.reg Obj.bzDuplicates + 1) % 2 ^ 64 ∧ c.bz.collectives = s.chip.bz.collectives) ∧
        (s.chip.instanceGone number step = false →
          Completes (.bzResultFrame p f) s fun c =>
            ∃ y, c.collective number step = some y ∧ y.issued = false ∧ Sparse.get [] y.result peer = f.payload)) ∧
      (∀ x, s.chip.collective number step = some x → x.issued = false →
        Completes (.bzResultFrame p f) s fun c =>
          ∃ y, c.collective number step = some y ∧ y.issued = false ∧
            Sparse.get [] y.result peer = Sparse.get [] x.result peer ++ f.payload)) ∧
    (frameInOrder s.chip 5 p f →
      (step < s.chip.reg Obj.stepNumber →
        Completes (.bzTreeFrame p f) s fun c =>
          c.reg Obj.bzDuplicates = (s.chip.reg Obj.bzDuplicates + 1) % 2 ^ 64 ∧ c.bz.trees = s.chip.bz.trees) ∧
      (s.chip.reg Obj.stepNumber ≤ step → number ≠ treeNumber 5 → (s.chip.treeNode number step).own = none →
        peer ∈ treeChildren (s.chip.reg Obj.bzModuleNumber) (s.chip.reg Obj.bzSiteModules) →
        let old := (((s.chip.treeNode number step).children.find? fun e => e.1.toNat == peer).map (·.2)).getD []
        Completes (.bzTreeFrame p f) s fun c =>
          (f.hdr.src, old ++ f.payload) ∈ (c.treeNode number step).children) ∧
      (s.chip.reg Obj.stepNumber ≤ step → s.chip.reg Obj.bzModuleNumber ≠ 0 → peer = treeParent (s.chip.reg Obj.bzModuleNumber) →
        Completes (.bzTreeFrame p f) s fun c =>
          (c.treeNode number step).result = some ((s.chip.treeNode number step).result.getD [] ++ f.payload))) ∧
    (s.chip.bzUp p = true → s.chip.bzWellFormed 1 f = true → s.chip.bz.conflict = false → fl.waiting = [] →
      beNat (f.payload.take 8) = 0 →
      Completes (.bzAckFrame p f) s fun c =>
        c.bzFlow peer = { fl with unacked := fl.unacked.filter fun x => !seqBefore x.frame.hdr.seq f.hdr.ack } ∧
        c.bz.inbox = s.chip.bz.inbox ∧ c.bz.collectives = s.chip.bz.collectives) ∧
    (s.chip.bzUp p = true → s.chip.bzWellFormed 2 f = true → s.chip.bz.conflict = false → number < 2 ^ 28 →
      Completes (.bzCreditFrame p f) s fun c =>
        c.bzCredit number =
          { s.chip.bzCredit number with granted := Nat.max (s.chip.bzCredit number).granted f.hdr.offset.toNat }) ∧
    (s.chip.bzUp p = true → s.chip.bzWellFormed 6 f = true →
      (f.payload = [] → s.chip.bzSameNumber peer = true → Completes (.bzProbeFrame p f) s fun c => c.bz.conflict = true) ∧
      (f.payload ≠ [] → s.chip.bzSameNumber peer = true → quoteDevice f.payload ≠ s.chip.blob Obj.deviceId →
        Completes (.bzProbeFrame p f) s fun c => c.bz.conflict = true) ∧
      (f.payload ≠ [] → s.chip.bzSameNumber peer = false →
        Completes (.bzProbeFrame p f) s fun c =>
          if s.chip.quoteKnown peer f.payload || (s.chip.quoteAccepted f.payload && quoteModule f.payload == peer) then
            (c.bzFlow peer).lost = false ∧ c.reg Obj.peersRefused = s.chip.reg Obj.peersRefused
          else
            (c.bzFlow peer).lost = true ∧ bit (c.reg (Obj.stickyFamily 12)) 6 = true ∧
            c.reg Obj.peersRefused = (s.chip.reg Obj.peersRefused + 1) % 2 ^ 32))

/-- Braze ports, their timers and their frames (R307 to R326). -/
def Obligations.BrazePorts : Prop := BrazePortsAndTimers ∧ BrazeFrames

/-! ### Anneal rounds (Anneal Rounds) -/

/-- Anneal rounds (R330, R333, R339 to R341, R349, R351): a round table that meets Table 13-4 stands, one that does not changes no
round state and says why; a greeting that agrees is remembered and answered with the history, one that does not refuses
its site; a complete contribution is taken into a free slot where R339 permits it, discarded outside its limits, and
rejected for an image it does not; the window is over only while a vote pends; a history that comes says what each site
sends again, and which of two diverged sites takes an ingot. -/
def Obligations.AnnealRounds : Prop :=
  ∀ (s : State),
    (∀ (rq : Fin 17) table, s.chip.permits rq Obj.roundTable table = true →
      Completes (.roundTableWrite rq table) s fun c =>
        match s.chip.badRoundTable table with
        | some x =>
          c.reg Obj.rndLastReason = x.1 ∧ bit (c.reg (Obj.stickyFamily 9)) 0 = true ∧ c.rnd = s.chip.rnd ∧ c.mem = s.chip.mem
        | none =>
          c.reg Obj.rndLastReason = 0 ∧ c.blob Obj.roundTable = table ∧ c.mem = s.chip.mem ∧
          c.rnd = { s.chip.rnd with
            castingId := BitVec.ofNat 64 (u64At table 8), rxSlots := u16At table 0x14, outSlots := u16At table 0x16
            shards := (tblRounds table).map Prod.snd }) ∧
    (∀ (j : Fin 64) (g : Greeting),
      (s.chip.greetingOk j g = true →
        Completes (.rndGreeting j g) s fun c =>
          j.val ∈ c.slk.greeted ∧ j.val ∉ c.slk.histories ∧ Sparse.get 0 c.rnd.partnerRound j = g.latestMerged.toNat ∧
          Sparse.get [] c.rnd.partnerPrev j = g.prevDigest ∧ Out.accordHistory j s.chip.rnd.history ∈ c.out ∧
          c.mem = s.chip.mem) ∧
      (s.chip.greetingOk j g = false →
        Completes (.rndGreeting j g) s fun c =>
          j.val ∉ c.slk.greeted ∧ Sparse.get 1 c.rnd.partners j = partnerRefused ∧
          bit (c.reg (Obj.stickyFamily 9)) 4 = true ∧ c.mem = s.chip.mem)) ∧
    (∀ (j : Fin 64) (m : BitVec 32) (l : List (BitVec 32 × Bytes)),
      let part := fun (rs : RoundShard) => (l.find? fun x => x.1 == rs.shardId).map fun x => x.2
      let whole := !s.chip.rnd.shards.isEmpty && s.chip.rnd.shards.all (fun rs => (part rs).isSome) &&
        !(s.chip.rnd.contributions.any fun x => x.site == j.val && x.round == m.toNat) &&
        !s.chip.rnd.rejected.contains (j.val, m.toNat)
      (whole = false → Completes (.contributionComplete j m l) s fun c => c = s.chip) ∧
      (whole = true → s.chip.contributionInLimits j m.toNat = false →
        Completes (.contributionComplete j m l) s fun c =>
          c.reg Obj.rndContribDiscarded = (s.chip.reg Obj.rndContribDiscarded + 1) % 2 ^ 32 ∧ c.rnd = s.chip.rnd ∧
          c.mem = s.chip.mem) ∧
      (whole = true → s.chip.contributionInLimits j m.toNat = true → s.chip.freeRxSlot = none →
        Completes (.contributionComplete j m l) s fun c =>
          c.reg Obj.rndContribDiscarded = (s.chip.reg Obj.rndContribDiscarded + 1) % 2 ^ 32 ∧
          bit (c.reg (Obj.stickyFamily 9)) 3 = true ∧ c.rnd = s.chip.rnd ∧ c.mem = s.chip.mem) ∧
      (∀ k, whole = true → s.chip.contributionInLimits j m.toNat = true → s.chip.freeRxSlot = some k →
        Completes (.contributionComplete j m l) s fun c =>
          if s.chip.rnd.shards.all fun rs => (s.chip.shardImages rs k ((part rs).getD [])).isSome then
            c.rnd = { s.chip.rnd with contributions := s.chip.rnd.contributions ++ [⟨j.val, m.toNat, k⟩] }
          else
            c.rnd = { s.chip.rnd with rejected := s.chip.rnd.rejected ++ [(j.val, m.toNat)] } ∧
            c.reg Obj.rndContribRejected = (s.chip.reg Obj.rndContribRejected + 1) % 2 ^ 32 ∧
            bit (c.reg (Obj.stickyFamily 9)) 2 = true ∧ c.mem = s.chip.mem)) ∧
    Completes .rndWindowExpiry s (fun c =>
      c = if s.chip.votePending.isSome then { s.chip with rnd := { s.chip.rnd with windowPassed := true } } else s.chip) ∧
    (∀ (j : Fin 64) (h : List Bytes),
      (j.val ∉ s.chip.slk.greeted ∨ s.chip.partnerState j = partnerRefused →
        Completes (.accordHistoryExchange j h) s fun c => c = s.chip) ∧
      (j.val ∈ s.chip.slk.greeted → s.chip.partnerState j ≠ partnerRefused →
        let bound := s.chip.reg Obj.staleBound
        let me := s.chip.reg Obj.rndSiteIndex
        let mine := divergedRounds s.chip.rnd.history h j (s.chip.reg Obj.rndRoundMerged) bound
        let theirs := divergedRounds h s.chip.rnd.history me
          (Nat.max (historyRound h) (Sparse.get 0 s.chip.rnd.partnerRound j)) bound
        Completes (.accordHistoryExchange j h) s fun c =>
          j.val ∈ c.slk.histories ∧ c.rnd.resent = (s.chip.rnd.resent ++ s.chip.roundsResentBy j h).eraseDups ∧
          c.rnd.contributions = s.chip.rnd.contributions ∧ c.rnd.history = s.chip.rnd.history ∧
          (if takesIngot s.chip.rnd.history h me j mine theirs then
            c.rnd.ingotNeeded = true ∧ c.rnd.donor = some j.val ∧ bit (c.reg (Obj.stickyFamily 9)) 5 = true
          else c.rnd.ingotNeeded = s.chip.rnd.ingotNeeded ∧ c.rnd.donor = s.chip.rnd.donor)))

/-- Ingots (R352 to R355): a fetch asked for begins once no step is in progress, and stepping stops for it; an abandonment ends it; a
donor that is free serves what its round blocks hold; sections are taken in order, and bytes that fail a check are
refused with the code and fetched again; a site whose modules agree on the round stands at the ingot's version, and goes
on stepping if it ran. -/
def Obligations.IngotExchange : Prop :=
  ∀ (s : State),
    (∀ rq : Fin 17, s.chip.permits rq Obj.rndControl [1] = true → s.chip.rnd.shards ≠ [] → s.chip.rnd.ingot.due = false →
      s.chip.fetchStage = 0 →
      ∀ d, s.chip.ingotDonorSite = some d →
      (s.chip.step.inStep = true →
        Completes (.ingotFetchStart rq) s fun c =>
          c.step = { s.chip.step with on := false } ∧ c.reg Obj.ingotState = 0 ∧ c.mem = s.chip.mem ∧
          c.rnd.ingot = { s.chip.rnd.ingot with
            due := true, origin := some (s.chip.origin rq), byStop := s.chip.step.on || s.chip.rnd.ingot.byStop }) ∧
      (s.chip.step.inStep = false →
        Completes (.ingotFetchStart rq) s fun c =>
          c.step.on = false ∧ c.reg Obj.ingotState = 1 ∧ c.reg Obj.rndState = 4 ∧ Out.ingotRequest d none ∈ c.out ∧
          c.rnd.ingot.bytes = [] ∧ c.rnd.ingot.due = false ∧ c.mem = s.chip.mem)) ∧
    (∀ rq : Fin 17, s.chip.permits rq Obj.rndControl [2] = true →
      Completes (.ingotFetchAbandon rq) s fun c =>
        c.reg Obj.ingotState = 0 ∧ c.rnd.ingot = { Rounds.reset.ingot with serving := s.chip.rnd.ingot.serving } ∧
        c.step = s.chip.step ∧ c.mem = s.chip.mem ∧ c.upd = s.chip.upd) ∧
    (∀ (j : Fin 64) (round : Option (BitVec 32)),
      let heard := s.chip.partnerState j == partnerReachable || s.chip.partnerState j == partnerDiverged
      let n := (round.map fun r => r.toNat).getD (s.chip.reg Obj.shardVersionRound)
      (s.chip.ingotSending = true ∨ s.chip.rnd.shards = [] ∨ heard = false →
        Completes (.ingotFetchRequest j round) s fun c => c = s.chip) ∧
      (s.chip.ingotSending = false → s.chip.rnd.shards ≠ [] → heard = true →
        Completes (.ingotFetchRequest j round) s fun c =>
          match s.chip.ingotSections n s.chip.rnd.shards with
          | (none, d) => c = d
          | (some _, _) => c.rnd.ingot = { s.chip.rnd.ingot with serving := some (j.val, n) } ∧ c.upd = s.chip.upd)) ∧
    (∀ (offset : Nat) (data : Bytes),
      let g := s.chip.rnd.ingot
      let b := g.bytes ++ data
      (s.chip.fetchStage ≠ 1 ∨ g.retry = true ∨ s.chip.step.inStep = true ∨ (data ≠ [] ∧ offset ≠ g.bytes.length) →
        Completes (.ingotSectionReceived offset data) s fun c => c = s.chip) ∧
      (s.chip.fetchStage = 1 → g.retry = false → s.chip.step.inStep = false →
        (∀ d, data = [] → s.chip.ingotDonorSite = some d →
          Completes (.ingotSectionReceived offset data) s fun c =>
            Out.ingotRequest d none ∈ c.out ∧ c.rnd.ingot.bytes = [] ∧ c.reg Obj.ingotReceived = 0 ∧ c.mem = s.chip.mem) ∧
        (data ≠ [] → offset = g.bytes.length →
          Completes (.ingotSectionReceived offset data) s fun c =>
            c.reg Obj.ingotReceived = b.length ∧
            match s.chip.badIngot b with
            | some x =>
              c.rnd.ingot = { g with bytes := [], retry := true } ∧ c.reg Obj.rndLastReason = x.1 ∧
              bit (c.reg (Obj.stickyFamily 9)) 6 = true ∧ c.mem = s.chip.mem
            | none =>
              c.rnd.ingot.bytes = b ∧ c.rnd.ingot.retry = false ∧ (b.length < 256 → c.mem = s.chip.mem) ∧
              (256 ≤ b.length → u64At b 0x38 ≤ b.length →
                c.reg Obj.ingotState = 2 ∧ c.rnd.ingot.ready = some (u32At b 0x20) ∧
                Out.ingotRound (BitVec.ofNat 32 (u32At b 0x20)) ∈ c.out)))) ∧
    (∀ d, s.chip.fetchStage = 1 → s.chip.rnd.ingot.retry = true → s.chip.ingotDonorSite = some d →
      Completes .ingotRetryTimer s fun c =>
        c.rnd.ingot = { s.chip.rnd.ingot with bytes := [], ready := none, retry := false } ∧
        Out.ingotRequest d (s.chip.rnd.ingot.asked.map fun r => BitVec.ofNat 32 r) ∈ c.out ∧ c.mem = s.chip.mem) ∧
    (s.chip.fetchStage ≠ 1 ∨ s.chip.rnd.ingot.retry = false → Completes .ingotRetryTimer s fun c => c = s.chip) ∧
    (∀ (rounds : List (BitVec 16 × BitVec 32)),
      (s.chip.rnd.ingot.ready = none ∨ s.chip.fetchStage ≠ 2 ∨ s.chip.step.inStep = true →
        Completes (.ingotRoundAgreement rounds) s fun c => c = s.chip) ∧
      (∀ r, s.chip.rnd.ingot.ready = some r → s.chip.fetchStage = 2 → s.chip.step.inStep = false →
        let high := rounds.foldl (fun a x => Nat.max a x.2.toNat) r
        (∀ d, r < high → s.chip.ingotDonorSite = some d →
          Completes (.ingotRoundAgreement rounds) s fun c =>
            c.reg Obj.ingotState = 1 ∧ c.rnd.ingot.asked = some high ∧ c.rnd.ingot.bytes = [] ∧ c.mem = s.chip.mem) ∧
        ((∀ x ∈ rounds, x.2.toNat = r) →
          (∀ m, m < s.chip.reg Obj.bzSiteModules → m ≠ s.chip.reg Obj.bzModuleNumber → ∃ x ∈ rounds, x.1.toNat = m) →
          let b := s.chip.rnd.ingot.bytes
          Completes (.ingotRoundAgreement rounds) s fun c =>
            c.reg Obj.ingotState = 0 ∧ c.rnd.ingot.bytes = [] ∧ c.rnd.ingotNeeded = false ∧
            c.reg Obj.shardVersionRound = u32At b 0x20 ∧ c.reg Obj.shardVersionStep = u32At b 0x24 ∧
            c.reg Obj.stepCommitted = u32At b 0x24 ∧ c.reg Obj.updatesApplied = u64At b 0x28 ∧
            c.step.on = (s.chip.step.on || s.chip.rnd.ingot.byStop))))

/-! ### Site links (Site Links) -/

/-- Site-link ports and sessions (R364, R371, R374, R375, R384): a port comes up only with a written start counter, a usable cage and its
enable; hellos go to partners that have not shown the session, and one with a right tag makes the partner's start counter
known and, where it answers this module's own, the session stand; a probe not answered makes the partner unreachable; a
re-key moves the transmit direction to its next epoch with packet numbers from 0; a grace that has passed empties the key
before; a restart ends the sessions named. -/
def Obligations.SiteLinkSessions : Prop :=
  ∀ (s : State),
    (∀ p : Fin 2,
      let st := s.chip.reg (Obj.slkPortState p)
      let cage := s.chip.board.cage p
      let ready := s.chip.start.counterOk && cage.usable && s.chip.reg (Obj.slkPortEnable p) == 1 && (st == 0 || st == 1)
      (ready = true →
        Completes (.slkPortUp p) s fun c =>
          c.reg (Obj.slkPortState p) = 2 ∧ 1 ≤ c.reg Obj.slkState ∧ c.slk = s.chip.slk ∧ c.mem = s.chip.mem) ∧
      (ready = false → Completes (.slkPortUp p) s fun c => c = s.chip) ∧
      (st = 1 ∨ st = 2 →
        Completes (.slkPortDown p) s fun c =>
          c.reg (Obj.slkPortState p) = 0 ∧ (st = 2 → bit (c.reg (Obj.stickyFamily 10)) 0 = true) ∧ c.slk = s.chip.slk ∧
          c.mem = s.chip.mem) ∧
      (st ≠ 1 → st ≠ 2 → Completes (.slkPortDown p) s fun c => c = s.chip) ∧
      (st = 0 → s.chip.reg (Obj.slkPortEnable p) = 1 → cage.usable = true →
        Completes (.slkPortRetryTimer p) s fun c => c.reg (Obj.slkPortState p) = 1 ∧ c.slk = s.chip.slk ∧ c.mem = s.chip.mem) ∧
      (∀ (rq : Fin 17) (v : Byte), s.chip.permits rq (Obj.slkPortEnable p) [v] = true →
        Completes (.slkPortEnableWrite rq p v) s fun c =>
          c.reg (Obj.slkPortEnable p) = v.toNat ∧ c.slk = s.chip.slk ∧ c.mem = s.chip.mem ∧
          c.reg (Obj.slkPortState p) =
            if v = 0 then 3 else if st = 3 then (if cage.overcurrent then 4 else if cage.usable then 1 else 0) else st)) ∧
    (s.chip.slkNextPort = none → Completes .slkHelloTimer s fun c => c = s.chip) ∧
    (s.chip.slkNextPort ≠ none → s.chip.slotKey (s.chip.reg Obj.slkMasterSlot) ≠ none →
      Completes .slkHelloTimer s fun c =>
        ∀ p x, p ∈ s.chip.slkPartners → s.chip.session p = some x → (x.up && x.confirmed) = false →
          ∃ (port : Nat) (m : MacHeader) (f : SlkFrame),
            Out.slk port m f ∈ c.out ∧ f.hdr.vt = 19 ∧ f.hdr.dstSite = BitVec.ofNat 8 (partnerSite p) ∧
            f.hdr.dstModule = BitVec.ofNat 16 (partnerModule p)) ∧
    (∀ (port : Fin 2) (f : SlkFrame),
      let p := slkSource f.hdr
      (s.chip.slkUp port = false → Completes (.slkHello port f) s fun c => c = s.chip) ∧
      (s.chip.slkUp port = true → s.chip.slkWellFormed 3 f = false →
        Completes (.slkHello port f) s fun c => c = { s.chip with regs := c.regs }) ∧
      (s.chip.slkUp port = true → s.chip.slkWellFormed 3 f = true → s.chip.session p ≠ none →
        Completes (.slkHello port f) s fun c =>
          if s.chip.helloGood p f then
            ∃ y, c.session p = some y ∧ y.peerStart = some (BitVec.ofNat 64 (beAt f.body 8 8)) ∧ y.confirmed = false ∧
              (beAt f.body 16 8 = s.chip.reg Obj.startCount → y.up = true)
          else bit (c.reg (Obj.stickyFamily 10)) 1 = true ∧ c.slk = s.chip.slk ∧ c.mem = s.chip.mem)) ∧
    Completes .slkProbeTimer s (fun c =>
      (∀ e ∈ s.chip.slk.sessions, e.2.up = true → ∃ y, c.session e.1 = some y ∧ y.probeSent = s.chip.time.mono) ∧
      c.mem = s.chip.mem) ∧
    (∀ p x k, s.chip.slk.sessions = [(p, x)] → x.up = true → s.chip.slkNextPort ≠ none →
      s.chip.slotKey (x.base + keyTx) = some k → x.pnTx < s.chip.reg Obj.slkRekeyPackets →
      Completes .slkProbeTimer s fun c =>
        ∃ (port : Nat) (m : MacHeader) (f : SlkFrame),
          Out.slk port m f ∈ c.out ∧ f.hdr.vt = 20 ∧ f.hdr.dstSite = BitVec.ofNat 8 (partnerSite p)) ∧
    (∀ (site : Fin 64) (module : BitVec 16),
      let p := slkPartner site module.toNat
      (s.chip.session p = none →
        Completes (.slkProbeTimeout site module) s (fun c => c = s.chip) ∧
        Completes (.slkRekeyIntervalExpiry site module) s (fun c => c = s.chip) ∧
        Completes (.slkGraceExpiry site module) s fun c => c = s.chip) ∧
      (∀ x, s.chip.session p = some x →
        Completes (.slkProbeTimeout site module) s (fun c =>
          c.session p = some { x with answered := false } ∧ c.mem = s.chip.mem ∧
          (p = s.chip.slkPeer site → s.chip.partnerState site ≠ 0 → s.chip.partnerState site ≠ partnerRefused →
            c.partnerState site = partnerUnreachable)) ∧
        (x.up = true →
          Completes (.slkRekeyIntervalExpiry site module) s fun c =>
            ∃ y, c.session p = some y ∧ y.epochTx = x.epochTx + 1 ∧ y.pnTx = 0 ∧ y.up = true) ∧
        (x.up = false → Completes (.slkRekeyIntervalExpiry site module) s fun c => c = s.chip) ∧
        Completes (.slkGraceExpiry site module) s fun c =>
          c.session p = some { x with previous := false } ∧ c.slotKey (x.base + keyRxPrev) = none)) ∧
    (∀ (rq : Fin 17) (v : Byte), (s.chip.slk.sessions.map Prod.fst).Nodup →
      (s.chip.permits rq Obj.slkRekey [v] = true →
        Completes (.slkRekey rq v) s fun c =>
          ∀ p x, s.chip.session p = some x → x.up = true → v = 0xFF ∨ partnerSite p = v.toNat →
            ∃ y, c.session p = some y ∧ y.epochTx = x.epochTx + 1 ∧ y.pnTx = 0) ∧
      (s.chip.permits rq Obj.slkRestart [v] = true →
        Completes (.slkRestart rq v) s fun c =>
          ∀ p x, s.chip.session p = some x →
            if v = 0xFF ∨ partnerSite p = v.toNat then ∃ y, c.session p = some y ∧ y.up = false ∧ y.confirmed = false
            else c.session p = some x))

/-- Site-link packets (R367 to R370, R373, R375, R377 to R382): a packet of a port that is not up is not taken; one whose session is not
there is late; one that does not authenticate changes nothing more; a new fragment of a message not yet whole is held, and a
message of one fragment is handed over; an acknowledgement of a whole message ends it at the sender; a parity packet is
kept until it can rebuild what is missing; a group that closes sends its parity packets; a hold that has passed counts
what is still missing; a flow table that keeps to Table 14-4 stands for the contexts not in use. -/
def Obligations.SiteLinkPackets : Prop :=
  ∀ (s : State),
    (∀ (port : Fin 2) (f : SlkFrame),
      let p := slkSource f.hdr
      let h := f.hdr
      let c0 := fun (kind : Nat) => (s.chip.slkArrive port kind f).2
      (s.chip.slkUp port = false →
        Completes (.slkDataPacket port f) s (fun c => c = s.chip) ∧ Completes (.slkParityPacket port f) s (fun c => c = s.chip) ∧
        Completes (.slkAckPacket port f) s (fun c => c = s.chip) ∧ Completes (.slkProbePacket port f) s fun c => c = s.chip) ∧
      (s.chip.slkUp port = true → s.chip.session p = none →
        (s.chip.slkWellFormed 0 f = true → h.parityCount = 0 →
          Completes (.slkDataPacket port f) s fun c =>
            c.reg Obj.slkEpochLate = (s.chip.reg Obj.slkEpochLate + 1) % 2 ^ 64 ∧ bit (c.reg (Obj.stickyFamily 10)) 3 = true ∧
            c.slk = s.chip.slk ∧ c.mem = s.chip.mem) ∧
        (s.chip.slkWellFormed 2 f = true →
          Completes (.slkAckPacket port f) s fun c =>
            c.reg Obj.slkEpochLate = (s.chip.reg Obj.slkEpochLate + 1) % 2 ^ 64 ∧ c.slk = s.chip.slk) ∧
        (s.chip.slkWellFormed 4 f = true →
          Completes (.slkProbePacket port f) s fun c =>
            c.reg Obj.slkEpochLate = (s.chip.reg Obj.slkEpochLate + 1) % 2 ^ 64 ∧ c.slk = s.chip.slk)) ∧
      (s.chip.slkUp port = true → s.chip.slkWellFormed 0 f = true → h.parityCount = 0 →
        Completes (.slkDataPacket port f) s fun c =>
          match (c0 0).slkOpen p f with
          | (none, d) => c = d
          | (some b, d) =>
            let n := roundContext h.srcSite.toNat h.cls.toNat 1
            let x := d.context n
            (h.srcSite.toNat < 64 → h.cls.toNat < 3 → p = s.chip.slkPeer h.srcSite.toNat → x.stream = h.stream →
              d.partnerState h.srcSite.toNat ≠ partnerRefused → h.round ∉ x.completed → (∀ m ∈ x.rx, m.round ≠ h.round) →
              x.rx.length < 4 → openMessages d.slk < 1024 → h.fragment.toNat < h.msgFragments.toNat →
              h.fragment.toNat ≤ fragmentWindow →
              (2 ≤ h.msgFragments.toNat →
                ∃ m ∈ (c.context n).rx, m.round = h.round ∧ m.fragments = h.msgFragments.toNat ∧
                  (h.fragment.toNat, b) ∈ m.cells) ∧
              (h.msgFragments = 1 → (∃ y, d.session p = some y ∧ y.quoteDue = false) →
                Out.slkDelivered p h.stream h.round b ∈ c.out))) ∧
      (s.chip.slkUp port = true → s.chip.slkWellFormed 1 f = true → 64 ≤ h.groupIndex.toNat → h.groupIndex.toNat < 80 →
        h.groupSize ≠ 0 → h.groupSize.toNat ≤ 64 →
        (∀ g ∈ s.chip.slk.fecRx, ¬ (g.port = port.val ∧ g.partner = p ∧ g.group = h.group)) →
        Completes (.slkParityPacket port f) s fun c =>
          (h.groupSize ≠ 1 →
            c.fecGroup port p h.group =
              ⟨port, p, h.group, some h.groupSize.toNat, [], [(h.groupIndex.toNat - 64, f.body)]⟩ ∧ c.mem = s.chip.mem) ∧
          (h.groupSize = 1 → c.reg Obj.slkFecRecovered = (s.chip.reg Obj.slkFecRecovered + 1) % 2 ^ 64)) ∧
      (s.chip.slkUp port = true → s.chip.slkWellFormed 2 f = true →
        Completes (.slkAckPacket port f) s fun c =>
          match (c0 2).slkOpen p f with
          | (none, d) => c = d
          | (some b, d) =>
            ∀ n, b.length = ackEntryBytes → d.txContext p (beAt b 0 2) = some n → beAt b 12 4 ≠ 0 →
              ∀ m ∈ (c.context n).tx, m.round.toNat ≠ beAt b 4 4) ∧
      (s.chip.slkUp port = true → s.chip.slkWellFormed 4 f = true →
        Completes (.slkProbePacket port f) s fun c =>
          match (c0 4).slkOpen p f with
          | (none, d) => c = d
          | (some b, d) =>
            (beAt b 0 1 = 0 → c = d.slkControl p 4 (probeBody true (beAt b 1 8))) ∧
            (beAt b 0 1 ≠ 0 → c.session p = (d.session p).map fun y => { y with answered := y.up }))) ∧
    (∀ (port : Fin 2) (site : Fin 64) (module : BitVec 16),
      let p := slkPartner site module.toNat
      let open_ := s.chip.slk.fecTx.find? fun g => g.port == port.val && g.partner == p
      (open_ = none → Completes (.slkFecGroupTimer port site module) s fun c => c = s.chip) ∧
      (∀ g, open_ = some g →
        Completes (.slkFecGroupTimer port site module) s fun c =>
          g ∉ c.slk.fecTx ∧ c.mem = s.chip.mem ∧
          ∀ j, j < g.parity → ∃ (m : MacHeader) (f : SlkFrame),
            Out.slk port m f ∈ c.out ∧ f.hdr.vt = 17 ∧ f.hdr.groupIndex = BitVec.ofNat 8 (64 + j) ∧ f.hdr.group = g.group ∧
            f.hdr.groupSize = BitVec.ofNat 8 g.units.length ∧ f.body = symbolBytes (paritySymbols g.units j)) ∧
      (∀ group : BitVec 32,
        let g := s.chip.fecGroup port p group
        let kept := { s.chip.slk with
          fecRx := s.chip.slk.fecRx.filter fun x => !(x.port == port.val && x.partner == p && x.group == group) }
        let lost := match g.k with
          | some _ => g.missing.length
          | none =>
            ((List.range (g.units.foldl (fun m u => Nat.max m (u.1 + 1)) 0)).filter fun i => !g.has i).length
        Completes (.slkFecHoldExpiry port site module group) s fun c =>
          if lost = 0 then c = { s.chip with slk := kept }
          else
            c.slk = kept ∧ c.mem = s.chip.mem ∧ c.reg Obj.slkFecLost = (s.chip.reg Obj.slkFecLost + lost) % 2 ^ 64 ∧
            bit (c.reg (Obj.stickyFamily 10)) 4 = true)) ∧
    (∀ n : Fin 16384,
      ((s.chip.context n).unackedRx = 0 → Completes (.slkAckTimer n) s fun c => c = s.chip) ∧
      ((s.chip.context n).unackedRx ≠ 0 →
        Completes (.slkAckTimer n) s fun c =>
          (c.context n).unackedRx = 0 ∧ (c.context n).toAck = [] ∧ (c.context n).rx = (s.chip.context n).rx ∧ c.mem = s.chip.mem) ∧
      (∀ round fragment : BitVec 32,
        let msg := (s.chip.context n).tx.find? fun m => m.round == round
        (msg = none → Completes (.slkResendTimer n round fragment) s fun c => c = s.chip) ∧
        (∀ m, msg = some m →
          (m.next ≤ fragment.toNat ∨ fragment.toNat < m.base ∨ fragment.toNat ∈ m.held →
            Completes (.slkResendTimer n round fragment) s fun c => c = s.chip) ∧
          (fragment.toNat < m.next → m.base ≤ fragment.toNat → fragment.toNat ∉ m.held →
            Completes (.slkResendTimer n round fragment) s fun c =>
              c.mem = s.chip.mem ∧
              c.reg Obj.slkResends =
                if (s.chip.slkFragment n m fragment.toNat true).1 then (s.chip.reg Obj.slkResends + 1) % 2 ^ 64
                else s.chip.reg Obj.slkResends)))) ∧
    (∀ (rq : Fin 17) entries, s.chip.permits rq Obj.slkFlowTable entries = true →
      let l := chunks 32 entries
      let good := decide (entries.length % 32 = 0) && decide (entries.length ≤ 512000) && l.all s.chip.flowEntryOk &&
        (s.chip.flowNames l).eraseDups.length == (s.chip.flowNames l).length
      (good = false → Completes (.slkFlowTableWrite rq entries) s fun c => c.slk = s.chip.slk ∧ c.mem = s.chip.mem) ∧
      (good = true →
        Completes (.slkFlowTableWrite rq entries) s fun c =>
          ∀ i b, l[i]? = some b →
            let x := s.chip.context (384 + i)
            (x.rx = [] → x.tx = [] → c.context (384 + i) = Chip.slkSettle.flowEntry b) ∧
            (x.rx ≠ [] ∨ x.tx ≠ [] → c.context (384 + i) = { x with next := some b })))

/-! ### The cipher engine (The Cipher Engine) -/

/-- The cipher engine (R394 to R400): a request joins the queue with its key as that stands and the first status of Table 15-3 that
applies, and a full queue turns it away; the next request in the order of service completes with that status, or with its
operation done, in which a tag that does not fit writes nothing; a key is loaded where its wrap opens and its target is
the operator's, and erased; a refusal shows its code and leaves every key. -/
def Obligations.CipherEngine : Prop :=
  ∀ (s : State),
    (∀ who (addr : BitVec 64) desc,
      (requesterKnown who = false → Completes (.cipherRequest who addr desc) s fun c => c = s.chip) ∧
      (requesterKnown who = true → cipherQueueMax ≤ s.chip.cipher.queue.length →
        Completes (.cipherRequest who addr desc) s fun c =>
          c.cipher = s.chip.cipher ∧ c.reg Obj.cipherErrors = (s.chip.reg Obj.cipherErrors + 1) % 2 ^ 64 ∧
          bit (c.reg (Obj.stickyFamily 11)) 1 = true ∧ c.mem = s.chip.mem) ∧
      (requesterKnown who = true → s.chip.cipher.queue.length < cipherQueueMax →
        let r := CipherReq.ofBytes desc
        let k := s.chip.keySlot r.slot
        Completes (.cipherRequest who addr desc) s fun c =>
          c.cipher = { s.chip.cipher with
            queue := s.chip.cipher.queue ++ [⟨who, addr, desc, k, BitVec.ofNat 8 (r.check who k)⟩] } ∧
          c.reg Obj.cipherQueueDepth = s.chip.cipher.queue.length + 1 ∧ c.mem = s.chip.mem ∧ c.linkMem = s.chip.linkMem ∧
          c.out = s.chip.out)) ∧
    (s.chip.cipher.queue = [] → Completes .cipherCompletion s fun c => c = s.chip) ∧
    (∀ (j : CipherJob) rest, nextJob s.chip.cipher.queue = some (j, rest) →
      (j.status ≠ 0 → j.status ≠ 1 →
        Completes .cipherCompletion s fun c =>
          c.cipher = { s.chip.cipher with queue := rest } ∧ c.reg Obj.cipherQueueDepth = rest.length ∧
          c.reg Obj.cipherErrors = (s.chip.reg Obj.cipherErrors + 1) % 2 ^ 64 ∧ bit (c.reg (Obj.stickyFamily 11)) 1 = true ∧
          Out.cipher j.who j.status 0 (BitVec.ofNat 64 s.chip.now64) ∈ c.out ∧ c.linkMem = s.chip.linkMem ∧
          c.mem = s.chip.mem) ∧
      (let r := CipherReq.ofBytes j.desc
       j.status = 0 → spaceOf r.src = 2 → spaceOf r.dst = 2 → spaceOf r.aad = 2 → spaceOf r.tag = 2 →
        let at_ := fun (a n : Nat) => Memory.readBytes s.chip.linkMem (within a) n
        let x := r.run j.key.key (at_ r.src r.dataBytes) (at_ r.aad r.aadBytes) (if r.verifies then at_ r.tag r.tagBytes else [])
        Completes .cipherCompletion s fun c =>
          c.cipher = { s.chip.cipher with queue := rest } ∧ c.mem = s.chip.mem ∧
          c.reg Obj.cipherBytes = (s.chip.reg Obj.cipherBytes + (r.dataBytes + r.aadBytes)) % 2 ^ 64 ∧
          if x.1 = csOk then
            c.linkMem = Memory.writeBytes (Memory.writeBytes s.chip.linkMem (within r.dst) x.2.1) (within r.tag) x.2.2 ∧
            Out.cipher j.who 0 (BitVec.ofNat 32 r.dataBytes) (BitVec.ofNat 64 s.chip.now64) ∈ c.out
          else
            c.linkMem = s.chip.linkMem ∧ Out.cipher j.who 1 0 (BitVec.ofNat 64 s.chip.now64) ∈ c.out ∧
            c.reg Obj.cipherAuthFailed = (s.chip.reg Obj.cipherAuthFailed + 1) % 2 ^ 64)) ∧
    (∀ (rq : Fin 17) blob, s.chip.permits rq Obj.cipherKeyLoad blob = true →
      Completes (.cipherKeyLoad rq blob) s fun c =>
        match s.chip.openWrap blob with
        | .inl x => c.keySlot x.1 = x.2 ∧ ∀ n, n ≠ x.1 → c.keySlot n = s.chip.keySlot n
        | .inr code => c.cipher = s.chip.cipher ∧ c.reg Obj.cipherKeyLastReason = code) ∧
    (∀ (rq : Fin 17) (slot : BitVec 16), s.chip.permits rq Obj.cipherKeyErase (leBytes 2 slot.toNat) = true →
      Completes (.cipherKeyErase rq slot) s fun c =>
        if slot = 0 ∨ 3072 ≤ slot.toNat then
          c.cipher = s.chip.cipher ∧ c.reg Obj.cipherKeyLastReason = csKeyReserved
        else c.keySlot slot.toNat = ⟨0, []⟩ ∧ ∀ n, n ≠ slot.toNat → c.keySlot n = s.chip.keySlot n)

/-! ### DMA channels (The DMA Channels) -/

/-- DMA channels (R402 to R416, R419): a start reaches the descriptor at DMA_START_DESC and waits for its trigger or runs; a stop ends the
channel with an entry, and leaves one that does not work as it is; bound and privileged channels refuse both and their
descriptors; a privileged channel stops between passes; triggers start a waiting channel, wait for one pass, and are lost
beyond that; half a pass is noted once; a pass of one row from LPDDR6 to LPDDR6 copies it, counts it and ends without an error;
an error shows its status and stops the channel; a read of completions frees them. -/
def Obligations.DmaChannels : Prop :=
  ∀ (s : State) (ch : Fin 512),
    let x := s.chip.dmaChan ch
    let d := x.desc x.cur
    let st := s.chip.dmaStateOf ch
    (∀ rq : Fin 17, s.chip.permits rq (Obj.dmaEnable ch) [1] = true →
      (s.chip.dmaReserved ch = true →
        Completes (.dmaStart rq ch) s fun c => c = s.chip.refusedWrite rq (Obj.dmaEnable ch) stWriteRefused) ∧
      (s.chip.dmaReserved ch = false → st = dmaWaiting ∨ st = dmaRunning →
        Completes (.dmaStart rq ch) s fun c => c = s.chip.answered rq (Obj.dmaEnable ch)) ∧
      (s.chip.dmaReserved ch = false → st ≠ dmaWaiting → st ≠ dmaRunning →
        let first := s.chip.reg (Obj.dmaStartDesc ch)
        let t := (x.desc first).trigger
        Completes (.dmaStart rq ch) s fun c =>
          c.reg (Obj.dmaEnable ch) = 1 ∧ c.reg (Obj.dmaBytesDone ch) = 0 ∧
          c.dmaStateOf ch = (if t = 1 ∨ t = 2 then dmaWaiting else dmaRunning) ∧
          c.dmaChan ch = { x with
            cur := first, pass := 0, half := false, trigger := false, stopAsked := false, reached := s.chip.time.mono } ∧
          c.mem = s.chip.mem)) ∧
    (∀ rq : Fin 17, s.chip.permits rq (Obj.dmaEnable ch) [0] = true →
      (s.chip.dmaReserved ch = true →
        Completes (.dmaStop rq ch) s fun c => c = s.chip.refusedWrite rq (Obj.dmaEnable ch) stWriteRefused) ∧
      (s.chip.dmaReserved ch = false → st = dmaIdle ∨ st = dmaFailed ∨ st = dmaStopped →
        Completes (.dmaStop rq ch) s fun c =>
          c = (s.chip.answered rq (Obj.dmaEnable ch)).setReg (Obj.dmaEnable ch) 0) ∧
      (s.chip.dmaReserved ch = false → st = dmaWaiting ∨ st = dmaRunning → x.ring.length < dmaRing → x.held = [] →
        Completes (.dmaStop rq ch) s fun c =>
          c.dmaStateOf ch = dmaStopped ∧ c.reg (Obj.dmaEnable ch) = 0 ∧ (st = dmaWaiting → c.mem = s.chip.mem) ∧
          ∃ pass bytes : Nat, (c.dmaChan ch).ring = x.ring ++ [dmaEntry 0 4 x.cur pass bytes s.chip.now64])) ∧
    (dmaPrivileged ch = false → Completes (.dmaPrivilegedStop ch) s fun c => c = s.chip) ∧
    (dmaPrivileged ch = true → st = dmaRunning →
      Completes (.dmaPrivilegedStop ch) s fun c => c = s.chip.setDma ch { x with stopAsked := true }) ∧
    (dmaPrivileged ch = true → st = dmaWaiting → x.pass = 0 →
      Completes (.dmaPrivilegedStop ch) s fun c =>
        c.dmaStateOf ch = dmaStopped ∧ c.reg (Obj.dmaEnable ch) = 0 ∧ c.mem = s.chip.mem) ∧
    (∀ (rq : Fin 17) data, s.chip.permits rq (Obj.dmaDescriptors ch) data = true →
      (s.chip.dmaReserved ch = true →
        Completes (.dmaDescriptorsWrite rq ch data) s fun c =>
          c = s.chip.refusedWrite rq (Obj.dmaDescriptors ch) stWriteRefused) ∧
      (s.chip.dmaReserved ch = false → data.length ≠ 0 → data.length ≠ 4096 →
        Completes (.dmaDescriptorsWrite rq ch data) s fun c => c = s.chip.refusedWrite rq (Obj.dmaDescriptors ch) stLength) ∧
      (s.chip.dmaReserved ch = false → data.length = 0 ∨ data.length = 4096 →
        Completes (.dmaDescriptorsWrite rq ch data) s fun c =>
          c.dmaChan ch = { x with descs := if data.isEmpty then [] else chunks 64 data } ∧
          (448 ≤ ch.val → c.reg (Obj.dmaOwner ch) = if data.isEmpty then 0 else 6) ∧ c.mem = s.chip.mem)) ∧
    (d.trigger ≠ 1 → Completes (.dmaTimerTrigger ch) s fun c => c = s.chip) ∧
    (d.trigger = 1 →
      (st = dmaWaiting →
        Completes (.dmaTimerTrigger ch) s fun c =>
          c.dmaStateOf ch = dmaRunning ∧ c.dmaChan ch = { x with half := false } ∧ c.mem = s.chip.mem) ∧
      (st = dmaRunning → x.trigger = false →
        Completes (.dmaTimerTrigger ch) s fun c => c = s.chip.setDma ch { x with trigger := true }) ∧
      (st = dmaRunning → x.trigger = true →
        Completes (.dmaTimerTrigger ch) s fun c =>
          c.reg Obj.dmaTriggersLost = (s.chip.reg Obj.dmaTriggersLost + 1) % 2 ^ 64 ∧
          bit (c.reg (Obj.stickyFamily 11)) 3 = true ∧ c.dmaChan ch = x)) ∧
    (st = dmaRunning → x.held = [] → x.half = false → 2 ≤ d.rows →
      Completes (.dmaHalfDone ch) s fun c =>
        (c.dmaChan ch).half = true ∧ c.mem = s.chip.mem ∧
        (d.half = true → x.ring.length < dmaRing →
          (c.dmaChan ch).ring = x.ring ++ [dmaEntry 0 1 x.cur x.pass (ceilDiv d.rows 2 * d.rowBytes) s.chip.now64])) ∧
    (st ≠ dmaRunning ∨ x.held ≠ [] ∨ x.half = true ∨ d.rows < 2 → Completes (.dmaHalfDone ch) s fun c => c = s.chip) ∧
    (∀ env : PassEnv,
      (st ≠ dmaRunning ∨ x.held ≠ [] → Completes (.dmaPassComplete ch env) s fun c => c = s.chip) ∧
      (∀ status a, st = dmaRunning → x.held = [] → x.route = none → d.badFields.isSome = false → d.badTranspose.isSome = false →
        env.reported = some (status, a) →
        Completes (.dmaPassComplete ch env) s fun c =>
          c.dmaStateOf ch = dmaFailed ∧ c.reg (Obj.dmaEnable ch) = 0 ∧ c.reg (Obj.dmaLastStatus ch) = status.toNat ∧
          c.reg Obj.dmaErrors = (s.chip.reg Obj.dmaErrors + 1) % 2 ^ 64 ∧ bit (c.reg (Obj.stickyFamily 11)) 2 = true ∧
          c.mem = s.chip.mem) ∧
      (∀ b r, st = dmaRunning → x.held = [] → x.route = none → d.badFields.isSome = false → d.badTranspose.isSome = false →
        env.reported = none → d.rows = 1 → d.images = false → d.transpose = false → spaceOf d.src = 0 → spaceOf d.dst = 0 →
        d.rowBad ch false x.pass 0 = none → s.chip.readMem env.flips (d.srcAt x.pass 0) d.rowBytes = (.inl b, r) →
        Completes (.dmaPassComplete ch env) s fun c =>
          c.mem.cells = (r.writeMem (d.dstAt x.pass 0) b).mem.cells ∧ c.reg (Obj.dmaLastStatus ch) = 0 ∧
          c.reg (Obj.dmaBytesDone ch) = (s.chip.reg (Obj.dmaBytesDone ch) + d.rowBytes) % 2 ^ 64)) ∧
    (∀ (rq : Fin 17) l, s.chip.board.modReady = true → s.chip.level rq = some l → mayRead l (Obj.dmaCompletions ch) = true →
      Completes (.dmaCompletionsRead rq ch) s fun c =>
        Out.item rq (Obj.dmaCompletions ch) 0 x.ring.flatten ∈ c.out ∧ (c.dmaChan ch).ring = x.held.take dmaRing ∧
        (c.dmaChan ch).held = x.held.drop dmaRing ∧ c.mem = s.chip.mem)

/-! ### Refusals and aborts that name a single rule -/

/-- The item is answered with NO_OBJECT, an entry of the fault log carries its index and subindex, and nothing else changes. -/
def RefusedNoObject (c : Chip) (rq key : Nat) (d : Chip) : Prop :=
  Out.item rq key (BitVec.ofNat 8 0x10) [] ∈ d.out ∧ c.OnlyLogged d ∧ d.dap.transfers = c.dap.transfers ∧
  ∃ e : FaultEntry, e ∈ d.flt.entries ∧ e.seq = c.flt.nextSeq ∧ e.unit = BitVec.ofNat 16 Unit2.dap.code ∧ e.code = 0x10 ∧
    e.address = BitVec.ofNat 64 key

/-- An access to an object that Dictionary Map does not list is refused (R10): for a read, a write, a segment read and a segment write,
as items of a request and as the three commands, by every requester. -/
def Obligations.UnlistedObjectIsRefused : Prop :=
  ∀ s : State, s.chip.board.modReady = true → s.chip.flt.entries.length < 1048576 →
    (∀ (rq : Nat) (i : DapItem), rq ≤ 16 → 1 ≤ i.op → i.op ≤ 4 → Obj.lookup i.index i.sub = none →
      RefusedNoObject s.chip rq i.key (s.chip.oneItem rq i)) ∧
    (∀ (rq : Fin 17) (index : BitVec 16) (sub : Byte), Obj.lookup index.toNat sub.toNat = none →
      let key := objKey index.toNat sub.toNat
      (∀ type value, Completes (.registerWrite rq index sub type value) s fun c => RefusedNoObject s.chip rq key c) ∧
      (∀ offset len, Completes (.domainSegmentRead rq index sub offset len) s fun c => RefusedNoObject s.chip rq key c) ∧
      (∀ offset last data,
        Completes (.domainSegmentWrite rq index sub offset last data) s fun c => RefusedNoObject s.chip rq key c))

/-- A write refused as out of range: the answer, an entry with the object's index and subindex, and nothing else. -/
def RefusedOutOfRange (c : Chip) (rq key : Nat) (d : Chip) : Prop :=
  Out.item rq key (BitVec.ofNat 8 0x16) [] ∈ d.out ∧ c.OnlyLogged d ∧
  ∃ e : FaultEntry, e ∈ d.flt.entries ∧ e.seq = c.flt.nextSeq ∧ e.code = 0x16 ∧ e.address = BitVec.ofNat 64 key

/-- POWER_LIMIT outside 600.0 to 1,450.0 W and VCORE_CEILING outside 0.680 to 0.750 V are refused as out of range, with an entry that
carries the object (R28, R51); a VCORE_CEILING within its range is stored, and the next decision of the governor is the one
under it (R51). -/
def Obligations.OutOfRangeLimits : Prop :=
  ∀ (s : State) (rq : Fin 17) (l : Nat), s.chip.board.modReady = true → s.chip.flt.entries.length < 1048576 →
    s.chip.level rq = some l → 2 ≤ l → l ≤ 3 →
    (∀ v : F32, (v.toNat < 0x44160000 ∨ 0x44B54000 < v.toNat) →
      Completes (.powerLimitWrite rq v) s fun c => RefusedOutOfRange s.chip rq (0x2000 * 256 + 4) c) ∧
    (∀ v : F32, (v.toNat < 0x3F2E147B ∨ 0x3F400000 < v.toNat) →
      Completes (.vcoreCeilingWrite rq v) s fun c => RefusedOutOfRange s.chip rq (0x2060 * 256 + 3) c) ∧
    (∀ v : F32, 0x3F2E147B ≤ v.toNat → v.toNat ≤ 0x3F400000 →
      Completes (.vcoreCeilingWrite rq v) s fun c =>
        c.reg (0x2060 * 256 + 3) = v.toNat ∧
        ∀ (u : State) (power tj link : F32), u.chip = c → c.gov.started = true →
          Completes (.governorDecision power tj link) u fun d =>
            d.gov.vWacor = (govern c.gov.vWacor c.gov.pacing c.gov.sinceRaise c.gov.spdRaise c.gov.spdHold
              (ratOf .f32 (c.reg Obj.powerLimitActive)) (ceilingMv v.toNat) (ratOf .f32 power.toNat) (ratOf .f32 tj.toNat)).v)

/-- An error completion on a channel that the step uses sets ABORT_MEM in the module's assay word when its status is READ_NO_DATA, and
ABORT_DMA for every other status (R417). -/
def Obligations.ErrorCompletionAborts : Prop :=
  ∀ (c : Chip) (ch status addr bytes since : Nat), ch < 512 → (c.dmaChan ch).route.isSome = true → c.step.inStep = true →
    c.step.committing = false →
    let d := c.dmaError ch status addr bytes since
    (status = 0x13 → d.step.word = c.step.word ||| 0x20#32) ∧ (status ≠ 0x13 → d.step.word = c.step.word ||| 0x40#32)

/-! ### Upper-level arithmetic (Number Formats and Arithmetic) -/

/-- The code is a NaN of the format. -/
def isNanCode (f : Fmt) (a : Nat) : Bool := (f.decode a).isNan

/-- The code with its quiet bit set. -/
def quieted (f : Fmt) (a : Nat) : Nat := a ||| 2 ^ (f.tbits - 1)

/-- The canonical quiet NaN: 0x7FC0_0000 in binary32, 0x7E00 in binary16, 0x7FC0 in bfloat16. -/
def canonicalNan (f : Fmt) : Nat := if f = .f32 then 0x7FC00000 else if f = .f16 then 0x7E00 else 0x7FC0

/-- The operations of two operands. -/
def binaryOps (f : Fmt) (fast : Bool) (rnd : Rnd) : List (Nat → Nat → Nat × Nat) :=
  [f.add rnd, f.sub rnd, f.mul rnd, f.div fast rnd, f.maxMin true, f.maxMin false]

/-- NaN results of upper-level arithmetic (R79): the first NaN operand in operand order, with its sign and payload and the quiet bit
set; where no operand is a NaN, the canonical quiet NaN. For the sum, difference, product, quotient, maximum and minimum, the
square root and the fused product and sum, in the three IEEE formats. -/
def Obligations.NanResults : Prop :=
  ∀ f ∈ [Fmt.f32, Fmt.f16, Fmt.bf16], ∀ (fast : Bool) (rnd : Rnd) (a b c : Nat),
    a < 2 ^ f.width → b < 2 ^ f.width → c < 2 ^ f.width →
    (∀ op ∈ binaryOps f fast rnd,
      (isNanCode f a = true → (op a b).1 = quieted f a) ∧
      (isNanCode f a = false → isNanCode f b = true → (op a b).1 = quieted f b) ∧
      (isNanCode f a = false → isNanCode f b = false → isNanCode f (op a b).1 = true → (op a b).1 = canonicalNan f)) ∧
    (isNanCode f a = true → (f.sqrt fast rnd a).1 = quieted f a) ∧
    (isNanCode f a = false → isNanCode f (f.sqrt fast rnd a).1 = true → (f.sqrt fast rnd a).1 = canonicalNan f) ∧
    (let r := (f.fma rnd (f.decode a) (f.decode b) (f.decode c)).1
     (isNanCode f a = true → r = quieted f a) ∧
     (isNanCode f a = false → isNanCode f b = true → r = quieted f b) ∧
     (isNanCode f a = false → isNanCode f b = false → isNanCode f c = true → r = quieted f c) ∧
     (isNanCode f a = false → isNanCode f b = false → isNanCode f c = false → isNanCode f r = true → r = canonicalNan f))

/-- Sign bit of a code. -/
def negCode (f : Fmt) (a : Nat) : Bool := bit a (f.width - 1)

/-- Signs of results (R80): the exact zero sum of operands of opposite sign and the difference of equal operands are +0, but −0 under
RDN; the sign of a product or quotient is the exclusive-or of the operands' signs, zeros included. -/
def Obligations.ZeroAndProductSigns : Prop :=
  ∀ f ∈ [Fmt.f32, Fmt.f16, Fmt.bf16], ∀ (fast : Bool) (rnd : Rnd) (a b : Nat), a < 2 ^ f.width → b < 2 ^ f.width →
    ((f.decode a).isFinite = true →
      let z := if rnd = .rdn then 2 ^ (f.width - 1) else 0
      (f.add rnd a (a ^^^ 2 ^ (f.width - 1))).1 = z ∧ (f.sub rnd a a).1 = z) ∧
    (isNanCode f (f.mul rnd a b).1 = false → negCode f (f.mul rnd a b).1 = (negCode f a != negCode f b)) ∧
    (isNanCode f (f.div fast rnd a b).1 = false → negCode f (f.div fast rnd a b).1 = (negCode f a != negCode f b))
end

