-- ==== Sys2Proof/Laws/Sparse.lean ====
section
/-! SUPPORT. Laws/Sparse.lean: a read after a write of a sparse map gives the value written, every other key reads as
before, and every operation keeps the canonical form; the same for the byte memories. -/

namespace Sys2Proof.Machine

variable {α : Type}

/-! ### Reads after writes: they hold of every list -/

theorem Sparse.get_insert (d : α) (m : List (Nat × α)) (k j : Nat) (v : α) :
    Sparse.get d (Sparse.insert m k v) j = if k = j then v else Sparse.get d m j := by
  induction m with
  | nil => rfl
  | cons e r ih =>
    obtain ⟨i, w⟩ := e
    simp only [Sparse.insert]
    split
    · simp only [Sparse.get]
    · split
      · next h => subst h; simp only [Sparse.get]; split <;> rfl
      · next h =>
        simp only [Sparse.get, ih]
        split
        · next h' => subst h'; rw [if_neg (fun x => h x.symm)]
        · rfl

theorem Sparse.get_erase (d : α) (m : List (Nat × α)) (k j : Nat) :
    Sparse.get d (Sparse.erase m k) j = if k = j then d else Sparse.get d m j := by
  induction m with
  | nil => simp [Sparse.erase, Sparse.get]
  | cons e r ih =>
    obtain ⟨i, w⟩ := e
    simp only [Sparse.erase] at ih
    by_cases hk : i = k
    · subst hk
      simp only [Sparse.erase, List.filter_cons, bne_self_eq_false, Bool.false_eq_true, if_false, ih, Sparse.get]
      split <;> rfl
    · have : (i != k) = true := by simp [hk]
      simp only [Sparse.erase, List.filter_cons, this, if_true, Sparse.get, ih]
      split
      · next h => subst h; rw [if_neg (fun x => hk x.symm)]
      · rfl

/-- What a key reads after a write of any key. -/
theorem Sparse.get_put [DecidableEq α] (d : α) (m : List (Nat × α)) (k j : Nat) (v : α) :
    Sparse.get d (Sparse.put d m k v) j = if k = j then v else Sparse.get d m j := by
  simp only [Sparse.put]
  split
  · next h => rw [Sparse.get_erase, h]
  · exact Sparse.get_insert d m k j v

theorem Sparse.get_put_same [DecidableEq α] (d : α) (m : List (Nat × α)) (k : Nat) (v : α) :
    Sparse.get d (Sparse.put d m k v) k = v := by rw [Sparse.get_put, if_pos rfl]

/-- Another key reads as before, whatever each of the two takes for its default. -/
theorem Sparse.get_put_ne [DecidableEq α] (d d' : α) (m : List (Nat × α)) {k j : Nat} (v : α) (h : k ≠ j) :
    Sparse.get d (Sparse.put d' m k v) j = Sparse.get d m j := by
  simp only [Sparse.put]
  split
  · rw [Sparse.get_erase, if_neg h]
  · rw [Sparse.get_insert, if_neg h]

/-! ### The canonical form -/

/-- The canonical form in the terms of the library: no entry at the default, keys strictly rising. -/
theorem Sparse.wf_iff [DecidableEq α] (d : α) (m : List (Nat × α)) :
    Sparse.wf d m = true ↔ (∀ e ∈ m, e.2 ≠ d) ∧ m.Pairwise (fun a b => a.1 < b.1) := by
  induction m with
  | nil => simp [Sparse.wf]
  | cons e r ih =>
    cases r with
    | nil => simp [Sparse.wf]
    | cons f s =>
      simp only [Sparse.wf, Bool.and_eq_true, decide_eq_true_eq, ih, List.forall_mem_cons, List.pairwise_cons]
      constructor
      · rintro ⟨⟨h1, h2⟩, ⟨h3, h4⟩, h5, h6⟩
        exact ⟨⟨h1, h3, h4⟩, ⟨h2, fun a ha => Nat.lt_trans h2 (h5 a ha)⟩, h5, h6⟩
      · rintro ⟨⟨h1, h3, h4⟩, ⟨h2, -⟩, h5, h6⟩
        exact ⟨⟨h1, h2⟩, ⟨h3, h4⟩, h5, h6⟩

/-- Dropping entries keeps the canonical form. -/
theorem Sparse.wf_filter [DecidableEq α] (d : α) (m : List (Nat × α)) (p : Nat × α → Bool) (h : Sparse.wf d m = true) :
    Sparse.wf d (m.filter p) = true := by
  rw [Sparse.wf_iff] at h ⊢
  exact ⟨fun e he => h.1 e (List.mem_filter.1 he).1, h.2.filter p⟩

theorem Sparse.wf_erase [DecidableEq α] (d : α) (m : List (Nat × α)) (k : Nat) (h : Sparse.wf d m = true) :
    Sparse.wf d (Sparse.erase m k) = true := Sparse.wf_filter d m _ h

theorem Sparse.mem_insert {m : List (Nat × α)} {k : Nat} {v : α} {e : Nat × α} (h : e ∈ Sparse.insert m k v) :
    e = (k, v) ∨ e ∈ m := by
  induction m with
  | nil => exact .inl (by simpa [Sparse.insert] using h)
  | cons f r ih =>
    obtain ⟨i, w⟩ := f
    simp only [Sparse.insert] at h
    split at h
    · simpa using h
    · split at h
      · rcases List.mem_cons.1 h with h | h
        · exact .inl h
        · exact .inr (List.mem_cons_of_mem _ h)
      · rcases List.mem_cons.1 h with h | h
        · exact .inr (h ▸ List.mem_cons_self)
        · exact (ih h).imp id (List.mem_cons_of_mem _)

theorem Sparse.wf_insert [DecidableEq α] (d : α) (m : List (Nat × α)) (k : Nat) (v : α) (hv : v ≠ d)
    (h : Sparse.wf d m = true) : Sparse.wf d (Sparse.insert m k v) = true := by
  rw [Sparse.wf_iff] at h ⊢
  refine ⟨fun e he => ?_, ?_⟩
  · rcases Sparse.mem_insert he with rfl | he
    · exact hv
    · exact h.1 e he
  · have h2 := h.2
    clear h
    induction m with
    | nil => simp [Sparse.insert]
    | cons f r ih =>
      obtain ⟨i, w⟩ := f
      rw [List.pairwise_cons] at h2
      simp only [Sparse.insert]
      split
      · next hk =>
        refine List.pairwise_cons.2 ⟨fun a ha => ?_, List.pairwise_cons.2 h2⟩
        rcases List.mem_cons.1 ha with rfl | ha
        · exact hk
        · exact Nat.lt_trans hk (h2.1 a ha)
      · split
        · next hk => exact List.pairwise_cons.2 ⟨fun a ha => hk ▸ h2.1 a ha, h2.2⟩
        · next hl hk =>
          refine List.pairwise_cons.2 ⟨fun a ha => ?_, ih h2.2⟩
          rcases Sparse.mem_insert ha with rfl | ha
          · exact Nat.lt_of_le_of_ne (Nat.not_lt.1 hl) hk
          · exact h2.1 a ha

/-- A write keeps the canonical form. -/
theorem Sparse.wf_put [DecidableEq α] (d : α) (m : List (Nat × α)) (k : Nat) (v : α) (h : Sparse.wf d m = true) :
    Sparse.wf d (Sparse.put d m k v) = true := by
  simp only [Sparse.put]
  split
  · exact Sparse.wf_erase d m k h
  · next hv => exact Sparse.wf_insert d m k v hv h

/-! ### Byte memories -/

theorem Memory.read_write (m : List Host.Cell) (a x : Nat) (b : Byte) :
    Memory.read (Memory.write m a b) x = if a = x then b else Memory.read m x := Sparse.get_put 0#8 m a x b

theorem Memory.write_wf (m : List Host.Cell) (a : Nat) (b : Byte) (h : Memory.wf m = true) :
    Memory.wf (Memory.write m a b) = true := Sparse.wf_put 0#8 m a b h

theorem Memory.writeBytes_wf (m : List Host.Cell) (a : Nat) (bs : Bytes) (h : Memory.wf m = true) :
    Memory.wf (Memory.writeBytes m a bs) = true := by
  induction bs generalizing m a with
  | nil => exact h
  | cons b r ih => exact ih _ _ (Memory.write_wf m a b h)

theorem Memory.clear_wf (m : List Host.Cell) (a b : Nat) (h : Memory.wf m = true) :
    Memory.wf (Memory.clear m a b) = true := Sparse.wf_filter 0#8 m _ h

/-- Cleared bytes read 0, the others as before. -/
theorem Memory.read_clear (m : List Host.Cell) (a b x : Nat) :
    Memory.read (Memory.clear m a b) x = if a ≤ x ∧ x < b then 0#8 else Memory.read m x := by
  simp only [Memory.read, Memory.clear]
  induction m with
  | nil => simp [Sparse.get]
  | cons e r ih =>
    obtain ⟨i, w⟩ := e
    by_cases hi : a ≤ i ∧ i < b
    · simp only [List.filter_cons, hi.1, hi.2, decide_true, Bool.and_self, Bool.not_true, Bool.false_eq_true, if_false, ih,
        Sparse.get]
      split
      · rfl
      · next h => rw [if_neg (show ¬ i = x from fun y => h (by subst y; exact hi))]
    · have : (!(decide (a ≤ i) && decide (i < b))) = true := by
        rw [← Bool.decide_and, decide_eq_false hi]; rfl
      simp only [List.filter_cons, this, if_true, Sparse.get, ih]
      split
      · next h => subst h; rw [if_neg hi]
      · rfl

theorem Memory.readBytes_length (m : List Host.Cell) (a n : Nat) : (Memory.readBytes m a n).length = n := by
  induction n generalizing a with
  | zero => rfl
  | succ n ih => simp [Memory.readBytes, ih]

/-- Two memories that read alike over a range give the same bytes. -/
theorem Memory.readBytes_congr (m m' : List Host.Cell) (a n : Nat)
    (h : ∀ x, a ≤ x → x < a + n → Memory.read m x = Memory.read m' x) : Memory.readBytes m a n = Memory.readBytes m' a n := by
  induction n generalizing a with
  | zero => rfl
  | succ n ih =>
    simp only [Memory.readBytes]
    rw [h a (Nat.le_refl a) (by omega), ih (a + 1) fun x h1 h2 => h x (by omega) (by omega)]

/-- A byte below the bytes written reads as before. -/
theorem Memory.read_writeBytes_below (m : List Host.Cell) (a : Nat) (bs : Bytes) (x : Nat) (h : x < a) :
    Memory.read (Memory.writeBytes m a bs) x = Memory.read m x := by
  induction bs generalizing m a with
  | nil => rfl
  | cons b r ih =>
    simp only [Memory.writeBytes]
    rw [ih _ _ (by omega), Memory.read_write, if_neg (by omega)]

end Sys2Proof.Machine
end

