-- ==== Sys2Proof/Laws/State.lean ====
section
/-! SUPPORT. Laws/State.lean: what each update of one part of the module leaves of the others, and what registers, bytes and
requesters read after a write. All but the reads hold by unfolding, so that no later proof unfolds a record update. -/

namespace Sys2Proof.Machine

/-! ### `Chip.setReg` changes `regs` alone -/

@[simp] theorem Chip.setReg_blobs (c : Chip) (k v : Nat) : (c.setReg k v).blobs = c.blobs := rfl
@[simp] theorem Chip.setReg_board (c : Chip) (k v : Nat) : (c.setReg k v).board = c.board := rfl
@[simp] theorem Chip.setReg_start (c : Chip) (k v : Nat) : (c.setReg k v).start = c.start := rfl
@[simp] theorem Chip.setReg_time (c : Chip) (k v : Nat) : (c.setReg k v).time = c.time := rfl
@[simp] theorem Chip.setReg_gov (c : Chip) (k v : Nat) : (c.setReg k v).gov = c.gov := rfl
@[simp] theorem Chip.setReg_array (c : Chip) (k v : Nat) : (c.setReg k v).array = c.array := rfl
@[simp] theorem Chip.setReg_mem (c : Chip) (k v : Nat) : (c.setReg k v).mem = c.mem := rfl
@[simp] theorem Chip.setReg_step (c : Chip) (k v : Nat) : (c.setReg k v).step = c.step := rfl
@[simp] theorem Chip.setReg_upd (c : Chip) (k v : Nat) : (c.setReg k v).upd = c.upd := rfl
@[simp] theorem Chip.setReg_sil (c : Chip) (k v : Nat) : (c.setReg k v).sil = c.sil := rfl
@[simp] theorem Chip.setReg_map (c : Chip) (k v : Nat) : (c.setReg k v).map = c.map := rfl
@[simp] theorem Chip.setReg_bz (c : Chip) (k v : Nat) : (c.setReg k v).bz = c.bz := rfl
@[simp] theorem Chip.setReg_rnd (c : Chip) (k v : Nat) : (c.setReg k v).rnd = c.rnd := rfl
@[simp] theorem Chip.setReg_slk (c : Chip) (k v : Nat) : (c.setReg k v).slk = c.slk := rfl
@[simp] theorem Chip.setReg_cipher (c : Chip) (k v : Nat) : (c.setReg k v).cipher = c.cipher := rfl
@[simp] theorem Chip.setReg_dma (c : Chip) (k v : Nat) : (c.setReg k v).dma = c.dma := rfl
@[simp] theorem Chip.setReg_linkMem (c : Chip) (k v : Nat) : (c.setReg k v).linkMem = c.linkMem := rfl
@[simp] theorem Chip.setReg_dap (c : Chip) (k v : Nat) : (c.setReg k v).dap = c.dap := rfl
@[simp] theorem Chip.setReg_flt (c : Chip) (k v : Nat) : (c.setReg k v).flt = c.flt := rfl
@[simp] theorem Chip.setReg_emmc (c : Chip) (k v : Nat) : (c.setReg k v).emmc = c.emmc := rfl
@[simp] theorem Chip.setReg_ident (c : Chip) (k v : Nat) : (c.setReg k v).ident = c.ident := rfl
@[simp] theorem Chip.setReg_svc (c : Chip) (k v : Nat) : (c.setReg k v).svc = c.svc := rfl
@[simp] theorem Chip.setReg_out (c : Chip) (k v : Nat) : (c.setReg k v).out = c.out := rfl
@[simp] theorem Chip.setReg_free (c : Chip) (k v : Nat) : (c.setReg k v).free = c.free := rfl

/-! ### `Chip.count` changes `regs` alone -/

@[simp] theorem Chip.count_blobs (c : Chip) (k n w : Nat) : (c.count k n w).blobs = c.blobs := rfl
@[simp] theorem Chip.count_board (c : Chip) (k n w : Nat) : (c.count k n w).board = c.board := rfl
@[simp] theorem Chip.count_start (c : Chip) (k n w : Nat) : (c.count k n w).start = c.start := rfl
@[simp] theorem Chip.count_time (c : Chip) (k n w : Nat) : (c.count k n w).time = c.time := rfl
@[simp] theorem Chip.count_gov (c : Chip) (k n w : Nat) : (c.count k n w).gov = c.gov := rfl
@[simp] theorem Chip.count_array (c : Chip) (k n w : Nat) : (c.count k n w).array = c.array := rfl
@[simp] theorem Chip.count_mem (c : Chip) (k n w : Nat) : (c.count k n w).mem = c.mem := rfl
@[simp] theorem Chip.count_step (c : Chip) (k n w : Nat) : (c.count k n w).step = c.step := rfl
@[simp] theorem Chip.count_upd (c : Chip) (k n w : Nat) : (c.count k n w).upd = c.upd := rfl
@[simp] theorem Chip.count_sil (c : Chip) (k n w : Nat) : (c.count k n w).sil = c.sil := rfl
@[simp] theorem Chip.count_map (c : Chip) (k n w : Nat) : (c.count k n w).map = c.map := rfl
@[simp] theorem Chip.count_bz (c : Chip) (k n w : Nat) : (c.count k n w).bz = c.bz := rfl
@[simp] theorem Chip.count_rnd (c : Chip) (k n w : Nat) : (c.count k n w).rnd = c.rnd := rfl
@[simp] theorem Chip.count_slk (c : Chip) (k n w : Nat) : (c.count k n w).slk = c.slk := rfl
@[simp] theorem Chip.count_cipher (c : Chip) (k n w : Nat) : (c.count k n w).cipher = c.cipher := rfl
@[simp] theorem Chip.count_dma (c : Chip) (k n w : Nat) : (c.count k n w).dma = c.dma := rfl
@[simp] theorem Chip.count_linkMem (c : Chip) (k n w : Nat) : (c.count k n w).linkMem = c.linkMem := rfl
@[simp] theorem Chip.count_dap (c : Chip) (k n w : Nat) : (c.count k n w).dap = c.dap := rfl
@[simp] theorem Chip.count_flt (c : Chip) (k n w : Nat) : (c.count k n w).flt = c.flt := rfl
@[simp] theorem Chip.count_emmc (c : Chip) (k n w : Nat) : (c.count k n w).emmc = c.emmc := rfl
@[simp] theorem Chip.count_ident (c : Chip) (k n w : Nat) : (c.count k n w).ident = c.ident := rfl
@[simp] theorem Chip.count_svc (c : Chip) (k n w : Nat) : (c.count k n w).svc = c.svc := rfl
@[simp] theorem Chip.count_out (c : Chip) (k n w : Nat) : (c.count k n w).out = c.out := rfl
@[simp] theorem Chip.count_free (c : Chip) (k n w : Nat) : (c.count k n w).free = c.free := rfl

/-! ### `Chip.setBlob` changes `blobs` alone -/

@[simp] theorem Chip.setBlob_regs (c : Chip) (k : Nat) (b : Bytes) : (c.setBlob k b).regs = c.regs := rfl
@[simp] theorem Chip.setBlob_board (c : Chip) (k : Nat) (b : Bytes) : (c.setBlob k b).board = c.board := rfl
@[simp] theorem Chip.setBlob_start (c : Chip) (k : Nat) (b : Bytes) : (c.setBlob k b).start = c.start := rfl
@[simp] theorem Chip.setBlob_time (c : Chip) (k : Nat) (b : Bytes) : (c.setBlob k b).time = c.time := rfl
@[simp] theorem Chip.setBlob_gov (c : Chip) (k : Nat) (b : Bytes) : (c.setBlob k b).gov = c.gov := rfl
@[simp] theorem Chip.setBlob_array (c : Chip) (k : Nat) (b : Bytes) : (c.setBlob k b).array = c.array := rfl
@[simp] theorem Chip.setBlob_mem (c : Chip) (k : Nat) (b : Bytes) : (c.setBlob k b).mem = c.mem := rfl
@[simp] theorem Chip.setBlob_step (c : Chip) (k : Nat) (b : Bytes) : (c.setBlob k b).step = c.step := rfl
@[simp] theorem Chip.setBlob_upd (c : Chip) (k : Nat) (b : Bytes) : (c.setBlob k b).upd = c.upd := rfl
@[simp] theorem Chip.setBlob_sil (c : Chip) (k : Nat) (b : Bytes) : (c.setBlob k b).sil = c.sil := rfl
@[simp] theorem Chip.setBlob_map (c : Chip) (k : Nat) (b : Bytes) : (c.setBlob k b).map = c.map := rfl
@[simp] theorem Chip.setBlob_bz (c : Chip) (k : Nat) (b : Bytes) : (c.setBlob k b).bz = c.bz := rfl
@[simp] theorem Chip.setBlob_rnd (c : Chip) (k : Nat) (b : Bytes) : (c.setBlob k b).rnd = c.rnd := rfl
@[simp] theorem Chip.setBlob_slk (c : Chip) (k : Nat) (b : Bytes) : (c.setBlob k b).slk = c.slk := rfl
@[simp] theorem Chip.setBlob_cipher (c : Chip) (k : Nat) (b : Bytes) : (c.setBlob k b).cipher = c.cipher := rfl
@[simp] theorem Chip.setBlob_dma (c : Chip) (k : Nat) (b : Bytes) : (c.setBlob k b).dma = c.dma := rfl
@[simp] theorem Chip.setBlob_linkMem (c : Chip) (k : Nat) (b : Bytes) : (c.setBlob k b).linkMem = c.linkMem := rfl
@[simp] theorem Chip.setBlob_dap (c : Chip) (k : Nat) (b : Bytes) : (c.setBlob k b).dap = c.dap := rfl
@[simp] theorem Chip.setBlob_flt (c : Chip) (k : Nat) (b : Bytes) : (c.setBlob k b).flt = c.flt := rfl
@[simp] theorem Chip.setBlob_emmc (c : Chip) (k : Nat) (b : Bytes) : (c.setBlob k b).emmc = c.emmc := rfl
@[simp] theorem Chip.setBlob_ident (c : Chip) (k : Nat) (b : Bytes) : (c.setBlob k b).ident = c.ident := rfl
@[simp] theorem Chip.setBlob_svc (c : Chip) (k : Nat) (b : Bytes) : (c.setBlob k b).svc = c.svc := rfl
@[simp] theorem Chip.setBlob_out (c : Chip) (k : Nat) (b : Bytes) : (c.setBlob k b).out = c.out := rfl
@[simp] theorem Chip.setBlob_free (c : Chip) (k : Nat) (b : Bytes) : (c.setBlob k b).free = c.free := rfl

/-! ### `Chip.dropRegs` changes `regs` alone -/

@[simp] theorem Chip.dropRegs_blobs (c : Chip) (p : Nat → Bool) : (c.dropRegs p).blobs = c.blobs := rfl
@[simp] theorem Chip.dropRegs_board (c : Chip) (p : Nat → Bool) : (c.dropRegs p).board = c.board := rfl
@[simp] theorem Chip.dropRegs_start (c : Chip) (p : Nat → Bool) : (c.dropRegs p).start = c.start := rfl
@[simp] theorem Chip.dropRegs_time (c : Chip) (p : Nat → Bool) : (c.dropRegs p).time = c.time := rfl
@[simp] theorem Chip.dropRegs_gov (c : Chip) (p : Nat → Bool) : (c.dropRegs p).gov = c.gov := rfl
@[simp] theorem Chip.dropRegs_array (c : Chip) (p : Nat → Bool) : (c.dropRegs p).array = c.array := rfl
@[simp] theorem Chip.dropRegs_mem (c : Chip) (p : Nat → Bool) : (c.dropRegs p).mem = c.mem := rfl
@[simp] theorem Chip.dropRegs_step (c : Chip) (p : Nat → Bool) : (c.dropRegs p).step = c.step := rfl
@[simp] theorem Chip.dropRegs_upd (c : Chip) (p : Nat → Bool) : (c.dropRegs p).upd = c.upd := rfl
@[simp] theorem Chip.dropRegs_sil (c : Chip) (p : Nat → Bool) : (c.dropRegs p).sil = c.sil := rfl
@[simp] theorem Chip.dropRegs_map (c : Chip) (p : Nat → Bool) : (c.dropRegs p).map = c.map := rfl
@[simp] theorem Chip.dropRegs_bz (c : Chip) (p : Nat → Bool) : (c.dropRegs p).bz = c.bz := rfl
@[simp] theorem Chip.dropRegs_rnd (c : Chip) (p : Nat → Bool) : (c.dropRegs p).rnd = c.rnd := rfl
@[simp] theorem Chip.dropRegs_slk (c : Chip) (p : Nat → Bool) : (c.dropRegs p).slk = c.slk := rfl
@[simp] theorem Chip.dropRegs_cipher (c : Chip) (p : Nat → Bool) : (c.dropRegs p).cipher = c.cipher := rfl
@[simp] theorem Chip.dropRegs_dma (c : Chip) (p : Nat → Bool) : (c.dropRegs p).dma = c.dma := rfl
@[simp] theorem Chip.dropRegs_linkMem (c : Chip) (p : Nat → Bool) : (c.dropRegs p).linkMem = c.linkMem := rfl
@[simp] theorem Chip.dropRegs_dap (c : Chip) (p : Nat → Bool) : (c.dropRegs p).dap = c.dap := rfl
@[simp] theorem Chip.dropRegs_flt (c : Chip) (p : Nat → Bool) : (c.dropRegs p).flt = c.flt := rfl
@[simp] theorem Chip.dropRegs_emmc (c : Chip) (p : Nat → Bool) : (c.dropRegs p).emmc = c.emmc := rfl
@[simp] theorem Chip.dropRegs_ident (c : Chip) (p : Nat → Bool) : (c.dropRegs p).ident = c.ident := rfl
@[simp] theorem Chip.dropRegs_svc (c : Chip) (p : Nat → Bool) : (c.dropRegs p).svc = c.svc := rfl
@[simp] theorem Chip.dropRegs_out (c : Chip) (p : Nat → Bool) : (c.dropRegs p).out = c.out := rfl
@[simp] theorem Chip.dropRegs_free (c : Chip) (p : Nat → Bool) : (c.dropRegs p).free = c.free := rfl

/-! ### `Chip.dropBlobs` changes `blobs` alone -/

@[simp] theorem Chip.dropBlobs_regs (c : Chip) (p : Nat → Bool) : (c.dropBlobs p).regs = c.regs := rfl
@[simp] theorem Chip.dropBlobs_board (c : Chip) (p : Nat → Bool) : (c.dropBlobs p).board = c.board := rfl
@[simp] theorem Chip.dropBlobs_start (c : Chip) (p : Nat → Bool) : (c.dropBlobs p).start = c.start := rfl
@[simp] theorem Chip.dropBlobs_time (c : Chip) (p : Nat → Bool) : (c.dropBlobs p).time = c.time := rfl
@[simp] theorem Chip.dropBlobs_gov (c : Chip) (p : Nat → Bool) : (c.dropBlobs p).gov = c.gov := rfl
@[simp] theorem Chip.dropBlobs_array (c : Chip) (p : Nat → Bool) : (c.dropBlobs p).array = c.array := rfl
@[simp] theorem Chip.dropBlobs_mem (c : Chip) (p : Nat → Bool) : (c.dropBlobs p).mem = c.mem := rfl
@[simp] theorem Chip.dropBlobs_step (c : Chip) (p : Nat → Bool) : (c.dropBlobs p).step = c.step := rfl
@[simp] theorem Chip.dropBlobs_upd (c : Chip) (p : Nat → Bool) : (c.dropBlobs p).upd = c.upd := rfl
@[simp] theorem Chip.dropBlobs_sil (c : Chip) (p : Nat → Bool) : (c.dropBlobs p).sil = c.sil := rfl
@[simp] theorem Chip.dropBlobs_map (c : Chip) (p : Nat → Bool) : (c.dropBlobs p).map = c.map := rfl
@[simp] theorem Chip.dropBlobs_bz (c : Chip) (p : Nat → Bool) : (c.dropBlobs p).bz = c.bz := rfl
@[simp] theorem Chip.dropBlobs_rnd (c : Chip) (p : Nat → Bool) : (c.dropBlobs p).rnd = c.rnd := rfl
@[simp] theorem Chip.dropBlobs_slk (c : Chip) (p : Nat → Bool) : (c.dropBlobs p).slk = c.slk := rfl
@[simp] theorem Chip.dropBlobs_cipher (c : Chip) (p : Nat → Bool) : (c.dropBlobs p).cipher = c.cipher := rfl
@[simp] theorem Chip.dropBlobs_dma (c : Chip) (p : Nat → Bool) : (c.dropBlobs p).dma = c.dma := rfl
@[simp] theorem Chip.dropBlobs_linkMem (c : Chip) (p : Nat → Bool) : (c.dropBlobs p).linkMem = c.linkMem := rfl
@[simp] theorem Chip.dropBlobs_dap (c : Chip) (p : Nat → Bool) : (c.dropBlobs p).dap = c.dap := rfl
@[simp] theorem Chip.dropBlobs_flt (c : Chip) (p : Nat → Bool) : (c.dropBlobs p).flt = c.flt := rfl
@[simp] theorem Chip.dropBlobs_emmc (c : Chip) (p : Nat → Bool) : (c.dropBlobs p).emmc = c.emmc := rfl
@[simp] theorem Chip.dropBlobs_ident (c : Chip) (p : Nat → Bool) : (c.dropBlobs p).ident = c.ident := rfl
@[simp] theorem Chip.dropBlobs_svc (c : Chip) (p : Nat → Bool) : (c.dropBlobs p).svc = c.svc := rfl
@[simp] theorem Chip.dropBlobs_out (c : Chip) (p : Nat → Bool) : (c.dropBlobs p).out = c.out := rfl
@[simp] theorem Chip.dropBlobs_free (c : Chip) (p : Nat → Bool) : (c.dropBlobs p).free = c.free := rfl

/-! ### `Chip.emit` changes `out` alone -/

@[simp] theorem Chip.emit_regs (c : Chip) (o : Out) : (c.emit o).regs = c.regs := rfl
@[simp] theorem Chip.emit_blobs (c : Chip) (o : Out) : (c.emit o).blobs = c.blobs := rfl
@[simp] theorem Chip.emit_board (c : Chip) (o : Out) : (c.emit o).board = c.board := rfl
@[simp] theorem Chip.emit_start (c : Chip) (o : Out) : (c.emit o).start = c.start := rfl
@[simp] theorem Chip.emit_time (c : Chip) (o : Out) : (c.emit o).time = c.time := rfl
@[simp] theorem Chip.emit_gov (c : Chip) (o : Out) : (c.emit o).gov = c.gov := rfl
@[simp] theorem Chip.emit_array (c : Chip) (o : Out) : (c.emit o).array = c.array := rfl
@[simp] theorem Chip.emit_mem (c : Chip) (o : Out) : (c.emit o).mem = c.mem := rfl
@[simp] theorem Chip.emit_step (c : Chip) (o : Out) : (c.emit o).step = c.step := rfl
@[simp] theorem Chip.emit_upd (c : Chip) (o : Out) : (c.emit o).upd = c.upd := rfl
@[simp] theorem Chip.emit_sil (c : Chip) (o : Out) : (c.emit o).sil = c.sil := rfl
@[simp] theorem Chip.emit_map (c : Chip) (o : Out) : (c.emit o).map = c.map := rfl
@[simp] theorem Chip.emit_bz (c : Chip) (o : Out) : (c.emit o).bz = c.bz := rfl
@[simp] theorem Chip.emit_rnd (c : Chip) (o : Out) : (c.emit o).rnd = c.rnd := rfl
@[simp] theorem Chip.emit_slk (c : Chip) (o : Out) : (c.emit o).slk = c.slk := rfl
@[simp] theorem Chip.emit_cipher (c : Chip) (o : Out) : (c.emit o).cipher = c.cipher := rfl
@[simp] theorem Chip.emit_dma (c : Chip) (o : Out) : (c.emit o).dma = c.dma := rfl
@[simp] theorem Chip.emit_linkMem (c : Chip) (o : Out) : (c.emit o).linkMem = c.linkMem := rfl
@[simp] theorem Chip.emit_dap (c : Chip) (o : Out) : (c.emit o).dap = c.dap := rfl
@[simp] theorem Chip.emit_flt (c : Chip) (o : Out) : (c.emit o).flt = c.flt := rfl
@[simp] theorem Chip.emit_emmc (c : Chip) (o : Out) : (c.emit o).emmc = c.emmc := rfl
@[simp] theorem Chip.emit_ident (c : Chip) (o : Out) : (c.emit o).ident = c.ident := rfl
@[simp] theorem Chip.emit_svc (c : Chip) (o : Out) : (c.emit o).svc = c.svc := rfl
@[simp] theorem Chip.emit_free (c : Chip) (o : Out) : (c.emit o).free = c.free := rfl

/-! ### `Chip.setReq` changes `dap` alone -/

@[simp] theorem Chip.setReq_regs (c : Chip) (n : Nat) (r : ReqState) : (c.setReq n r).regs = c.regs := rfl
@[simp] theorem Chip.setReq_blobs (c : Chip) (n : Nat) (r : ReqState) : (c.setReq n r).blobs = c.blobs := rfl
@[simp] theorem Chip.setReq_board (c : Chip) (n : Nat) (r : ReqState) : (c.setReq n r).board = c.board := rfl
@[simp] theorem Chip.setReq_start (c : Chip) (n : Nat) (r : ReqState) : (c.setReq n r).start = c.start := rfl
@[simp] theorem Chip.setReq_time (c : Chip) (n : Nat) (r : ReqState) : (c.setReq n r).time = c.time := rfl
@[simp] theorem Chip.setReq_gov (c : Chip) (n : Nat) (r : ReqState) : (c.setReq n r).gov = c.gov := rfl
@[simp] theorem Chip.setReq_array (c : Chip) (n : Nat) (r : ReqState) : (c.setReq n r).array = c.array := rfl
@[simp] theorem Chip.setReq_mem (c : Chip) (n : Nat) (r : ReqState) : (c.setReq n r).mem = c.mem := rfl
@[simp] theorem Chip.setReq_step (c : Chip) (n : Nat) (r : ReqState) : (c.setReq n r).step = c.step := rfl
@[simp] theorem Chip.setReq_upd (c : Chip) (n : Nat) (r : ReqState) : (c.setReq n r).upd = c.upd := rfl
@[simp] theorem Chip.setReq_sil (c : Chip) (n : Nat) (r : ReqState) : (c.setReq n r).sil = c.sil := rfl
@[simp] theorem Chip.setReq_map (c : Chip) (n : Nat) (r : ReqState) : (c.setReq n r).map = c.map := rfl
@[simp] theorem Chip.setReq_bz (c : Chip) (n : Nat) (r : ReqState) : (c.setReq n r).bz = c.bz := rfl
@[simp] theorem Chip.setReq_rnd (c : Chip) (n : Nat) (r : ReqState) : (c.setReq n r).rnd = c.rnd := rfl
@[simp] theorem Chip.setReq_slk (c : Chip) (n : Nat) (r : ReqState) : (c.setReq n r).slk = c.slk := rfl
@[simp] theorem Chip.setReq_cipher (c : Chip) (n : Nat) (r : ReqState) : (c.setReq n r).cipher = c.cipher := rfl
@[simp] theorem Chip.setReq_dma (c : Chip) (n : Nat) (r : ReqState) : (c.setReq n r).dma = c.dma := rfl
@[simp] theorem Chip.setReq_linkMem (c : Chip) (n : Nat) (r : ReqState) : (c.setReq n r).linkMem = c.linkMem := rfl
@[simp] theorem Chip.setReq_flt (c : Chip) (n : Nat) (r : ReqState) : (c.setReq n r).flt = c.flt := rfl
@[simp] theorem Chip.setReq_emmc (c : Chip) (n : Nat) (r : ReqState) : (c.setReq n r).emmc = c.emmc := rfl
@[simp] theorem Chip.setReq_ident (c : Chip) (n : Nat) (r : ReqState) : (c.setReq n r).ident = c.ident := rfl
@[simp] theorem Chip.setReq_svc (c : Chip) (n : Nat) (r : ReqState) : (c.setReq n r).svc = c.svc := rfl
@[simp] theorem Chip.setReq_out (c : Chip) (n : Nat) (r : ReqState) : (c.setReq n r).out = c.out := rfl
@[simp] theorem Chip.setReq_free (c : Chip) (n : Nat) (r : ReqState) : (c.setReq n r).free = c.free := rfl

/-! ### `Chip.setDma` changes `dma` alone -/

@[simp] theorem Chip.setDma_regs (c : Chip) (n : Nat) (x : DmaChannel) : (c.setDma n x).regs = c.regs := rfl
@[simp] theorem Chip.setDma_blobs (c : Chip) (n : Nat) (x : DmaChannel) : (c.setDma n x).blobs = c.blobs := rfl
@[simp] theorem Chip.setDma_board (c : Chip) (n : Nat) (x : DmaChannel) : (c.setDma n x).board = c.board := rfl
@[simp] theorem Chip.setDma_start (c : Chip) (n : Nat) (x : DmaChannel) : (c.setDma n x).start = c.start := rfl
@[simp] theorem Chip.setDma_time (c : Chip) (n : Nat) (x : DmaChannel) : (c.setDma n x).time = c.time := rfl
@[simp] theorem Chip.setDma_gov (c : Chip) (n : Nat) (x : DmaChannel) : (c.setDma n x).gov = c.gov := rfl
@[simp] theorem Chip.setDma_array (c : Chip) (n : Nat) (x : DmaChannel) : (c.setDma n x).array = c.array := rfl
@[simp] theorem Chip.setDma_mem (c : Chip) (n : Nat) (x : DmaChannel) : (c.setDma n x).mem = c.mem := rfl
@[simp] theorem Chip.setDma_step (c : Chip) (n : Nat) (x : DmaChannel) : (c.setDma n x).step = c.step := rfl
@[simp] theorem Chip.setDma_upd (c : Chip) (n : Nat) (x : DmaChannel) : (c.setDma n x).upd = c.upd := rfl
@[simp] theorem Chip.setDma_sil (c : Chip) (n : Nat) (x : DmaChannel) : (c.setDma n x).sil = c.sil := rfl
@[simp] theorem Chip.setDma_map (c : Chip) (n : Nat) (x : DmaChannel) : (c.setDma n x).map = c.map := rfl
@[simp] theorem Chip.setDma_bz (c : Chip) (n : Nat) (x : DmaChannel) : (c.setDma n x).bz = c.bz := rfl
@[simp] theorem Chip.setDma_rnd (c : Chip) (n : Nat) (x : DmaChannel) : (c.setDma n x).rnd = c.rnd := rfl
@[simp] theorem Chip.setDma_slk (c : Chip) (n : Nat) (x : DmaChannel) : (c.setDma n x).slk = c.slk := rfl
@[simp] theorem Chip.setDma_cipher (c : Chip) (n : Nat) (x : DmaChannel) : (c.setDma n x).cipher = c.cipher := rfl
@[simp] theorem Chip.setDma_linkMem (c : Chip) (n : Nat) (x : DmaChannel) : (c.setDma n x).linkMem = c.linkMem := rfl
@[simp] theorem Chip.setDma_dap (c : Chip) (n : Nat) (x : DmaChannel) : (c.setDma n x).dap = c.dap := rfl
@[simp] theorem Chip.setDma_flt (c : Chip) (n : Nat) (x : DmaChannel) : (c.setDma n x).flt = c.flt := rfl
@[simp] theorem Chip.setDma_emmc (c : Chip) (n : Nat) (x : DmaChannel) : (c.setDma n x).emmc = c.emmc := rfl
@[simp] theorem Chip.setDma_ident (c : Chip) (n : Nat) (x : DmaChannel) : (c.setDma n x).ident = c.ident := rfl
@[simp] theorem Chip.setDma_svc (c : Chip) (n : Nat) (x : DmaChannel) : (c.setDma n x).svc = c.svc := rfl
@[simp] theorem Chip.setDma_out (c : Chip) (n : Nat) (x : DmaChannel) : (c.setDma n x).out = c.out := rfl
@[simp] theorem Chip.setDma_free (c : Chip) (n : Nat) (x : DmaChannel) : (c.setDma n x).free = c.free := rfl

/-! ### `Chip.setTile` changes `array` alone -/

@[simp] theorem Chip.setTile_regs (c : Chip) (t : Nat) (x : Tile) : (c.setTile t x).regs = c.regs := rfl
@[simp] theorem Chip.setTile_blobs (c : Chip) (t : Nat) (x : Tile) : (c.setTile t x).blobs = c.blobs := rfl
@[simp] theorem Chip.setTile_board (c : Chip) (t : Nat) (x : Tile) : (c.setTile t x).board = c.board := rfl
@[simp] theorem Chip.setTile_start (c : Chip) (t : Nat) (x : Tile) : (c.setTile t x).start = c.start := rfl
@[simp] theorem Chip.setTile_time (c : Chip) (t : Nat) (x : Tile) : (c.setTile t x).time = c.time := rfl
@[simp] theorem Chip.setTile_gov (c : Chip) (t : Nat) (x : Tile) : (c.setTile t x).gov = c.gov := rfl
@[simp] theorem Chip.setTile_mem (c : Chip) (t : Nat) (x : Tile) : (c.setTile t x).mem = c.mem := rfl
@[simp] theorem Chip.setTile_step (c : Chip) (t : Nat) (x : Tile) : (c.setTile t x).step = c.step := rfl
@[simp] theorem Chip.setTile_upd (c : Chip) (t : Nat) (x : Tile) : (c.setTile t x).upd = c.upd := rfl
@[simp] theorem Chip.setTile_sil (c : Chip) (t : Nat) (x : Tile) : (c.setTile t x).sil = c.sil := rfl
@[simp] theorem Chip.setTile_map (c : Chip) (t : Nat) (x : Tile) : (c.setTile t x).map = c.map := rfl
@[simp] theorem Chip.setTile_bz (c : Chip) (t : Nat) (x : Tile) : (c.setTile t x).bz = c.bz := rfl
@[simp] theorem Chip.setTile_rnd (c : Chip) (t : Nat) (x : Tile) : (c.setTile t x).rnd = c.rnd := rfl
@[simp] theorem Chip.setTile_slk (c : Chip) (t : Nat) (x : Tile) : (c.setTile t x).slk = c.slk := rfl
@[simp] theorem Chip.setTile_cipher (c : Chip) (t : Nat) (x : Tile) : (c.setTile t x).cipher = c.cipher := rfl
@[simp] theorem Chip.setTile_dma (c : Chip) (t : Nat) (x : Tile) : (c.setTile t x).dma = c.dma := rfl
@[simp] theorem Chip.setTile_linkMem (c : Chip) (t : Nat) (x : Tile) : (c.setTile t x).linkMem = c.linkMem := rfl
@[simp] theorem Chip.setTile_dap (c : Chip) (t : Nat) (x : Tile) : (c.setTile t x).dap = c.dap := rfl
@[simp] theorem Chip.setTile_flt (c : Chip) (t : Nat) (x : Tile) : (c.setTile t x).flt = c.flt := rfl
@[simp] theorem Chip.setTile_emmc (c : Chip) (t : Nat) (x : Tile) : (c.setTile t x).emmc = c.emmc := rfl
@[simp] theorem Chip.setTile_ident (c : Chip) (t : Nat) (x : Tile) : (c.setTile t x).ident = c.ident := rfl
@[simp] theorem Chip.setTile_svc (c : Chip) (t : Nat) (x : Tile) : (c.setTile t x).svc = c.svc := rfl
@[simp] theorem Chip.setTile_out (c : Chip) (t : Nat) (x : Tile) : (c.setTile t x).out = c.out := rfl
@[simp] theorem Chip.setTile_free (c : Chip) (t : Nat) (x : Tile) : (c.setTile t x).free = c.free := rfl

/-! ### `Chip.setSlot` changes `cipher` alone -/

@[simp] theorem Chip.setSlot_regs (c : Chip) (n : Nat) (k : KeySlot) : (c.setSlot n k).regs = c.regs := rfl
@[simp] theorem Chip.setSlot_blobs (c : Chip) (n : Nat) (k : KeySlot) : (c.setSlot n k).blobs = c.blobs := rfl
@[simp] theorem Chip.setSlot_board (c : Chip) (n : Nat) (k : KeySlot) : (c.setSlot n k).board = c.board := rfl
@[simp] theorem Chip.setSlot_start (c : Chip) (n : Nat) (k : KeySlot) : (c.setSlot n k).start = c.start := rfl
@[simp] theorem Chip.setSlot_time (c : Chip) (n : Nat) (k : KeySlot) : (c.setSlot n k).time = c.time := rfl
@[simp] theorem Chip.setSlot_gov (c : Chip) (n : Nat) (k : KeySlot) : (c.setSlot n k).gov = c.gov := rfl
@[simp] theorem Chip.setSlot_array (c : Chip) (n : Nat) (k : KeySlot) : (c.setSlot n k).array = c.array := rfl
@[simp] theorem Chip.setSlot_mem (c : Chip) (n : Nat) (k : KeySlot) : (c.setSlot n k).mem = c.mem := rfl
@[simp] theorem Chip.setSlot_step (c : Chip) (n : Nat) (k : KeySlot) : (c.setSlot n k).step = c.step := rfl
@[simp] theorem Chip.setSlot_upd (c : Chip) (n : Nat) (k : KeySlot) : (c.setSlot n k).upd = c.upd := rfl
@[simp] theorem Chip.setSlot_sil (c : Chip) (n : Nat) (k : KeySlot) : (c.setSlot n k).sil = c.sil := rfl
@[simp] theorem Chip.setSlot_map (c : Chip) (n : Nat) (k : KeySlot) : (c.setSlot n k).map = c.map := rfl
@[simp] theorem Chip.setSlot_bz (c : Chip) (n : Nat) (k : KeySlot) : (c.setSlot n k).bz = c.bz := rfl
@[simp] theorem Chip.setSlot_rnd (c : Chip) (n : Nat) (k : KeySlot) : (c.setSlot n k).rnd = c.rnd := rfl
@[simp] theorem Chip.setSlot_slk (c : Chip) (n : Nat) (k : KeySlot) : (c.setSlot n k).slk = c.slk := rfl
@[simp] theorem Chip.setSlot_dma (c : Chip) (n : Nat) (k : KeySlot) : (c.setSlot n k).dma = c.dma := rfl
@[simp] theorem Chip.setSlot_linkMem (c : Chip) (n : Nat) (k : KeySlot) : (c.setSlot n k).linkMem = c.linkMem := rfl
@[simp] theorem Chip.setSlot_dap (c : Chip) (n : Nat) (k : KeySlot) : (c.setSlot n k).dap = c.dap := rfl
@[simp] theorem Chip.setSlot_flt (c : Chip) (n : Nat) (k : KeySlot) : (c.setSlot n k).flt = c.flt := rfl
@[simp] theorem Chip.setSlot_emmc (c : Chip) (n : Nat) (k : KeySlot) : (c.setSlot n k).emmc = c.emmc := rfl
@[simp] theorem Chip.setSlot_ident (c : Chip) (n : Nat) (k : KeySlot) : (c.setSlot n k).ident = c.ident := rfl
@[simp] theorem Chip.setSlot_svc (c : Chip) (n : Nat) (k : KeySlot) : (c.setSlot n k).svc = c.svc := rfl
@[simp] theorem Chip.setSlot_out (c : Chip) (n : Nat) (k : KeySlot) : (c.setSlot n k).out = c.out := rfl
@[simp] theorem Chip.setSlot_free (c : Chip) (n : Nat) (k : KeySlot) : (c.setSlot n k).free = c.free := rfl

/-! ### `Chip.setSession` changes `slk` alone -/

@[simp] theorem Chip.setSession_regs (c : Chip) (p : Nat) (s : SlkSession) : (c.setSession p s).regs = c.regs := rfl
@[simp] theorem Chip.setSession_blobs (c : Chip) (p : Nat) (s : SlkSession) : (c.setSession p s).blobs = c.blobs := rfl
@[simp] theorem Chip.setSession_board (c : Chip) (p : Nat) (s : SlkSession) : (c.setSession p s).board = c.board := rfl
@[simp] theorem Chip.setSession_start (c : Chip) (p : Nat) (s : SlkSession) : (c.setSession p s).start = c.start := rfl
@[simp] theorem Chip.setSession_time (c : Chip) (p : Nat) (s : SlkSession) : (c.setSession p s).time = c.time := rfl
@[simp] theorem Chip.setSession_gov (c : Chip) (p : Nat) (s : SlkSession) : (c.setSession p s).gov = c.gov := rfl
@[simp] theorem Chip.setSession_array (c : Chip) (p : Nat) (s : SlkSession) : (c.setSession p s).array = c.array := rfl
@[simp] theorem Chip.setSession_mem (c : Chip) (p : Nat) (s : SlkSession) : (c.setSession p s).mem = c.mem := rfl
@[simp] theorem Chip.setSession_step (c : Chip) (p : Nat) (s : SlkSession) : (c.setSession p s).step = c.step := rfl
@[simp] theorem Chip.setSession_upd (c : Chip) (p : Nat) (s : SlkSession) : (c.setSession p s).upd = c.upd := rfl
@[simp] theorem Chip.setSession_sil (c : Chip) (p : Nat) (s : SlkSession) : (c.setSession p s).sil = c.sil := rfl
@[simp] theorem Chip.setSession_map (c : Chip) (p : Nat) (s : SlkSession) : (c.setSession p s).map = c.map := rfl
@[simp] theorem Chip.setSession_bz (c : Chip) (p : Nat) (s : SlkSession) : (c.setSession p s).bz = c.bz := rfl
@[simp] theorem Chip.setSession_rnd (c : Chip) (p : Nat) (s : SlkSession) : (c.setSession p s).rnd = c.rnd := rfl
@[simp] theorem Chip.setSession_cipher (c : Chip) (p : Nat) (s : SlkSession) : (c.setSession p s).cipher = c.cipher := rfl
@[simp] theorem Chip.setSession_dma (c : Chip) (p : Nat) (s : SlkSession) : (c.setSession p s).dma = c.dma := rfl
@[simp] theorem Chip.setSession_linkMem (c : Chip) (p : Nat) (s : SlkSession) : (c.setSession p s).linkMem = c.linkMem := rfl
@[simp] theorem Chip.setSession_dap (c : Chip) (p : Nat) (s : SlkSession) : (c.setSession p s).dap = c.dap := rfl
@[simp] theorem Chip.setSession_flt (c : Chip) (p : Nat) (s : SlkSession) : (c.setSession p s).flt = c.flt := rfl
@[simp] theorem Chip.setSession_emmc (c : Chip) (p : Nat) (s : SlkSession) : (c.setSession p s).emmc = c.emmc := rfl
@[simp] theorem Chip.setSession_ident (c : Chip) (p : Nat) (s : SlkSession) : (c.setSession p s).ident = c.ident := rfl
@[simp] theorem Chip.setSession_svc (c : Chip) (p : Nat) (s : SlkSession) : (c.setSession p s).svc = c.svc := rfl
@[simp] theorem Chip.setSession_out (c : Chip) (p : Nat) (s : SlkSession) : (c.setSession p s).out = c.out := rfl
@[simp] theorem Chip.setSession_free (c : Chip) (p : Nat) (s : SlkSession) : (c.setSession p s).free = c.free := rfl

/-! ### `Chip.setBzFlow` changes `bz` alone -/

@[simp] theorem Chip.setBzFlow_regs (c : Chip) (p : Nat) (f : BzFlow) : (c.setBzFlow p f).regs = c.regs := rfl
@[simp] theorem Chip.setBzFlow_blobs (c : Chip) (p : Nat) (f : BzFlow) : (c.setBzFlow p f).blobs = c.blobs := rfl
@[simp] theorem Chip.setBzFlow_board (c : Chip) (p : Nat) (f : BzFlow) : (c.setBzFlow p f).board = c.board := rfl
@[simp] theorem Chip.setBzFlow_start (c : Chip) (p : Nat) (f : BzFlow) : (c.setBzFlow p f).start = c.start := rfl
@[simp] theorem Chip.setBzFlow_time (c : Chip) (p : Nat) (f : BzFlow) : (c.setBzFlow p f).time = c.time := rfl
@[simp] theorem Chip.setBzFlow_gov (c : Chip) (p : Nat) (f : BzFlow) : (c.setBzFlow p f).gov = c.gov := rfl
@[simp] theorem Chip.setBzFlow_array (c : Chip) (p : Nat) (f : BzFlow) : (c.setBzFlow p f).array = c.array := rfl
@[simp] theorem Chip.setBzFlow_mem (c : Chip) (p : Nat) (f : BzFlow) : (c.setBzFlow p f).mem = c.mem := rfl
@[simp] theorem Chip.setBzFlow_step (c : Chip) (p : Nat) (f : BzFlow) : (c.setBzFlow p f).step = c.step := rfl
@[simp] theorem Chip.setBzFlow_upd (c : Chip) (p : Nat) (f : BzFlow) : (c.setBzFlow p f).upd = c.upd := rfl
@[simp] theorem Chip.setBzFlow_sil (c : Chip) (p : Nat) (f : BzFlow) : (c.setBzFlow p f).sil = c.sil := rfl
@[simp] theorem Chip.setBzFlow_map (c : Chip) (p : Nat) (f : BzFlow) : (c.setBzFlow p f).map = c.map := rfl
@[simp] theorem Chip.setBzFlow_rnd (c : Chip) (p : Nat) (f : BzFlow) : (c.setBzFlow p f).rnd = c.rnd := rfl
@[simp] theorem Chip.setBzFlow_slk (c : Chip) (p : Nat) (f : BzFlow) : (c.setBzFlow p f).slk = c.slk := rfl
@[simp] theorem Chip.setBzFlow_cipher (c : Chip) (p : Nat) (f : BzFlow) : (c.setBzFlow p f).cipher = c.cipher := rfl
@[simp] theorem Chip.setBzFlow_dma (c : Chip) (p : Nat) (f : BzFlow) : (c.setBzFlow p f).dma = c.dma := rfl
@[simp] theorem Chip.setBzFlow_linkMem (c : Chip) (p : Nat) (f : BzFlow) : (c.setBzFlow p f).linkMem = c.linkMem := rfl
@[simp] theorem Chip.setBzFlow_dap (c : Chip) (p : Nat) (f : BzFlow) : (c.setBzFlow p f).dap = c.dap := rfl
@[simp] theorem Chip.setBzFlow_flt (c : Chip) (p : Nat) (f : BzFlow) : (c.setBzFlow p f).flt = c.flt := rfl
@[simp] theorem Chip.setBzFlow_emmc (c : Chip) (p : Nat) (f : BzFlow) : (c.setBzFlow p f).emmc = c.emmc := rfl
@[simp] theorem Chip.setBzFlow_ident (c : Chip) (p : Nat) (f : BzFlow) : (c.setBzFlow p f).ident = c.ident := rfl
@[simp] theorem Chip.setBzFlow_svc (c : Chip) (p : Nat) (f : BzFlow) : (c.setBzFlow p f).svc = c.svc := rfl
@[simp] theorem Chip.setBzFlow_out (c : Chip) (p : Nat) (f : BzFlow) : (c.setBzFlow p f).out = c.out := rfl
@[simp] theorem Chip.setBzFlow_free (c : Chip) (p : Nat) (f : BzFlow) : (c.setBzFlow p f).free = c.free := rfl

/-! ### `Chip.setBzCredit` changes `bz` alone -/

@[simp] theorem Chip.setBzCredit_regs (c : Chip) (n : Nat) (x : BzCredit) : (c.setBzCredit n x).regs = c.regs := rfl
@[simp] theorem Chip.setBzCredit_blobs (c : Chip) (n : Nat) (x : BzCredit) : (c.setBzCredit n x).blobs = c.blobs := rfl
@[simp] theorem Chip.setBzCredit_board (c : Chip) (n : Nat) (x : BzCredit) : (c.setBzCredit n x).board = c.board := rfl
@[simp] theorem Chip.setBzCredit_start (c : Chip) (n : Nat) (x : BzCredit) : (c.setBzCredit n x).start = c.start := rfl
@[simp] theorem Chip.setBzCredit_time (c : Chip) (n : Nat) (x : BzCredit) : (c.setBzCredit n x).time = c.time := rfl
@[simp] theorem Chip.setBzCredit_gov (c : Chip) (n : Nat) (x : BzCredit) : (c.setBzCredit n x).gov = c.gov := rfl
@[simp] theorem Chip.setBzCredit_array (c : Chip) (n : Nat) (x : BzCredit) : (c.setBzCredit n x).array = c.array := rfl
@[simp] theorem Chip.setBzCredit_mem (c : Chip) (n : Nat) (x : BzCredit) : (c.setBzCredit n x).mem = c.mem := rfl
@[simp] theorem Chip.setBzCredit_step (c : Chip) (n : Nat) (x : BzCredit) : (c.setBzCredit n x).step = c.step := rfl
@[simp] theorem Chip.setBzCredit_upd (c : Chip) (n : Nat) (x : BzCredit) : (c.setBzCredit n x).upd = c.upd := rfl
@[simp] theorem Chip.setBzCredit_sil (c : Chip) (n : Nat) (x : BzCredit) : (c.setBzCredit n x).sil = c.sil := rfl
@[simp] theorem Chip.setBzCredit_map (c : Chip) (n : Nat) (x : BzCredit) : (c.setBzCredit n x).map = c.map := rfl
@[simp] theorem Chip.setBzCredit_rnd (c : Chip) (n : Nat) (x : BzCredit) : (c.setBzCredit n x).rnd = c.rnd := rfl
@[simp] theorem Chip.setBzCredit_slk (c : Chip) (n : Nat) (x : BzCredit) : (c.setBzCredit n x).slk = c.slk := rfl
@[simp] theorem Chip.setBzCredit_cipher (c : Chip) (n : Nat) (x : BzCredit) : (c.setBzCredit n x).cipher = c.cipher := rfl
@[simp] theorem Chip.setBzCredit_dma (c : Chip) (n : Nat) (x : BzCredit) : (c.setBzCredit n x).dma = c.dma := rfl
@[simp] theorem Chip.setBzCredit_linkMem (c : Chip) (n : Nat) (x : BzCredit) : (c.setBzCredit n x).linkMem = c.linkMem := rfl
@[simp] theorem Chip.setBzCredit_dap (c : Chip) (n : Nat) (x : BzCredit) : (c.setBzCredit n x).dap = c.dap := rfl
@[simp] theorem Chip.setBzCredit_flt (c : Chip) (n : Nat) (x : BzCredit) : (c.setBzCredit n x).flt = c.flt := rfl
@[simp] theorem Chip.setBzCredit_emmc (c : Chip) (n : Nat) (x : BzCredit) : (c.setBzCredit n x).emmc = c.emmc := rfl
@[simp] theorem Chip.setBzCredit_ident (c : Chip) (n : Nat) (x : BzCredit) : (c.setBzCredit n x).ident = c.ident := rfl
@[simp] theorem Chip.setBzCredit_svc (c : Chip) (n : Nat) (x : BzCredit) : (c.setBzCredit n x).svc = c.svc := rfl
@[simp] theorem Chip.setBzCredit_out (c : Chip) (n : Nat) (x : BzCredit) : (c.setBzCredit n x).out = c.out := rfl
@[simp] theorem Chip.setBzCredit_free (c : Chip) (n : Nat) (x : BzCredit) : (c.setBzCredit n x).free = c.free := rfl

/-! ### `Chip.setPort` changes `time` alone -/

@[simp] theorem Chip.setPort_regs (c : Chip) (p : Nat) (x : PtpPort) : (c.setPort p x).regs = c.regs := rfl
@[simp] theorem Chip.setPort_blobs (c : Chip) (p : Nat) (x : PtpPort) : (c.setPort p x).blobs = c.blobs := rfl
@[simp] theorem Chip.setPort_board (c : Chip) (p : Nat) (x : PtpPort) : (c.setPort p x).board = c.board := rfl
@[simp] theorem Chip.setPort_start (c : Chip) (p : Nat) (x : PtpPort) : (c.setPort p x).start = c.start := rfl
@[simp] theorem Chip.setPort_gov (c : Chip) (p : Nat) (x : PtpPort) : (c.setPort p x).gov = c.gov := rfl
@[simp] theorem Chip.setPort_array (c : Chip) (p : Nat) (x : PtpPort) : (c.setPort p x).array = c.array := rfl
@[simp] theorem Chip.setPort_mem (c : Chip) (p : Nat) (x : PtpPort) : (c.setPort p x).mem = c.mem := rfl
@[simp] theorem Chip.setPort_step (c : Chip) (p : Nat) (x : PtpPort) : (c.setPort p x).step = c.step := rfl
@[simp] theorem Chip.setPort_upd (c : Chip) (p : Nat) (x : PtpPort) : (c.setPort p x).upd = c.upd := rfl
@[simp] theorem Chip.setPort_sil (c : Chip) (p : Nat) (x : PtpPort) : (c.setPort p x).sil = c.sil := rfl
@[simp] theorem Chip.setPort_map (c : Chip) (p : Nat) (x : PtpPort) : (c.setPort p x).map = c.map := rfl
@[simp] theorem Chip.setPort_bz (c : Chip) (p : Nat) (x : PtpPort) : (c.setPort p x).bz = c.bz := rfl
@[simp] theorem Chip.setPort_rnd (c : Chip) (p : Nat) (x : PtpPort) : (c.setPort p x).rnd = c.rnd := rfl
@[simp] theorem Chip.setPort_slk (c : Chip) (p : Nat) (x : PtpPort) : (c.setPort p x).slk = c.slk := rfl
@[simp] theorem Chip.setPort_cipher (c : Chip) (p : Nat) (x : PtpPort) : (c.setPort p x).cipher = c.cipher := rfl
@[simp] theorem Chip.setPort_dma (c : Chip) (p : Nat) (x : PtpPort) : (c.setPort p x).dma = c.dma := rfl
@[simp] theorem Chip.setPort_linkMem (c : Chip) (p : Nat) (x : PtpPort) : (c.setPort p x).linkMem = c.linkMem := rfl
@[simp] theorem Chip.setPort_dap (c : Chip) (p : Nat) (x : PtpPort) : (c.setPort p x).dap = c.dap := rfl
@[simp] theorem Chip.setPort_flt (c : Chip) (p : Nat) (x : PtpPort) : (c.setPort p x).flt = c.flt := rfl
@[simp] theorem Chip.setPort_emmc (c : Chip) (p : Nat) (x : PtpPort) : (c.setPort p x).emmc = c.emmc := rfl
@[simp] theorem Chip.setPort_ident (c : Chip) (p : Nat) (x : PtpPort) : (c.setPort p x).ident = c.ident := rfl
@[simp] theorem Chip.setPort_svc (c : Chip) (p : Nat) (x : PtpPort) : (c.setPort p x).svc = c.svc := rfl
@[simp] theorem Chip.setPort_out (c : Chip) (p : Nat) (x : PtpPort) : (c.setPort p x).out = c.out := rfl
@[simp] theorem Chip.setPort_free (c : Chip) (p : Nat) (x : PtpPort) : (c.setPort p x).free = c.free := rfl

/-! ### `Chip.setStage` changes `start` alone -/

@[simp] theorem Chip.setStage_regs (c : Chip) (v : StartStage) : (c.setStage v).regs = c.regs := rfl
@[simp] theorem Chip.setStage_blobs (c : Chip) (v : StartStage) : (c.setStage v).blobs = c.blobs := rfl
@[simp] theorem Chip.setStage_board (c : Chip) (v : StartStage) : (c.setStage v).board = c.board := rfl
@[simp] theorem Chip.setStage_time (c : Chip) (v : StartStage) : (c.setStage v).time = c.time := rfl
@[simp] theorem Chip.setStage_gov (c : Chip) (v : StartStage) : (c.setStage v).gov = c.gov := rfl
@[simp] theorem Chip.setStage_array (c : Chip) (v : StartStage) : (c.setStage v).array = c.array := rfl
@[simp] theorem Chip.setStage_mem (c : Chip) (v : StartStage) : (c.setStage v).mem = c.mem := rfl
@[simp] theorem Chip.setStage_step (c : Chip) (v : StartStage) : (c.setStage v).step = c.step := rfl
@[simp] theorem Chip.setStage_upd (c : Chip) (v : StartStage) : (c.setStage v).upd = c.upd := rfl
@[simp] theorem Chip.setStage_sil (c : Chip) (v : StartStage) : (c.setStage v).sil = c.sil := rfl
@[simp] theorem Chip.setStage_map (c : Chip) (v : StartStage) : (c.setStage v).map = c.map := rfl
@[simp] theorem Chip.setStage_bz (c : Chip) (v : StartStage) : (c.setStage v).bz = c.bz := rfl
@[simp] theorem Chip.setStage_rnd (c : Chip) (v : StartStage) : (c.setStage v).rnd = c.rnd := rfl
@[simp] theorem Chip.setStage_slk (c : Chip) (v : StartStage) : (c.setStage v).slk = c.slk := rfl
@[simp] theorem Chip.setStage_cipher (c : Chip) (v : StartStage) : (c.setStage v).cipher = c.cipher := rfl
@[simp] theorem Chip.setStage_dma (c : Chip) (v : StartStage) : (c.setStage v).dma = c.dma := rfl
@[simp] theorem Chip.setStage_linkMem (c : Chip) (v : StartStage) : (c.setStage v).linkMem = c.linkMem := rfl
@[simp] theorem Chip.setStage_dap (c : Chip) (v : StartStage) : (c.setStage v).dap = c.dap := rfl
@[simp] theorem Chip.setStage_flt (c : Chip) (v : StartStage) : (c.setStage v).flt = c.flt := rfl
@[simp] theorem Chip.setStage_emmc (c : Chip) (v : StartStage) : (c.setStage v).emmc = c.emmc := rfl
@[simp] theorem Chip.setStage_ident (c : Chip) (v : StartStage) : (c.setStage v).ident = c.ident := rfl
@[simp] theorem Chip.setStage_svc (c : Chip) (v : StartStage) : (c.setStage v).svc = c.svc := rfl
@[simp] theorem Chip.setStage_out (c : Chip) (v : StartStage) : (c.setStage v).out = c.out := rfl
@[simp] theorem Chip.setStage_free (c : Chip) (v : StartStage) : (c.setStage v).free = c.free := rfl

/-! ### `Chip.runMark` changes `emmc` alone -/

@[simp] theorem Chip.runMark_regs (c : Chip) (v : Bool) : (c.runMark v).regs = c.regs := rfl
@[simp] theorem Chip.runMark_blobs (c : Chip) (v : Bool) : (c.runMark v).blobs = c.blobs := rfl
@[simp] theorem Chip.runMark_board (c : Chip) (v : Bool) : (c.runMark v).board = c.board := rfl
@[simp] theorem Chip.runMark_start (c : Chip) (v : Bool) : (c.runMark v).start = c.start := rfl
@[simp] theorem Chip.runMark_time (c : Chip) (v : Bool) : (c.runMark v).time = c.time := rfl
@[simp] theorem Chip.runMark_gov (c : Chip) (v : Bool) : (c.runMark v).gov = c.gov := rfl
@[simp] theorem Chip.runMark_array (c : Chip) (v : Bool) : (c.runMark v).array = c.array := rfl
@[simp] theorem Chip.runMark_mem (c : Chip) (v : Bool) : (c.runMark v).mem = c.mem := rfl
@[simp] theorem Chip.runMark_step (c : Chip) (v : Bool) : (c.runMark v).step = c.step := rfl
@[simp] theorem Chip.runMark_upd (c : Chip) (v : Bool) : (c.runMark v).upd = c.upd := rfl
@[simp] theorem Chip.runMark_sil (c : Chip) (v : Bool) : (c.runMark v).sil = c.sil := rfl
@[simp] theorem Chip.runMark_map (c : Chip) (v : Bool) : (c.runMark v).map = c.map := rfl
@[simp] theorem Chip.runMark_bz (c : Chip) (v : Bool) : (c.runMark v).bz = c.bz := rfl
@[simp] theorem Chip.runMark_rnd (c : Chip) (v : Bool) : (c.runMark v).rnd = c.rnd := rfl
@[simp] theorem Chip.runMark_slk (c : Chip) (v : Bool) : (c.runMark v).slk = c.slk := rfl
@[simp] theorem Chip.runMark_cipher (c : Chip) (v : Bool) : (c.runMark v).cipher = c.cipher := rfl
@[simp] theorem Chip.runMark_dma (c : Chip) (v : Bool) : (c.runMark v).dma = c.dma := rfl
@[simp] theorem Chip.runMark_linkMem (c : Chip) (v : Bool) : (c.runMark v).linkMem = c.linkMem := rfl
@[simp] theorem Chip.runMark_dap (c : Chip) (v : Bool) : (c.runMark v).dap = c.dap := rfl
@[simp] theorem Chip.runMark_flt (c : Chip) (v : Bool) : (c.runMark v).flt = c.flt := rfl
@[simp] theorem Chip.runMark_ident (c : Chip) (v : Bool) : (c.runMark v).ident = c.ident := rfl
@[simp] theorem Chip.runMark_svc (c : Chip) (v : Bool) : (c.runMark v).svc = c.svc := rfl
@[simp] theorem Chip.runMark_out (c : Chip) (v : Bool) : (c.runMark v).out = c.out := rfl
@[simp] theorem Chip.runMark_free (c : Chip) (v : Bool) : (c.runMark v).free = c.free := rfl

/-! ### `Chip.setWordBits` changes `step` alone -/

@[simp] theorem Chip.setWordBits_regs (c : Chip) (m : Nat) : (c.setWordBits m).regs = c.regs := rfl
@[simp] theorem Chip.setWordBits_blobs (c : Chip) (m : Nat) : (c.setWordBits m).blobs = c.blobs := rfl
@[simp] theorem Chip.setWordBits_board (c : Chip) (m : Nat) : (c.setWordBits m).board = c.board := rfl
@[simp] theorem Chip.setWordBits_start (c : Chip) (m : Nat) : (c.setWordBits m).start = c.start := rfl
@[simp] theorem Chip.setWordBits_time (c : Chip) (m : Nat) : (c.setWordBits m).time = c.time := rfl
@[simp] theorem Chip.setWordBits_gov (c : Chip) (m : Nat) : (c.setWordBits m).gov = c.gov := rfl
@[simp] theorem Chip.setWordBits_array (c : Chip) (m : Nat) : (c.setWordBits m).array = c.array := rfl
@[simp] theorem Chip.setWordBits_mem (c : Chip) (m : Nat) : (c.setWordBits m).mem = c.mem := rfl
@[simp] theorem Chip.setWordBits_upd (c : Chip) (m : Nat) : (c.setWordBits m).upd = c.upd := rfl
@[simp] theorem Chip.setWordBits_sil (c : Chip) (m : Nat) : (c.setWordBits m).sil = c.sil := rfl
@[simp] theorem Chip.setWordBits_map (c : Chip) (m : Nat) : (c.setWordBits m).map = c.map := rfl
@[simp] theorem Chip.setWordBits_bz (c : Chip) (m : Nat) : (c.setWordBits m).bz = c.bz := rfl
@[simp] theorem Chip.setWordBits_rnd (c : Chip) (m : Nat) : (c.setWordBits m).rnd = c.rnd := rfl
@[simp] theorem Chip.setWordBits_slk (c : Chip) (m : Nat) : (c.setWordBits m).slk = c.slk := rfl
@[simp] theorem Chip.setWordBits_cipher (c : Chip) (m : Nat) : (c.setWordBits m).cipher = c.cipher := rfl
@[simp] theorem Chip.setWordBits_dma (c : Chip) (m : Nat) : (c.setWordBits m).dma = c.dma := rfl
@[simp] theorem Chip.setWordBits_linkMem (c : Chip) (m : Nat) : (c.setWordBits m).linkMem = c.linkMem := rfl
@[simp] theorem Chip.setWordBits_dap (c : Chip) (m : Nat) : (c.setWordBits m).dap = c.dap := rfl
@[simp] theorem Chip.setWordBits_flt (c : Chip) (m : Nat) : (c.setWordBits m).flt = c.flt := rfl
@[simp] theorem Chip.setWordBits_emmc (c : Chip) (m : Nat) : (c.setWordBits m).emmc = c.emmc := rfl
@[simp] theorem Chip.setWordBits_ident (c : Chip) (m : Nat) : (c.setWordBits m).ident = c.ident := rfl
@[simp] theorem Chip.setWordBits_svc (c : Chip) (m : Nat) : (c.setWordBits m).svc = c.svc := rfl
@[simp] theorem Chip.setWordBits_out (c : Chip) (m : Nat) : (c.setWordBits m).out = c.out := rfl
@[simp] theorem Chip.setWordBits_free (c : Chip) (m : Nat) : (c.setWordBits m).free = c.free := rfl

/-! ### `Chip.setContext` changes `slk` alone -/

@[simp] theorem Chip.setContext_regs (c : Chip) (n : Nat) (x : FlowContext) : (c.setContext n x).regs = c.regs := rfl
@[simp] theorem Chip.setContext_blobs (c : Chip) (n : Nat) (x : FlowContext) : (c.setContext n x).blobs = c.blobs := rfl
@[simp] theorem Chip.setContext_board (c : Chip) (n : Nat) (x : FlowContext) : (c.setContext n x).board = c.board := rfl
@[simp] theorem Chip.setContext_start (c : Chip) (n : Nat) (x : FlowContext) : (c.setContext n x).start = c.start := rfl
@[simp] theorem Chip.setContext_time (c : Chip) (n : Nat) (x : FlowContext) : (c.setContext n x).time = c.time := rfl
@[simp] theorem Chip.setContext_gov (c : Chip) (n : Nat) (x : FlowContext) : (c.setContext n x).gov = c.gov := rfl
@[simp] theorem Chip.setContext_array (c : Chip) (n : Nat) (x : FlowContext) : (c.setContext n x).array = c.array := rfl
@[simp] theorem Chip.setContext_mem (c : Chip) (n : Nat) (x : FlowContext) : (c.setContext n x).mem = c.mem := rfl
@[simp] theorem Chip.setContext_step (c : Chip) (n : Nat) (x : FlowContext) : (c.setContext n x).step = c.step := rfl
@[simp] theorem Chip.setContext_upd (c : Chip) (n : Nat) (x : FlowContext) : (c.setContext n x).upd = c.upd := rfl
@[simp] theorem Chip.setContext_sil (c : Chip) (n : Nat) (x : FlowContext) : (c.setContext n x).sil = c.sil := rfl
@[simp] theorem Chip.setContext_map (c : Chip) (n : Nat) (x : FlowContext) : (c.setContext n x).map = c.map := rfl
@[simp] theorem Chip.setContext_bz (c : Chip) (n : Nat) (x : FlowContext) : (c.setContext n x).bz = c.bz := rfl
@[simp] theorem Chip.setContext_rnd (c : Chip) (n : Nat) (x : FlowContext) : (c.setContext n x).rnd = c.rnd := rfl
@[simp] theorem Chip.setContext_cipher (c : Chip) (n : Nat) (x : FlowContext) : (c.setContext n x).cipher = c.cipher := rfl
@[simp] theorem Chip.setContext_dma (c : Chip) (n : Nat) (x : FlowContext) : (c.setContext n x).dma = c.dma := rfl
@[simp] theorem Chip.setContext_linkMem (c : Chip) (n : Nat) (x : FlowContext) : (c.setContext n x).linkMem = c.linkMem := rfl
@[simp] theorem Chip.setContext_dap (c : Chip) (n : Nat) (x : FlowContext) : (c.setContext n x).dap = c.dap := rfl
@[simp] theorem Chip.setContext_flt (c : Chip) (n : Nat) (x : FlowContext) : (c.setContext n x).flt = c.flt := rfl
@[simp] theorem Chip.setContext_emmc (c : Chip) (n : Nat) (x : FlowContext) : (c.setContext n x).emmc = c.emmc := rfl
@[simp] theorem Chip.setContext_ident (c : Chip) (n : Nat) (x : FlowContext) : (c.setContext n x).ident = c.ident := rfl
@[simp] theorem Chip.setContext_svc (c : Chip) (n : Nat) (x : FlowContext) : (c.setContext n x).svc = c.svc := rfl
@[simp] theorem Chip.setContext_out (c : Chip) (n : Nat) (x : FlowContext) : (c.setContext n x).out = c.out := rfl
@[simp] theorem Chip.setContext_free (c : Chip) (n : Nat) (x : FlowContext) : (c.setContext n x).free = c.free := rfl

/-! ### Free values -/

@[simp] theorem Chip.freeNat_snd (c : Chip) (w : Nat) : (c.freeNat w).2 = { c with free := c.free + 1 } := rfl

@[simp] theorem Chip.freeBytes_snd (c : Chip) (n : Nat) : (c.freeBytes n).2 = { c with free := c.free + 1 } := rfl

/-! ### A meaning as an effect on the module -/

theorem State.on_next (s : State) (f : Chip → Chip) : s.on f = .next { s with chip := f s.chip } := rfl

/-- A state that a meaning answers has the effect on its module and the commands that waited. -/
theorem State.on_inv {s t : State} {f : Chip → Chip} (h : s.on f = .next t) : t.chip = f s.chip ∧ t.pending = s.pending := by
  rw [State.on_next] at h
  injection h with h
  subst h
  exact ⟨rfl, rfl⟩

/-! ### Reading back -/

theorem Chip.reg_setReg_eq (c : Chip) (k j v : Nat) : (c.setReg k v).reg j = if k = j then v else c.reg j := by
  by_cases h : k = j
  · subst h; simp only [if_true, Chip.reg, Chip.setReg, Sparse.get_put_same]
  · rw [if_neg h]; exact Sparse.get_put_ne _ _ _ v h

theorem Chip.blob_setBlob_eq (c : Chip) (k j : Nat) (b : Bytes) : (c.setBlob k b).blob j = if k = j then b else c.blob j :=
  Sparse.get_put [] c.blobs k j b

theorem Chip.req_setReq (c : Chip) (n m : Nat) (r : ReqState) : (c.setReq n r).dap.req m = if n = m then r else c.dap.req m :=
  Sparse.get_put _ _ _ _ _

theorem Chip.dmaChan_setDma (c : Chip) (n m : Nat) (x : DmaChannel) : (c.setDma n x).dmaChan m = if n = m then x else c.dmaChan m :=
  Sparse.get_put _ _ _ _ _

theorem Chip.keySlot_setSlot (c : Chip) (n m : Nat) (k : KeySlot) : (c.setSlot n k).keySlot m = if n = m then k else c.keySlot m :=
  Sparse.get_put _ _ _ _ _

/-- Registers outside a dropped set read as before. -/
theorem Chip.reg_dropRegs (c : Chip) (p : Nat → Bool) (k : Nat) (h : p k = false) : (c.dropRegs p).reg k = c.reg k := by
  simp only [Chip.reg, Chip.dropRegs]
  induction c.regs with
  | nil => rfl
  | cons e r ih =>
    obtain ⟨i, v⟩ := e
    by_cases hp : p i = true
    · simp only [List.filter_cons, hp, Bool.not_true, Bool.false_eq_true, if_false, ih, Sparse.get]
      rw [if_neg (fun x => by subst x; rw [h] at hp; exact Bool.noConfusion hp)]
    · simp only [List.filter_cons, hp, Bool.not_false, if_true, Sparse.get, ih]

/-! ### A change made once for each element -/

/-- What one change keeps, every change of a list keeps. -/
theorem Chip.each_keeps {α β : Type} (g : Chip → β) (f : Chip → α → Chip) (h : ∀ c x, g (f c x) = g c) (l : List α) (c : Chip) :
    g (c.each l f) = g c := by
  simp only [Chip.each]
  induction l generalizing c with
  | nil => rfl
  | cons x r ih => exact (ih (f c x)).trans (h c x)

/-- A property kept by one change is kept by every change of a list. -/
theorem Chip.each_inv {α : Type} (p : Chip → Prop) (f : Chip → α → Chip) (h : ∀ c x, p c → p (f c x)) (l : List α) (c : Chip) (hc : p c) :
    p (c.each l f) := by
  simp only [Chip.each]
  induction l generalizing c with
  | nil => exact hc
  | cons x r ih => exact ih (f c x) (h c x hc)

end Sys2Proof.Machine
end

