-- ==== Sys2Proof/Laws/Ops.lean ====
section
/-! SUPPORT.  What recording an event leaves alone: a sticky bit, a fault-log entry, a sillage record and
an event to the requesters write the objects, the log, the sillage and the DAP server, and nothing of
the work itself (R276, R278, R436, R484, R485). -/

namespace Sys2Proof.Machine

/-- All that recording an event leaves alone: every part but the objects, the sillage, the DAP server, the
fault log and the trace. -/
structure Chip.Work where
  blobs : Sparse Bytes
  board : Board
  start : StartSeq
  time : TimeUnit
  gov : Governor
  array : TileArray
  mem : Lpddr6
  step : StepSeq
  upd : UpdateUnit
  map : SiteMap
  bz : Braze
  rnd : Rounds
  slk : SiteLinks
  cipher : Cipher
  dma : Sparse DmaChannel
  linkMem : List Host.Cell
  emmc : Emmc
  ident : Identity
  svc : Service
  free : Nat
  deriving DecidableEq, Repr

/-- That part of the module. -/
def Chip.workPart (c : Chip) : Chip.Work :=
  ⟨c.blobs, c.board, c.start, c.time, c.gov, c.array, c.mem, c.step, c.upd, c.map, c.bz, c.rnd, c.slk, c.cipher, c.dma, c.linkMem, c.emmc, c.ident, c.svc, c.free⟩

@[simp ↓] theorem Chip.mk_work (regs : Sparse Nat) (blobs : Sparse Bytes) (board : Board) (start : StartSeq) (time : TimeUnit) (gov : Governor) (array : TileArray) (mem : Lpddr6) (step : StepSeq) (upd : UpdateUnit) (sil : Sillage) (map : SiteMap) (bz : Braze) (rnd : Rounds) (slk : SiteLinks) (cipher : Cipher) (dma : Sparse DmaChannel) (linkMem : List Host.Cell) (dap : DapServer) (flt : FaultLog) (emmc : Emmc) (ident : Identity) (svc : Service) (out : List Out) (free : Nat) :
    (Chip.mk regs blobs board start time gov array mem step upd sil map bz rnd slk cipher dma linkMem dap flt emmc ident svc out free).workPart = ⟨blobs, board, start, time, gov, array, mem, step, upd, map, bz, rnd, slk, cipher, dma, linkMem, emmc, ident, svc, free⟩ := id rfl

theorem pair_work {α : Type} {p : α × Chip} {a : α} {c : Chip} (h : p = (a, c)) : c.workPart = p.2.workPart := by rw [h]

@[simp ↓] theorem each_work {α : Type} (c : Chip) (l : List α) (f : Chip → α → Chip)
    (h : ∀ c x, (f c x).workPart = c.workPart) : (c.each l f).workPart = c.workPart := Chip.each_keeps _ f h l c

@[simp ↓] theorem ite_work (p : Prop) [Decidable p] (a b : Chip) :
    (if p then a else b).workPart = if p then a.workPart else b.workPart := by split <;> rfl

/-- A work part written out is the module's own. -/
@[simp] theorem Chip.Work.mk_chip (c : Chip) :
    Chip.Work.mk c.blobs c.board c.start c.time c.gov c.array c.mem c.step c.upd c.map c.bz c.rnd c.slk c.cipher c.dma c.linkMem c.emmc c.ident c.svc c.free = c.workPart := id rfl

/-! Two modules of equal work part share each of its fields. -/

theorem Chip.blobs_of_work {c d : Chip} (h : c.workPart = d.workPart) : c.blobs = d.blobs := congrArg Chip.Work.blobs h

theorem Chip.board_of_work {c d : Chip} (h : c.workPart = d.workPart) : c.board = d.board := congrArg Chip.Work.board h

theorem Chip.start_of_work {c d : Chip} (h : c.workPart = d.workPart) : c.start = d.start := congrArg Chip.Work.start h

theorem Chip.time_of_work {c d : Chip} (h : c.workPart = d.workPart) : c.time = d.time := congrArg Chip.Work.time h

theorem Chip.gov_of_work {c d : Chip} (h : c.workPart = d.workPart) : c.gov = d.gov := congrArg Chip.Work.gov h

theorem Chip.array_of_work {c d : Chip} (h : c.workPart = d.workPart) : c.array = d.array := congrArg Chip.Work.array h

theorem Chip.mem_of_work {c d : Chip} (h : c.workPart = d.workPart) : c.mem = d.mem := congrArg Chip.Work.mem h

theorem Chip.step_of_work {c d : Chip} (h : c.workPart = d.workPart) : c.step = d.step := congrArg Chip.Work.step h

theorem Chip.upd_of_work {c d : Chip} (h : c.workPart = d.workPart) : c.upd = d.upd := congrArg Chip.Work.upd h

theorem Chip.map_of_work {c d : Chip} (h : c.workPart = d.workPart) : c.map = d.map := congrArg Chip.Work.map h

theorem Chip.bz_of_work {c d : Chip} (h : c.workPart = d.workPart) : c.bz = d.bz := congrArg Chip.Work.bz h

theorem Chip.rnd_of_work {c d : Chip} (h : c.workPart = d.workPart) : c.rnd = d.rnd := congrArg Chip.Work.rnd h

theorem Chip.slk_of_work {c d : Chip} (h : c.workPart = d.workPart) : c.slk = d.slk := congrArg Chip.Work.slk h

theorem Chip.cipher_of_work {c d : Chip} (h : c.workPart = d.workPart) : c.cipher = d.cipher := congrArg Chip.Work.cipher h

theorem Chip.dma_of_work {c d : Chip} (h : c.workPart = d.workPart) : c.dma = d.dma := congrArg Chip.Work.dma h

theorem Chip.linkMem_of_work {c d : Chip} (h : c.workPart = d.workPart) : c.linkMem = d.linkMem := congrArg Chip.Work.linkMem h

theorem Chip.emmc_of_work {c d : Chip} (h : c.workPart = d.workPart) : c.emmc = d.emmc := congrArg Chip.Work.emmc h

theorem Chip.ident_of_work {c d : Chip} (h : c.workPart = d.workPart) : c.ident = d.ident := congrArg Chip.Work.ident h

theorem Chip.svc_of_work {c d : Chip} (h : c.workPart = d.workPart) : c.svc = d.svc := congrArg Chip.Work.svc h

theorem Chip.free_of_work {c d : Chip} (h : c.workPart = d.workPart) : c.free = d.free := congrArg Chip.Work.free h

@[simp ↓] theorem Chip.setReg_work (c : Chip) (k v : Nat) : (Chip.setReg c k v).workPart = c.workPart := id rfl

@[simp ↓] theorem Chip.count_work (c : Chip) (k n w : Nat) : (Chip.count c k n w).workPart = c.workPart := id rfl

@[simp ↓] theorem Chip.emit_work (c : Chip) (o : Out) : (Chip.emit c o).workPart = c.workPart := id rfl

@[simp ↓] theorem Chip.pushRecord_work (c : Chip) (r : Bytes) : (Chip.pushRecord c r).workPart = c.workPart := by
  unfold Chip.pushRecord
  simp

@[simp ↓] theorem Chip.appendRecord_work (c : Chip) (kind flags : Nat) (sections : List Bytes) (time : Int) (mono : Nat) : (Chip.appendRecord c kind flags sections time mono).workPart = c.workPart := by
  unfold Chip.appendRecord
  simp

@[simp ↓] theorem Chip.sillageEvent_work (c : Chip) (code unit addr detail : Nat) : (Chip.sillageEvent c code unit addr detail).workPart = c.workPart := by
  unfold Chip.sillageEvent
  simp

@[simp ↓] theorem Chip.setReq_work (c : Chip) (n : Nat) (r : ReqState) : (Chip.setReq c n r).workPart = c.workPart := id rfl

@[simp ↓] theorem Chip.emitEvent_work (c : Chip) (n : Nat) (e : Event) : (Chip.emitEvent c n e).workPart = c.workPart := by
  unfold Chip.emitEvent
  simp

@[simp ↓] theorem Chip.sendEvent_work (c : Chip) (n : Nat) (e : Event) : (Chip.sendEvent c n e).workPart = c.workPart := by
  unfold Chip.sendEvent
  simp

@[simp ↓] theorem Chip.event_work (c : Chip) (code key detail addr : Nat) : (Chip.event c code key detail addr).workPart = c.workPart := by
  unfold Chip.event
  simp

@[simp ↓] theorem Chip.flushEarly_work (c : Chip) : (Chip.flushEarly c).workPart = c.workPart := by
  unfold Chip.flushEarly
  simp

@[simp ↓] theorem Chip.logOne_work (c : Chip) (u : Unit2) (code region addr detail : Nat) : (Chip.logOne c u code region addr detail).workPart = c.workPart := by
  unfold Chip.logOne
  simp

@[simp ↓] theorem Chip.setSticky_work (c : Chip) (f mask : Nat) : (Chip.setSticky c f mask).workPart = c.workPart := by
  unfold Chip.setSticky
  simp

@[simp ↓] theorem Chip.overrun_work (c : Chip) (before : Nat) : (Chip.overrun c before).workPart = c.workPart := by
  unfold Chip.overrun
  simp

@[simp ↓] theorem Chip.log_work (c : Chip) (u : Unit2) (code region addr detail : Nat) : (Chip.log c u code region addr detail).workPart = c.workPart := by
  unfold Chip.log
  simp

@[simp ↓] theorem Chip.record_work (c : Chip) (kind flags : Nat) (sections : List Bytes) (time : Int) (mono : Nat) : (Chip.record c kind flags sections time mono).workPart = c.workPart := by
  unfold Chip.record
  simp

@[simp ↓] theorem Chip.occur_work (c : Chip) (f b : Nat) (u : Unit2) (region addr detail : Nat) : (Chip.occur c f b u region addr detail).workPart = c.workPart := by
  unfold Chip.occur
  simp

@[simp ↓] theorem Chip.occurCode_work (c : Chip) (f b : Nat) (u : Unit2) (code region addr detail : Nat) : (Chip.occurCode c f b u code region addr detail).workPart = c.workPart := by
  unfold Chip.occurCode
  simp

@[simp ↓] theorem Chip.setRegionSticky_work (c : Chip) (h mask : Nat) : (Chip.setRegionSticky c h mask).workPart = c.workPart := by
  unfold Chip.setRegionSticky
  simp

end Sys2Proof.Machine
end

