-- ==== Sys2Proof/WellFormed.lean ====
section
/-! DEFINITION. WellFormed.lean: which commands the hardware can be given. Operands whose number space a type already
bounds (a tile, a port, a channel) need no check; the others are checked here. `exec` is total and gives an ill-formed
command the effect the spec gives the same value when it arrives (a refused write, a discarded frame); the check says
which commands a well-behaved sender forms. -/

namespace Sys2Proof

/-- Frame header and payload agree: LEN is the payload's length, at most 8,192 bytes (R310). -/
def BzFrame.wf (f : BzFrame) : Bool := f.hdr.len.toNat == f.payload.length && decide (f.payload.length ≤ 8192)

/-- A site-link frame carries at most 8,192 bytes and a tag beside its header, a parity packet 8,258 bytes of symbols (R366, R377). -/
def SlkFrame.wf (f : SlkFrame) : Bool := decide (f.body.length ≤ 8258)

/-- Symbol positions of R189, each at most once. -/
def Flips.wf (f : Flips) : Bool := f.all (fun e => decide (e.1 < 36)) && (f.map (·.1)).eraseDups.length == f.length

/-- A core number exists (16 control cores), a DMA channel exists (512). -/
def CipherRequester.wf : CipherRequester → Bool
  | .core n => decide (n < 16)
  | .dma n => decide (n < 512)
  | _ => true

/-- Monitors of each die (R43): 34 on Wacor, 4 on the link die. -/
def Die.monitors : Die → Nat
  | .wacor => 34
  | .link => 4

/-- The check, command by command; `true` for those whose operand types bound them. -/
def WellFormed (i : Instr) : Bool :=
  match i with
  | .speedWindow w l => w.length == 34 && l.length == 4
  | .spdSlowDetect die m => decide (m < die.monitors)
  | .routerFlitReceive _ addr data => decide (addr + 64 ≤ 524288) && data.length == 64
  | .castingLoad _ slot => decide (slot.toNat < 4)
  | .castingUnload _ slot => decide (slot.toNat < 4)
  | .bzMessageFrame _ f => f.wf
  | .bzAckFrame _ f => f.wf
  | .bzCreditFrame _ f => f.wf
  | .bzOperandFrame _ f => f.wf
  | .bzResultFrame _ f => f.wf
  | .bzTreeFrame _ f => f.wf
  | .bzProbeFrame _ f => f.wf
  | .slkHello _ f => f.wf
  | .slkDataPacket _ f => f.wf
  | .slkParityPacket _ f => f.wf
  | .slkAckPacket _ f => f.wf
  | .slkProbePacket _ f => f.wf
  | .cipherRequest who _ desc => who.wf && desc.length == 64
  | .memPatrolScrub _ flips => Flips.wf flips
  | .domainSegmentWrite _ _ _ _ _ data => decide (data.length ≤ 4096)
  | _ => true

end Sys2Proof
end

