-- ==== Sys2Proof/Laws/PerInstr.lean ====
section
/-! SUPPORT. Laws/PerInstr.lean: what holds of every command as syntax, one lemma per constructor. OperandBounds: a
well-formed command carries no byte string longer than the longest packet of R377. -/

namespace Sys2Proof.Laws.OperandBounds

/-- Bytes of the frame, packet, request or segment a command carries; 0 for a command that carries none of a bounded form. -/
def carriedBytes (i : Instr) : Nat :=
  match i with
  | .bzMessageFrame _ f => f.payload.length
  | .bzAckFrame _ f => f.payload.length
  | .bzCreditFrame _ f => f.payload.length
  | .bzOperandFrame _ f => f.payload.length
  | .bzResultFrame _ f => f.payload.length
  | .bzTreeFrame _ f => f.payload.length
  | .bzProbeFrame _ f => f.payload.length
  | .slkHello _ f => f.body.length
  | .slkDataPacket _ f => f.body.length
  | .slkParityPacket _ f => f.body.length
  | .slkAckPacket _ f => f.body.length
  | .slkProbePacket _ f => f.body.length
  | .cipherRequest _ _ desc => desc.length
  | .routerFlitReceive _ _ data => data.length
  | .domainSegmentWrite _ _ _ _ _ data => data.length
  | _ => 0

/-- A well-formed command carries at most 8,258 bytes. -/
def Statement (i : Instr) : Prop := WellFormed i = true → carriedBytes i ≤ 8258

/-- A command that carries nothing of a bounded form meets the bound. -/
theorem of_none (i : Instr) (h : carriedBytes i = 0) : Statement i := fun _ => by omega

theorem of_bz (f : BzFrame) (h : f.wf = true) : f.payload.length ≤ 8258 := by
  simp [BzFrame.wf] at h; omega

theorem of_slk (f : SlkFrame) (h : f.wf = true) : f.body.length ≤ 8258 := by
  simpa [SlkFrame.wf] using h

theorem seatedNAssert {a} : Statement (.seatedNAssert a) := of_none _ rfl
theorem pwrEnAssert : Statement (.pwrEnAssert) := of_none _ rfl
theorem coolantCheckComplete {a b} : Statement (.coolantCheckComplete a b) := of_none _ rfl
theorem coolantRecheckTimer : Statement (.coolantRecheckTimer) := of_none _ rfl
theorem suppliesInRegulation : Statement (.suppliesInRegulation) := of_none _ rfl
theorem pwrEnDeassert : Statement (.pwrEnDeassert) := of_none _ rfl
theorem powerFail : Statement (.powerFail) := of_none _ rfl
theorem powerRestart : Statement (.powerRestart) := of_none _ rfl
theorem coolantReading {a} : Statement (.coolantReading a) := of_none _ rfl
theorem flowLow2sExpiry : Statement (.flowLow2sExpiry) := of_none _ rfl
theorem flowStop500msExpiry : Statement (.flowStop500msExpiry) := of_none _ rfl
theorem powerLimitWrite {a b} : Statement (.powerLimitWrite a b) := of_none _ rfl
theorem locateNChange {a} : Statement (.locateNChange a) := of_none _ rfl
theorem cageInsert {a b} : Statement (.cageInsert a b) := of_none _ rfl
theorem cageRemove {a} : Statement (.cageRemove a) := of_none _ rfl
theorem cageOvercurrent {a} : Statement (.cageOvercurrent a) := of_none _ rfl
theorem trayRstLong : Statement (.trayRstLong) := of_none _ rfl
theorem trayRstRelease {a} : Statement (.trayRstRelease a) := of_none _ rfl
theorem ppsEdge {a} : Statement (.ppsEdge a) := of_none _ rfl
theorem ppsLossExpiry {a} : Statement (.ppsLossExpiry a) := of_none _ rfl
theorem tenMhzInChange {a} : Statement (.tenMhzInChange a) := of_none _ rfl
theorem speedWindow {a b} : Statement (.speedWindow a b) := of_none _ rfl
theorem spdSlowDetect {a b} : Statement (.spdSlowDetect a b) := of_none _ rfl
theorem governorDecision {a b c} : Statement (.governorDecision a b c) := of_none _ rfl
theorem vcoreCeilingWrite {a b} : Statement (.vcoreCeilingWrite a b) := of_none _ rfl
theorem rxCrossingOverrun {a} : Statement (.rxCrossingOverrun a) := of_none _ rfl
theorem mma {a b c} : Statement (.mma a b c) := of_none _ rfl
theorem mmaDWritten {a} : Statement (.mmaDWritten a) := of_none _ rfl
theorem tilePatrolScrub {a b c} : Statement (.tilePatrolScrub a b c) := of_none _ rfl
theorem routerFlitReceive {a b c} : Statement (.routerFlitReceive a b c) := fun h => by
  simp [WellFormed] at h; simp [carriedBytes, h]
theorem routerMessageSend {a b} : Statement (.routerMessageSend a b) := of_none _ rfl
theorem nop {a b} : Statement (.nop a b) := of_none _ rfl
theorem sli {a b} : Statement (.sli a b) := of_none _ rfl
theorem sadd {a b} : Statement (.sadd a b) := of_none _ rfl
theorem loop {a b} : Statement (.loop a b) := of_none _ rfl
theorem waitq {a b} : Statement (.waitq a b) := of_none _ rfl
theorem waitqReady {a} : Statement (.waitqReady a) := of_none _ rfl
theorem release {a b} : Statement (.release a b) := of_none _ rfl
theorem mxwait {a b} : Statement (.mxwait a b) := of_none _ rfl
theorem halt {a b} : Statement (.halt a b) := of_none _ rfl
theorem add {a b} : Statement (.add a b) := of_none _ rfl
theorem sub {a b} : Statement (.sub a b) := of_none _ rfl
theorem mul {a b} : Statement (.mul a b) := of_none _ rfl
theorem fma {a b} : Statement (.fma a b) := of_none _ rfl
theorem fms {a b} : Statement (.fms a b) := of_none _ rfl
theorem div {a b} : Statement (.div a b) := of_none _ rfl
theorem sqrt {a b} : Statement (.sqrt a b) := of_none _ rfl
theorem max {a b} : Statement (.max a b) := of_none _ rfl
theorem min {a b} : Statement (.min a b) := of_none _ rfl
theorem abs {a b} : Statement (.abs a b) := of_none _ rfl
theorem neg {a b} : Statement (.neg a b) := of_none _ rfl
theorem and {a b} : Statement (.and a b) := of_none _ rfl
theorem or {a b} : Statement (.or a b) := of_none _ rfl
theorem xor {a b} : Statement (.xor a b) := of_none _ rfl
theorem shl {a b} : Statement (.shl a b) := of_none _ rfl
theorem shr {a b} : Statement (.shr a b) := of_none _ rfl
theorem twosum {a b} : Statement (.twosum a b) := of_none _ rfl
theorem twoprod {a b} : Statement (.twoprod a b) := of_none _ rfl
theorem pairadd {a b} : Statement (.pairadd a b) := of_none _ rfl
theorem cmpeq {a b} : Statement (.cmpeq a b) := of_none _ rfl
theorem cmpne {a b} : Statement (.cmpne a b) := of_none _ rfl
theorem cmplt {a b} : Statement (.cmplt a b) := of_none _ rfl
theorem cmple {a b} : Statement (.cmple a b) := of_none _ rfl
theorem cmpgt {a b} : Statement (.cmpgt a b) := of_none _ rfl
theorem cmpge {a b} : Statement (.cmpge a b) := of_none _ rfl
theorem sel {a b} : Statement (.sel a b) := of_none _ rfl
theorem cls {a b} : Statement (.cls a b) := of_none _ rfl
theorem mand {a b} : Statement (.mand a b) := of_none _ rfl
theorem mor {a b} : Statement (.mor a b) := of_none _ rfl
theorem mnot {a b} : Statement (.mnot a b) := of_none _ rfl
theorem perm {a b} : Statement (.perm a b) := of_none _ rfl
theorem rot {a b} : Statement (.rot a b) := of_none _ rfl
theorem bfly {a b} : Statement (.bfly a b) := of_none _ rfl
theorem bcast {a b} : Statement (.bcast a b) := of_none _ rfl
theorem splat {a b} : Statement (.splat a b) := of_none _ rfl
theorem iota {a b} : Statement (.iota a b) := of_none _ rfl
theorem zip {a b} : Statement (.zip a b) := of_none _ rfl
theorem unzip {a b} : Statement (.unzip a b) := of_none _ rfl
theorem pack {a b} : Statement (.pack a b) := of_none _ rfl
theorem unpack {a b} : Statement (.unpack a b) := of_none _ rfl
theorem rsum {a b} : Statement (.rsum a b) := of_none _ rfl
theorem rprod {a b} : Statement (.rprod a b) := of_none _ rfl
theorem rmax {a b} : Statement (.rmax a b) := of_none _ rfl
theorem rmin {a b} : Statement (.rmin a b) := of_none _ rfl
theorem rargmax {a b} : Statement (.rargmax a b) := of_none _ rfl
theorem rargmin {a b} : Statement (.rargmin a b) := of_none _ rfl
theorem tfn {a b} : Statement (.tfn a b) := of_none _ rfl
theorem tder {a b} : Statement (.tder a b) := of_none _ rfl
theorem tload {a b} : Statement (.tload a b) := of_none _ rfl
theorem ld {a b} : Statement (.ld a b) := of_none _ rfl
theorem st {a b} : Statement (.st a b) := of_none _ rfl
theorem ldp {a b} : Statement (.ldp a b) := of_none _ rfl
theorem stp {a b} : Statement (.stp a b) := of_none _ rfl
theorem lds {a b} : Statement (.lds a b) := of_none _ rfl
theorem sts {a b} : Statement (.sts a b) := of_none _ rfl
theorem memQueueAccess {a b} : Statement (.memQueueAccess a b) := of_none _ rfl
theorem castingLoad {a b} : Statement (.castingLoad a b) := of_none _ rfl
theorem castingLoadComplete {a} : Statement (.castingLoadComplete a) := of_none _ rfl
theorem castingUnload {a b} : Statement (.castingUnload a b) := of_none _ rfl
theorem castingStop {a b} : Statement (.castingStop a b) := of_none _ rfl
theorem castingRun {a b} : Statement (.castingRun a b) := of_none _ rfl
theorem regionStop {a b} : Statement (.regionStop a b) := of_none _ rfl
theorem regionRun {a b} : Statement (.regionRun a b) := of_none _ rfl
theorem regionRecast {a b c} : Statement (.regionRecast a b c) := of_none _ rfl
theorem recastComplete {a} : Statement (.recastComplete a) := of_none _ rfl
theorem remap : Statement (.remap) := of_none _ rfl
theorem tilesRetiredClear {a b} : Statement (.tilesRetiredClear a b) := of_none _ rfl
theorem stepOpen : Statement (.stepOpen) := of_none _ rfl
theorem slotOpen : Statement (.slotOpen) := of_none _ rfl
theorem entryEnd {a} : Statement (.entryEnd a) := of_none _ rfl
theorem assayWordFinal : Statement (.assayWordFinal) := of_none _ rfl
theorem combinedAssayReceived {a b} : Statement (.combinedAssayReceived a b) := of_none _ rfl
theorem decisionRecordsHeld {a} : Statement (.decisionRecordsHeld a) := of_none _ rfl
theorem stepStop {a} : Statement (.stepStop a) := of_none _ rfl
theorem stepRun {a} : Statement (.stepRun a) := of_none _ rfl
theorem patinaEmpty {a b} : Statement (.patinaEmpty a b) := of_none _ rfl
theorem updateBegin : Statement (.updateBegin) := of_none _ rfl
theorem updateDone : Statement (.updateDone) := of_none _ rfl
theorem updateTableWrite {a b} : Statement (.updateTableWrite a b) := of_none _ rfl
theorem lrScheduleWrite {a b} : Statement (.lrScheduleWrite a b) := of_none _ rfl
theorem gatherRequest {a b c d} : Statement (.gatherRequest a b c d) := of_none _ rfl
theorem holdRelease {a b} : Statement (.holdRelease a b) := of_none _ rfl
theorem holdWaitExpiry {a} : Statement (.holdWaitExpiry a) := of_none _ rfl
theorem slowTierTimeout {a} : Statement (.slowTierTimeout a) := of_none _ rfl
theorem ckptExportStart {a} : Statement (.ckptExportStart a) := of_none _ rfl
theorem ckptExportEnd {a} : Statement (.ckptExportEnd a) := of_none _ rfl
theorem ckptImport {a b} : Statement (.ckptImport a b) := of_none _ rfl
theorem ptpMessage {a b} : Statement (.ptpMessage a b) := of_none _ rfl
theorem ptpAnnounceTimeout {a} : Statement (.ptpAnnounceTimeout a) := of_none _ rfl
theorem holdoverExpiry : Statement (.holdoverExpiry) := of_none _ rfl
theorem timeSet {a b} : Statement (.timeSet a b) := of_none _ rfl
theorem sillageSpill {a} : Statement (.sillageSpill a) := of_none _ rfl
theorem replayStart {a} : Statement (.replayStart a) := of_none _ rfl
theorem replayAbandon {a} : Statement (.replayAbandon a) := of_none _ rfl
theorem replayWaitExpiry : Statement (.replayWaitExpiry) := of_none _ rfl
theorem siteMapWrite {a b} : Statement (.siteMapWrite a b) := of_none _ rfl
theorem mapDigestReply {a b} : Statement (.mapDigestReply a b) := of_none _ rfl
theorem gatherIssue {a} : Statement (.gatherIssue a) := of_none _ rfl
theorem gatherResult {a b c} : Statement (.gatherResult a b c) := of_none _ rfl
theorem gatherRetryTimer {a} : Statement (.gatherRetryTimer a) := of_none _ rfl
theorem gatherWaitExpiry {a} : Statement (.gatherWaitExpiry a) := of_none _ rfl
theorem offloadTimeoutExpiry {a} : Statement (.offloadTimeoutExpiry a) := of_none _ rfl
theorem bzPortUp {a b} : Statement (.bzPortUp a b) := of_none _ rfl
theorem bzPortDown {a} : Statement (.bzPortDown a) := of_none _ rfl
theorem bzRetrainTimer {a} : Statement (.bzRetrainTimer a) := of_none _ rfl
theorem bzPortEnableWrite {a b c} : Statement (.bzPortEnableWrite a b c) := of_none _ rfl
theorem bzMessageFrame (a : Fin 8) (f : BzFrame) : Statement (.bzMessageFrame a f) := of_bz f
theorem bzAckFrame (a : Fin 8) (f : BzFrame) : Statement (.bzAckFrame a f) := of_bz f
theorem bzCreditFrame (a : Fin 8) (f : BzFrame) : Statement (.bzCreditFrame a f) := of_bz f
theorem bzOperandFrame (a : Fin 8) (f : BzFrame) : Statement (.bzOperandFrame a f) := of_bz f
theorem bzResultFrame (a : Fin 8) (f : BzFrame) : Statement (.bzResultFrame a f) := of_bz f
theorem bzTreeFrame (a : Fin 8) (f : BzFrame) : Statement (.bzTreeFrame a f) := of_bz f
theorem bzProbeFrame (a : Fin 8) (f : BzFrame) : Statement (.bzProbeFrame a f) := of_bz f
theorem bzRetryTimeout {a b} : Statement (.bzRetryTimeout a b) := of_none _ rfl
theorem bzProbeTimer : Statement (.bzProbeTimer) := of_none _ rfl
theorem bzCreditRepeat {a} : Statement (.bzCreditRepeat a) := of_none _ rfl
theorem bzModuleNumberWrite {a b} : Statement (.bzModuleNumberWrite a b) := of_none _ rfl
theorem bzDeadlineExpiry {a} : Statement (.bzDeadlineExpiry a) := of_none _ rfl
theorem roundTableWrite {a b} : Statement (.roundTableWrite a b) := of_none _ rfl
theorem rndGreeting {a b} : Statement (.rndGreeting a b) := of_none _ rfl
theorem contributionComplete {a b c} : Statement (.contributionComplete a b c) := of_none _ rfl
theorem rndWindowExpiry : Statement (.rndWindowExpiry) := of_none _ rfl
theorem accordHistoryExchange {a b} : Statement (.accordHistoryExchange a b) := of_none _ rfl
theorem ingotFetchStart {a} : Statement (.ingotFetchStart a) := of_none _ rfl
theorem ingotFetchAbandon {a} : Statement (.ingotFetchAbandon a) := of_none _ rfl
theorem ingotFetchRequest {a b} : Statement (.ingotFetchRequest a b) := of_none _ rfl
theorem ingotSectionReceived {a b} : Statement (.ingotSectionReceived a b) := of_none _ rfl
theorem ingotRoundAgreement {a} : Statement (.ingotRoundAgreement a) := of_none _ rfl
theorem ingotRetryTimer : Statement (.ingotRetryTimer) := of_none _ rfl
theorem slkPortUp {a} : Statement (.slkPortUp a) := of_none _ rfl
theorem slkPortDown {a} : Statement (.slkPortDown a) := of_none _ rfl
theorem slkPortRetryTimer {a} : Statement (.slkPortRetryTimer a) := of_none _ rfl
theorem slkPortEnableWrite {a b c} : Statement (.slkPortEnableWrite a b c) := of_none _ rfl
theorem slkHelloTimer : Statement (.slkHelloTimer) := of_none _ rfl
theorem slkHello (a : Fin 2) (f : SlkFrame) : Statement (.slkHello a f) := of_slk f
theorem slkProbeTimer : Statement (.slkProbeTimer) := of_none _ rfl
theorem slkProbeTimeout {a b} : Statement (.slkProbeTimeout a b) := of_none _ rfl
theorem slkDataPacket (a : Fin 2) (f : SlkFrame) : Statement (.slkDataPacket a f) := of_slk f
theorem slkParityPacket (a : Fin 2) (f : SlkFrame) : Statement (.slkParityPacket a f) := of_slk f
theorem slkAckPacket (a : Fin 2) (f : SlkFrame) : Statement (.slkAckPacket a f) := of_slk f
theorem slkProbePacket (a : Fin 2) (f : SlkFrame) : Statement (.slkProbePacket a f) := of_slk f
theorem slkRekey {a b} : Statement (.slkRekey a b) := of_none _ rfl
theorem slkRekeyIntervalExpiry {a b} : Statement (.slkRekeyIntervalExpiry a b) := of_none _ rfl
theorem slkGraceExpiry {a b} : Statement (.slkGraceExpiry a b) := of_none _ rfl
theorem slkFecGroupTimer {a b c} : Statement (.slkFecGroupTimer a b c) := of_none _ rfl
theorem slkFecHoldExpiry {a b c d} : Statement (.slkFecHoldExpiry a b c d) := of_none _ rfl
theorem slkAckTimer {a} : Statement (.slkAckTimer a) := of_none _ rfl
theorem slkResendTimer {a b c} : Statement (.slkResendTimer a b c) := of_none _ rfl
theorem slkRestart {a b} : Statement (.slkRestart a b) := of_none _ rfl
theorem slkFlowTableWrite {a b} : Statement (.slkFlowTableWrite a b) := of_none _ rfl
theorem cipherRequest {a b c} : Statement (.cipherRequest a b c) := fun h => by
  simp [WellFormed] at h; simp [carriedBytes, h]
theorem cipherCompletion : Statement (.cipherCompletion) := of_none _ rfl
theorem cipherKeyLoad {a b} : Statement (.cipherKeyLoad a b) := of_none _ rfl
theorem cipherKeyErase {a b} : Statement (.cipherKeyErase a b) := of_none _ rfl
theorem dmaStart {a b} : Statement (.dmaStart a b) := of_none _ rfl
theorem dmaStop {a b} : Statement (.dmaStop a b) := of_none _ rfl
theorem dmaPrivilegedStop {a} : Statement (.dmaPrivilegedStop a) := of_none _ rfl
theorem dmaDescriptorsWrite {a b c} : Statement (.dmaDescriptorsWrite a b c) := of_none _ rfl
theorem dmaTimerTrigger {a} : Statement (.dmaTimerTrigger a) := of_none _ rfl
theorem dmaHalfDone {a} : Statement (.dmaHalfDone a) := of_none _ rfl
theorem dmaPassComplete {a b} : Statement (.dmaPassComplete a b) := of_none _ rfl
theorem dmaCompletionsRead {a b} : Statement (.dmaCompletionsRead a b) := of_none _ rfl
theorem memPatrolScrub {a b} : Statement (.memPatrolScrub a b) := of_none _ rfl
theorem tempReadout {a b} : Statement (.tempReadout a b) := of_none _ rfl
theorem memRetireRequest {a b} : Statement (.memRetireRequest a b) := of_none _ rfl
theorem retireCopyComplete : Statement (.retireCopyComplete) := of_none _ rfl
theorem memRetiredClear {a b} : Statement (.memRetiredClear a b) := of_none _ rfl
theorem dapRequest {a b} : Statement (.dapRequest a b) := of_none _ rfl
theorem registerWrite {a b c d e} : Statement (.registerWrite a b c d e) := of_none _ rfl
theorem domainSegmentRead {a b c d e} : Statement (.domainSegmentRead a b c d e) := of_none _ rfl
theorem domainSegmentWrite {a b c d e f} : Statement (.domainSegmentWrite a b c d e f) := fun h => by
  have : f.length ≤ 4096 := of_decide_eq_true h
  simp only [carriedBytes]; omega
theorem domainIdleExpiry {a b c} : Statement (.domainIdleExpiry a b c) := of_none _ rfl
theorem eventAck {a b} : Statement (.eventAck a b) := of_none _ rfl
theorem eventResendTimer : Statement (.eventResendTimer) := of_none _ rfl
theorem resetRequestCold {a} : Statement (.resetRequestCold a) := of_none _ rfl
theorem resetRequestWarm {a} : Statement (.resetRequestWarm a) := of_none _ rfl
theorem resetRequestDelayExpiry : Statement (.resetRequestDelayExpiry) := of_none _ rfl
theorem watchdogExpiry : Statement (.watchdogExpiry) := of_none _ rfl
theorem core0Release {a} : Statement (.core0Release a) := of_none _ rfl
theorem firmwareSlotVerified {a} : Statement (.firmwareSlotVerified a) := of_none _ rfl
theorem processorsReleased : Statement (.processorsReleased) := of_none _ rfl
theorem lpddr6TrainingComplete {a} : Statement (.lpddr6TrainingComplete a) := of_none _ rfl
theorem lpddr6InitComplete : Statement (.lpddr6InitComplete) := of_none _ rfl
theorem selfTestsComplete {a} : Statement (.selfTestsComplete a) := of_none _ rfl
theorem modReadyAssert : Statement (.modReadyAssert) := of_none _ rfl
theorem keepingStateRestored {a} : Statement (.keepingStateRestored a) := of_none _ rfl
theorem fwInstall {a b} : Statement (.fwInstall a b) := of_none _ rfl
theorem fwInstallComplete {a} : Statement (.fwInstallComplete a) := of_none _ rfl
theorem fwActivate {a b} : Statement (.fwActivate a b) := of_none _ rfl
theorem pufEnrol {a b} : Statement (.pufEnrol a b) := of_none _ rfl
theorem hallmarkNonce {a b} : Statement (.hallmarkNonce a b) := of_none _ rfl
theorem hallmarkQuoteComplete : Statement (.hallmarkQuoteComplete) := of_none _ rfl
theorem configRecordsWrite {a b} : Statement (.configRecordsWrite a b) := of_none _ rfl
theorem peerEnrol {a b} : Statement (.peerEnrol a b) := of_none _ rfl
theorem faultLogCopy {a} : Statement (.faultLogCopy a) := of_none _ rfl
theorem stickyFamilyClear {a b c} : Statement (.stickyFamilyClear a b c) := of_none _ rfl
theorem regionStickyClear {a b c} : Statement (.regionStickyClear a b c) := of_none _ rfl
theorem rejoin {a} : Statement (.rejoin a) := of_none _ rfl
theorem parkedRetry {a} : Statement (.parkedRetry a) := of_none _ rfl
theorem tileTest {a} : Statement (.tileTest a) := of_none _ rfl
theorem scrubNow {a} : Statement (.scrubNow a) := of_none _ rfl
theorem logFlush {a} : Statement (.logFlush a) := of_none _ rfl
theorem serviceOpComplete {a} : Statement (.serviceOpComplete a) := of_none _ rfl
theorem seatedNRelease : Statement (.seatedNRelease) := of_none _ rfl
theorem timeUnitStart : Statement (.timeUnitStart) := of_none _ rfl
theorem mgmtLinkChange {a} : Statement (.mgmtLinkChange a) := of_none _ rfl
theorem ptpTransmitTimer {a b} : Statement (.ptpTransmitTimer a b) := of_none _ rfl

end Sys2Proof.Laws.OperandBounds
end

