-- ==== Sys2Proof/Laws/Power.lean ====
section
/-! SUPPORT.  What leaves the power part of the module alone: for each shared operation and each
meaning that cannot change the power phase or what the rule of power reads beside it (the seat,
the power enable, the input, the thermal latch), one lemma that says so.  The operations that do
change it (power up, power down, the input's loss, a coolant reading, a stop on temperature, a
write of the control registers) have none here. -/

namespace Sys2Proof.Machine

/-- What the power rule reads of the module. -/
def Chip.powerPart (c : Chip) : PowerPhase × Bool × Bool × Bool × Bool :=
  (c.board.phase, c.board.seated, c.board.pwrEn, c.board.inputOk, c.board.thermalLatch)

/-- The same of a board. -/
def Board.powerPart (b : Board) : PowerPhase × Bool × Bool × Bool × Bool := (b.phase, b.seated, b.pwrEn, b.inputOk, b.thermalLatch)

@[simp ↓] theorem Board.powerPart_chip (c : Chip) : c.board.powerPart = c.powerPart := id rfl

@[simp ↓] theorem Chip.mk_pow (regs : Sparse Nat) (blobs : Sparse Bytes) (board : Board) (start : StartSeq) (time : TimeUnit) (gov : Governor) (array : TileArray) (mem : Lpddr6) (step : StepSeq) (upd : UpdateUnit) (sil : Sillage) (map : SiteMap) (bz : Braze) (rnd : Rounds) (slk : SiteLinks) (cipher : Cipher) (dma : Sparse DmaChannel) (linkMem : List Host.Cell) (dap : DapServer) (flt : FaultLog) (emmc : Emmc) (ident : Identity) (svc : Service) (out : List Out) (free : Nat) :
    (Chip.mk regs blobs board start time gov array mem step upd sil map bz rnd slk cipher dma linkMem dap flt emmc ident svc out free).powerPart = board.powerPart := id rfl

theorem pairPow {α : Type} {p : α × Chip} {a : α} {c : Chip} (h : p = (a, c)) : c.powerPart = p.2.powerPart := by rw [h]

@[simp ↓] theorem each_pow {α : Type} (c : Chip) (l : List α) (f : Chip → α → Chip)
    (h : ∀ c x, (f c x).powerPart = c.powerPart) : (c.each l f).powerPart = c.powerPart := Chip.each_keeps _ f h l c

@[simp ↓] theorem foldl_pow {α : Type} (c : Chip) (l : List α) (f : Chip → α → Chip)
    (h : ∀ c x, (f c x).powerPart = c.powerPart) : (l.foldl f c).powerPart = c.powerPart := Chip.each_keeps _ f h l c

@[simp ↓] theorem ite_pow (p : Prop) [Decidable p] (a b : Chip) :
    (if p then a else b).powerPart = if p then a.powerPart else b.powerPart := by split <;> rfl

@[simp ↓] theorem ite_snd_pow {α : Type} (p : Prop) [Decidable p] (a b : α × Chip) :
    (if p then a else b).2.powerPart = if p then a.2.powerPart else b.2.powerPart := by split <;> rfl

@[simp ↓] theorem foldl_snd_pow {α β : Type} (l : List α) (f : β × Chip → α → β × Chip)
    (h : ∀ a x, (f a x).2.powerPart = a.2.powerPart) (a : β × Chip) : (l.foldl f a).2.powerPart = a.2.powerPart := by
  induction l generalizing a with
  | nil => rfl
  | cons x r ih => exact (ih (f a x)).trans (h a x)

@[simp ↓] theorem Chip.setReg_pow (c : Chip) (k v : Nat) : (Chip.setReg c k v).powerPart = c.powerPart := id rfl

@[simp ↓] theorem Chip.count_pow (c : Chip) (k n w : Nat) : (Chip.count c k n w).powerPart = c.powerPart := id rfl

@[simp ↓] theorem Chip.setBlob_pow (c : Chip) (k : Nat) (b : Bytes) : (Chip.setBlob c k b).powerPart = c.powerPart := id rfl

@[simp ↓] theorem Chip.dropRegs_pow (c : Chip) (p : Nat → Bool) : (Chip.dropRegs c p).powerPart = c.powerPart := id rfl

@[simp ↓] theorem Chip.dropBlobs_pow (c : Chip) (p : Nat → Bool) : (Chip.dropBlobs c p).powerPart = c.powerPart := id rfl

@[simp ↓] theorem Chip.emit_pow (c : Chip) (o : Out) : (Chip.emit c o).powerPart = c.powerPart := id rfl

@[simp ↓] theorem Chip.freeNat_pow (c : Chip) (w : Nat) : (Chip.freeNat c w).2.powerPart = c.powerPart := id rfl

@[simp ↓] theorem Chip.freeBytes_pow (c : Chip) (n : Nat) : (Chip.freeBytes c n).2.powerPart = c.powerPart := id rfl

@[simp ↓] theorem Chip.pushRecord_pow (c : Chip) (r : Bytes) : (Chip.pushRecord c r).powerPart = c.powerPart := by
  unfold Chip.pushRecord
  simp

@[simp ↓] theorem Chip.appendRecord_pow (c : Chip) (kind flags : Nat) (sections : List Bytes) (time : Int) (mono : Nat) : (Chip.appendRecord c kind flags sections time mono).powerPart = c.powerPart := by
  unfold Chip.appendRecord
  simp

@[simp ↓] theorem Chip.sillageEvent_pow (c : Chip) (code unit addr detail : Nat) : (Chip.sillageEvent c code unit addr detail).powerPart = c.powerPart := by
  unfold Chip.sillageEvent
  simp

@[simp ↓] theorem Chip.setReq_pow (c : Chip) (n : Nat) (r : ReqState) : (Chip.setReq c n r).powerPart = c.powerPart := id rfl

@[simp ↓] theorem Chip.emitEvent_pow (c : Chip) (n : Nat) (e : Event) : (Chip.emitEvent c n e).powerPart = c.powerPart := by
  unfold Chip.emitEvent
  simp

@[simp ↓] theorem Chip.sendEvent_pow (c : Chip) (n : Nat) (e : Event) : (Chip.sendEvent c n e).powerPart = c.powerPart := by
  unfold Chip.sendEvent
  simp

@[simp ↓] theorem Chip.event_pow (c : Chip) (code key detail addr : Nat) : (Chip.event c code key detail addr).powerPart = c.powerPart := by
  unfold Chip.event
  simp

@[simp ↓] theorem Chip.flushEarly_pow (c : Chip) : (Chip.flushEarly c).powerPart = c.powerPart := by
  unfold Chip.flushEarly
  simp

@[simp ↓] theorem Chip.complete_pow (c : Chip) (o : Origin) (key reason addr : Nat) : (Chip.complete c o key reason addr).powerPart = c.powerPart := by
  unfold Chip.complete
  simp

@[simp ↓] theorem Chip.completeFailed_pow (c : Chip) (o : Origin) (key addr : Nat) : (Chip.completeFailed c o key addr).powerPart = c.powerPart := by
  unfold Chip.completeFailed
  simp

@[simp ↓] theorem Chip.completeOpt_pow (c : Chip) (o : Option Origin) (key reason addr : Nat) : (Chip.completeOpt c o key reason addr).powerPart = c.powerPart := by
  unfold Chip.completeOpt
  (repeat' split) <;> simp

@[simp ↓] theorem Chip.completeAll_pow (c : Chip) (l : List Origin) (key reason addr : Nat) : (Chip.completeAll c l key reason addr).powerPart = c.powerPart := by
  unfold Chip.completeAll
  simp

@[simp ↓] theorem Chip.logOne_pow (c : Chip) (u : Unit2) (code region addr detail : Nat) : (Chip.logOne c u code region addr detail).powerPart = c.powerPart := by
  unfold Chip.logOne
  simp

@[simp ↓] theorem Chip.setSticky_pow (c : Chip) (f mask : Nat) : (Chip.setSticky c f mask).powerPart = c.powerPart := by
  unfold Chip.setSticky
  simp

@[simp ↓] theorem Chip.overrun_pow (c : Chip) (before : Nat) : (Chip.overrun c before).powerPart = c.powerPart := by
  unfold Chip.overrun
  simp

@[simp ↓] theorem Chip.log_pow (c : Chip) (u : Unit2) (code region addr detail : Nat) : (Chip.log c u code region addr detail).powerPart = c.powerPart := by
  unfold Chip.log
  simp

@[simp ↓] theorem Chip.record_pow (c : Chip) (kind flags : Nat) (sections : List Bytes) (time : Int) (mono : Nat) : (Chip.record c kind flags sections time mono).powerPart = c.powerPart := by
  unfold Chip.record
  simp

@[simp ↓] theorem Chip.occur_pow (c : Chip) (f b : Nat) (u : Unit2) (region addr detail : Nat) : (Chip.occur c f b u region addr detail).powerPart = c.powerPart := by
  unfold Chip.occur
  simp

@[simp ↓] theorem Chip.occurCode_pow (c : Chip) (f b : Nat) (u : Unit2) (code region addr detail : Nat) : (Chip.occurCode c f b u code region addr detail).powerPart = c.powerPart := by
  unfold Chip.occurCode
  simp

@[simp ↓] theorem Chip.setRegionSticky_pow (c : Chip) (h mask : Nat) : (Chip.setRegionSticky c h mask).powerPart = c.powerPart := by
  unfold Chip.setRegionSticky
  simp

@[simp ↓] theorem Chip.occurRegion_pow (c : Chip) (h b : Nat) (u : Unit2) (addr detail : Nat) : (Chip.occurRegion c h b u addr detail).powerPart = c.powerPart := by
  unfold Chip.occurRegion
  simp

@[simp ↓] theorem Chip.occurRegionMask_pow (c : Chip) (h mask : Nat) (u : Unit2) (addr : Nat) : (Chip.occurRegionMask c h mask u addr).powerPart = c.powerPart := by
  unfold Chip.occurRegionMask
  simp

@[simp ↓] theorem Chip.setTile_pow (c : Chip) (t : Nat) (x : Tile) : (Chip.setTile c t x).powerPart = c.powerPart := id rfl

@[simp ↓] theorem Chip.assay_pow (c : Chip) (h : Nat) (n : AssayNote) : (Chip.assay c h n).powerPart = c.powerPart := by
  unfold Chip.assay
  (repeat' split) <;> simp

@[simp ↓] theorem Chip.raise_pow (c : Chip) (h mask addr : Nat) : (Chip.raise c h mask addr).powerPart = c.powerPart := by
  unfold Chip.raise
  simp

@[simp ↓] theorem Chip.bzRefreshState_pow (c : Chip) : (Chip.bzRefreshState c).powerPart = c.powerPart := id rfl

@[simp ↓] theorem Chip.setBzFlow_pow (c : Chip) (peer : Nat) (f : BzFlow) : (Chip.setBzFlow c peer f).powerPart = c.powerPart := id rfl

@[simp ↓] theorem Chip.bzEmit_pow (c : Chip) (p : Nat) (f : BzFrame) : (Chip.bzEmit c p f).powerPart = c.powerPart := id rfl

@[simp ↓] theorem Chip.bzTransmit_pow (c : Chip) (peer : Nat) (f : BzFrame) : (Chip.bzTransmit c peer f).powerPart = c.powerPart := by
  unfold Chip.bzTransmit
  (repeat' split) <;> simp

@[simp ↓] theorem Chip.bzSendLoose_pow (c : Chip) (cls peer channel msg offset : Nat) (payload : Bytes) : (Chip.bzSendLoose c cls peer channel msg offset payload).powerPart = c.powerPart := by
  unfold Chip.bzSendLoose
  simp

@[simp ↓] theorem Chip.bzLaunch_pow (c : Chip) (peer : Nat) (f : BzFrame) : (Chip.bzLaunch c peer f).powerPart = c.powerPart := by
  unfold Chip.bzLaunch
  simp

@[simp ↓] theorem Chip.bzDrain_pow (c : Chip) (peer : Nat) (x0 : Nat) : (Chip.bzDrain c peer x0).powerPart = c.powerPart := by
  induction x0 generalizing c with
  | zero => simp [Chip.bzDrain]
  | succ n ih =>
    simp only [Chip.bzDrain]
    (repeat' split) <;> (try simp [ih]) <;> (try (refine (pairPow (by assumption)).trans ?_)) <;> (try simp [ih]) <;> (try (refine (pairPow (by assumption)).trans ?_)) <;> (try simp [ih]) <;> (try (refine (pairPow (by assumption)).trans ?_)) <;> (try simp [ih])

@[simp ↓] theorem Chip.bzSend_pow (c : Chip) (peer : Nat) (f : BzFrame) : (Chip.bzSend c peer f).powerPart = c.powerPart := by
  unfold Chip.bzSend
  simp

@[simp ↓] theorem Chip.bzSendFrom_pow (c : Chip) (cls flags peer channel msg off k fmt : Nat) (ends : Bool) (data : Bytes) : (Chip.bzSendFrom c cls flags peer channel msg off k fmt ends data).powerPart = c.powerPart := by
  unfold Chip.bzSendFrom
  simp

@[simp ↓] theorem Chip.bzSendBytes_pow (c : Chip) (cls flags peer channel msg k fmt : Nat) (data : Bytes) : (Chip.bzSendBytes c cls flags peer channel msg k fmt data).powerPart = c.powerPart := by
  unfold Chip.bzSendBytes
  simp

@[simp ↓] theorem Chip.setBzCredit_pow (c : Chip) (n : Nat) (x : BzCredit) : (Chip.setBzCredit c n x).powerPart = c.powerPart := id rfl

@[simp ↓] theorem Chip.grantCredits_pow (c : Chip) (slot route n : Nat) : (Chip.grantCredits c slot route n).powerPart = c.powerPart := by
  simp only [Chip.grantCredits]
  (repeat' split) <;> simp

@[simp ↓] theorem Chip.setTreeNode_pow (c : Chip) (t : TreeNode) : (Chip.setTreeNode c t).powerPart = c.powerPart := id rfl

@[simp ↓] theorem Chip.treeDown_pow (c : Chip) (t : TreeNode) (r : Bytes) : (Chip.treeDown c t r).powerPart = c.powerPart := by
  unfold Chip.treeDown
  simp

@[simp ↓] theorem Chip.treeAdvance_pow (c : Chip) (number step : Nat) : (Chip.treeAdvance c number step).powerPart = c.powerPart := by
  simp only [Chip.treeAdvance]
  (repeat' split) <;> simp

@[simp ↓] theorem Chip.treeAbort_pow (c : Chip) (number step word : Nat) : (Chip.treeAbort c number step word).powerPart = c.powerPart := by
  unfold Chip.treeAbort
  simp

@[simp ↓] theorem Chip.treeContributeAt_pow (c : Chip) (n step : Nat) (own : Bytes) : (Chip.treeContributeAt c n step own).powerPart = c.powerPart := by
  unfold Chip.treeContributeAt
  simp

@[simp ↓] theorem Chip.treeContribute_pow (c : Chip) (kind step : Nat) (own : Bytes) : (Chip.treeContribute c kind step own).powerPart = c.powerPart := by
  unfold Chip.treeContribute
  simp

@[simp ↓] theorem Chip.setWordBits_pow (c : Chip) (mask : Nat) : (Chip.setWordBits c mask).powerPart = c.powerPart := id rfl

@[simp ↓] theorem Chip.setHolds_pow (c : Chip) (shard slot n : Nat) : (Chip.setHolds c shard slot n).powerPart = c.powerPart := id rfl

@[simp ↓] theorem Chip.releaseHold_pow (c : Chip) (g : Gather) : (Chip.releaseHold c g).powerPart = c.powerPart := by
  unfold Chip.releaseHold
  (repeat' split) <;> simp

@[simp ↓] theorem Chip.releaseHolds_pow (c : Chip) : (Chip.releaseHolds c).powerPart = c.powerPart := by
  unfold Chip.releaseHolds
  simp

@[simp ↓] theorem Chip.contribute_pow (c : Chip) : (Chip.contribute c).powerPart = c.powerPart := by
  unfold Chip.contribute
  simp

@[simp ↓] theorem Chip.abort_pow (c : Chip) (b addr : Nat) : (Chip.abort c b addr).powerPart = c.powerPart := by
  unfold Chip.abort
  simp

@[simp ↓] theorem Chip.tilesToIdle_pow (c : Chip) : (Chip.tilesToIdle c).powerPart = c.powerPart := id rfl

@[simp ↓] theorem Chip.haltStepping_pow (c : Chip) (state : Nat) : (Chip.haltStepping c state).powerPart = c.powerPart := id rfl

@[simp ↓] theorem Chip.retireTile_pow (c : Chip) (p : Nat) : (Chip.retireTile c p).powerPart = c.powerPart := by
  simp only [Chip.retireTile]
  (repeat' split) <;> simp

@[simp ↓] theorem Chip.tileOccur_pow (c : Chip) (tile b addr detail : Nat) : (Chip.tileOccur c tile b addr detail).powerPart = c.powerPart := by
  unfold Chip.tileOccur
  (repeat' split) <;> simp

@[simp ↓] theorem Chip.tileFault_pow (c : Chip) (tile b addr detail : Nat) : (Chip.tileFault c tile b addr detail).powerPart = c.powerPart := by
  simp only [Chip.tileFault]
  (repeat' split) <;> simp

@[simp ↓] theorem Chip.eccCheck_pow (c : Chip) (tile addr : Nat) (e : EccRead) : (Chip.eccCheck c tile addr e).2.powerPart = c.powerPart := by
  unfold Chip.eccCheck
  simp

@[simp ↓] theorem Chip.writeD_pow (c : Chip) (tile : Nat) : (Chip.writeD c tile).powerPart = c.powerPart := by
  simp only [Chip.writeD]
  (repeat' split) <;> simp

@[simp ↓] theorem Chip.writeAllD_pow (c : Chip) (tile : Nat) : (Chip.writeAllD c tile).powerPart = c.powerPart := by
  unfold Chip.writeAllD
  simp

@[simp ↓] theorem Chip.awaitD_pow (c : Chip) (tile addr n : Nat) : (Chip.awaitD c tile addr n).powerPart = c.powerPart := by
  unfold Chip.awaitD
  simp

@[simp ↓] theorem Chip.accessFront_pow (c : Chip) (tile : Nat) (e : EccRead) : (Chip.accessFront c tile e).powerPart = c.powerPart := by
  unfold Chip.accessFront
  (repeat' split) <;> simp

@[simp ↓] theorem Chip.accessN_pow (c : Chip) (tile : Nat) (x0 : Nat) : (Chip.accessN c tile x0).powerPart = c.powerPart := by
  induction x0 generalizing c with
  | zero => simp [Chip.accessN]
  | succ n ih =>
    simp only [Chip.accessN]
    (repeat' split) <;> (try simp [ih]) <;> (try (refine (pairPow (by assumption)).trans ?_)) <;> (try simp [ih]) <;> (try (refine (pairPow (by assumption)).trans ?_)) <;> (try simp [ih]) <;> (try (refine (pairPow (by assumption)).trans ?_)) <;> (try simp [ih])

@[simp ↓] theorem Chip.settle_pow (c : Chip) (tile : Nat) (f : VFields) : (Chip.settle c tile f).powerPart = c.powerPart := by
  unfold Chip.settle
  simp

@[simp ↓] theorem Chip.deliver_pow (c : Chip) (tile queue : Nat) (data : Bytes) : (Chip.deliver c tile queue data).2.powerPart = c.powerPart := by
  simp only [Chip.deliver]
  (repeat' split) <;> simp

@[simp ↓] theorem Chip.vInvalid_pow (c : Chip) (tile : Nat) : (Chip.vInvalid c tile).powerPart = c.powerPart := by
  unfold Chip.vInvalid
  simp

@[simp ↓] theorem Chip.vApply_pow (c : Chip) (tile : Nat) (e : VEff) (pc : Nat) : (Chip.vApply c tile e pc).powerPart = c.powerPart := by
  unfold Chip.vApply
  simp

@[simp ↓] theorem Chip.vInstr_pow (c : Chip) (tile : Nat) (f : VFields) (r : VRule) (g : VRegs) (extra : VIn → VFields → Tile → Bool) (body : VBody) : (Chip.vInstr c tile f r g extra body).powerPart = c.powerPart := by
  unfold Chip.vInstr
  simp

@[simp ↓] theorem Chip.vLoopInstr_pow (c : Chip) (tile : Nat) (f : VFields) : (Chip.vLoopInstr c tile f).powerPart = c.powerPart := by
  unfold Chip.vLoopInstr
  simp

@[simp ↓] theorem Chip.vWaitq_pow (c : Chip) (tile : Nat) (f : VFields) : (Chip.vWaitq c tile f).powerPart = c.powerPart := by
  simp only [Chip.vWaitq]
  (repeat' split) <;> simp

@[simp ↓] theorem Chip.vWaitqReady_pow (c : Chip) (tile : Nat) : (Chip.vWaitqReady c tile).powerPart = c.powerPart := by
  simp only [Chip.vWaitqReady]
  (repeat' split) <;> simp

@[simp ↓] theorem Chip.vRelease_pow (c : Chip) (tile : Nat) (f : VFields) : (Chip.vRelease c tile f).powerPart = c.powerPart := by
  simp only [Chip.vRelease]
  (repeat' split) <;> simp

@[simp ↓] theorem Chip.vMxwait_pow (c : Chip) (tile : Nat) (f : VFields) : (Chip.vMxwait c tile f).powerPart = c.powerPart := by
  unfold Chip.vMxwait
  simp

@[simp ↓] theorem Chip.vHalt_pow (c : Chip) (tile : Nat) (f : VFields) : (Chip.vHalt c tile f).powerPart = c.powerPart := by
  unfold Chip.vHalt
  simp

@[simp ↓] theorem Chip.vTableFault_pow (c : Chip) (tile detail : Nat) : (Chip.vTableFault c tile detail).powerPart = c.powerPart := by
  unfold Chip.vTableFault
  simp

@[simp ↓] theorem Chip.vTableInstr_pow (c : Chip) (tile : Nat) (f : VFields) (body : VBody) : (Chip.vTableInstr c tile f body).powerPart = c.powerPart := by
  simp only [Chip.vTableInstr]
  (repeat' split) <;> simp

@[simp ↓] theorem Chip.vAddrFault_pow (c : Chip) (tile addr : Nat) : (Chip.vAddrFault c tile addr).powerPart = c.powerPart := by
  unfold Chip.vAddrFault
  simp

@[simp ↓] theorem Chip.vMemory_pow (c : Chip) (tile : Nat) (f : VFields) (g : VRegs) (align n : Nat) (op : Tile → Nat → MemOp) : (Chip.vMemory c tile f g align n op).powerPart = c.powerPart := by
  unfold Chip.vMemory
  simp

@[simp ↓] theorem Chip.vTload_pow (c : Chip) (tile : Nat) (f : VFields) : (Chip.vTload c tile f).powerPart = c.powerPart := by
  unfold Chip.vTload
  simp

@[simp ↓] theorem Chip.store_pow (c : Chip) (d : ObjDef) (key : Nat) (b : Bytes) : (Chip.store c d key b).powerPart = c.powerPart := by
  unfold Chip.store
  simp

@[simp ↓] theorem Chip.refuse_pow (c : Chip) (key status : Nat) : (Chip.refuse c key status).powerPart = c.powerPart := by
  unfold Chip.refuse
  simp

@[simp ↓] theorem Chip.answer_pow (c : Chip) (rq key status : Nat) (value : Bytes) : (Chip.answer c rq key status value).powerPart = c.powerPart := id rfl

@[simp ↓] theorem Chip.refreshPps_pow (c : Chip) : (Chip.refreshPps c).powerPart = c.powerPart := id rfl

@[simp ↓] theorem Chip.stepTime_pow (c : Chip) (d : Int) : (Chip.stepTime c d).powerPart = c.powerPart := by
  unfold Chip.stepTime
  simp

@[simp ↓] theorem Chip.steer_pow (c : Chip) (d : Int) : (Chip.steer c d).powerPart = c.powerPart := by
  unfold Chip.steer
  simp

@[simp ↓] theorem Chip.tick_pow (c : Chip) : (Chip.tick c).powerPart = c.powerPart := by
  unfold Chip.tick
  simp

@[simp ↓] theorem Chip.retime_pow (c : Chip) : (Chip.retime c).powerPart = c.powerPart := by
  unfold Chip.retime
  simp

@[simp ↓] theorem Chip.ppsEdge_pow (c : Chip) (i : PpsInput) : (Chip.ppsEdge c i).powerPart = c.powerPart := by
  unfold Chip.ppsEdge
  simp

@[simp ↓] theorem Chip.ppsLoss_pow (c : Chip) (i : PpsInput) : (Chip.ppsLoss c i).powerPart = c.powerPart := by
  unfold Chip.ppsLoss
  simp

@[simp ↓] theorem Chip.holdoverEnd_pow (c : Chip) : (Chip.holdoverEnd c).powerPart = c.powerPart := by
  unfold Chip.holdoverEnd
  simp

@[simp ↓] theorem Chip.ptpDecide_pow (c : Chip) : (Chip.ptpDecide c).powerPart = c.powerPart := by
  unfold Chip.ptpDecide
  simp

@[simp ↓] theorem Chip.setPort_pow (c : Chip) (p : Nat) (x : PtpPort) : (Chip.setPort c p x).powerPart = c.powerPart := id rfl

@[simp ↓] theorem Chip.ptpTime_pow (c : Chip) (p : Nat) (d : Int) : (Chip.ptpTime c p d).powerPart = c.powerPart := by
  unfold Chip.ptpTime
  simp

@[simp ↓] theorem Chip.ptpMessage_pow (c : Chip) (p : Nat) (m : PtpMessage) : (Chip.ptpMessage c p m).powerPart = c.powerPart := by
  simp only [Chip.ptpMessage]
  (repeat' split) <;> simp

@[simp ↓] theorem Chip.announceTimeout_pow (c : Chip) (p : Nat) : (Chip.announceTimeout c p).powerPart = c.powerPart := by
  unfold Chip.announceTimeout
  simp

@[simp ↓] theorem Chip.ptpTransmit_pow (c : Chip) (p : Nat) (w : PtpSend) : (Chip.ptpTransmit c p w).powerPart = c.powerPart := by
  unfold Chip.ptpTransmit
  (repeat' split) <;> simp

@[simp ↓] theorem Chip.startRecord_pow (c : Chip) : (Chip.startRecord c).powerPart = c.powerPart := by
  unfold Chip.startRecord
  simp

@[simp ↓] theorem Chip.stepRecord_pow (c : Chip) (outcome combined flags : Nat) (compare : Bytes) : (Chip.stepRecord c outcome combined flags compare).powerPart = c.powerPart := by
  unfold Chip.stepRecord
  simp

@[simp ↓] theorem Chip.spill_pow (c : Chip) (written : Outcome1) : (Chip.spill c written).powerPart = c.powerPart := by
  unfold Chip.spill
  (repeat' split) <;> simp

@[simp ↓] theorem Chip.fingerprint_pow (c : Chip) (key shard point fmt rate : Nat) (els : List (List Num)) (stored : Bytes) : (Chip.fingerprint c key shard point fmt rate els stored).powerPart = c.powerPart := by
  unfold Chip.fingerprint
  simp

@[simp ↓] theorem Chip.watchMessage_pow (c : Chip) (slot route : Nat) (b : Bytes) : (Chip.watchMessage c slot route b).powerPart = c.powerPart := by
  unfold Chip.watchMessage
  (repeat' split) <;> simp

@[simp ↓] theorem Chip.mxSettle_pow (c : Chip) (tile : Nat) (m : MxCmd) : (Chip.mxSettle c tile m).powerPart = c.powerPart := by
  unfold Chip.mxSettle
  simp

@[simp ↓] theorem Chip.mxInvalid_pow (c : Chip) (tile : Nat) : (Chip.mxInvalid c tile).powerPart = c.powerPart := by
  unfold Chip.mxInvalid
  simp

@[simp ↓] theorem Chip.mxIssue_pow (c : Chip) (tile : Nat) (m : MxCmd) (ecc : EccRead) : (Chip.mxIssue c tile m ecc).powerPart = c.powerPart := by
  unfold Chip.mxIssue
  simp

@[simp ↓] theorem Chip.mma_pow (c : Chip) (tile : Nat) (w : Nat) (ecc : EccRead) : (Chip.mma c tile w ecc).powerPart = c.powerPart := by
  unfold Chip.mma
  simp

@[simp ↓] theorem Chip.mmaDWritten_pow (c : Chip) (tile : Nat) : (Chip.mmaDWritten c tile).powerPart = c.powerPart := by
  unfold Chip.mmaDWritten
  simp

@[simp ↓] theorem Chip.flitReceive_pow (c : Chip) (tile addr : Nat) (data : Bytes) : (Chip.flitReceive c tile addr data).powerPart = c.powerPart := by
  simp only [Chip.flitReceive]
  (repeat' split) <;> simp

@[simp ↓] theorem Chip.messageSend_pow (c : Chip) (tile queue : Nat) : (Chip.messageSend c tile queue).powerPart = c.powerPart := by
  simp only [Chip.messageSend]
  (repeat' split) <;> simp

@[simp ↓] theorem Chip.afterReset_pow (c : Chip) (k : ResetKind) : (Chip.afterReset c k).powerPart = c.powerPart := id rfl

@[simp ↓] theorem Chip.takeReset_pow (c : Chip) (asked : ResetKind) : (Chip.takeReset c asked).powerPart = c.powerPart := by
  unfold Chip.takeReset
  simp

@[simp ↓] theorem Chip.runMark_pow (c : Chip) (v : Bool) : (Chip.runMark c v).powerPart = c.powerPart := id rfl

@[simp ↓] theorem Chip.refreshMark_pow (c : Chip) : (Chip.refreshMark c).powerPart = c.powerPart := id rfl

@[simp ↓] theorem Chip.refreshLocate_pow (c : Chip) : (Chip.refreshLocate c).powerPart = c.powerPart := id rfl

@[simp ↓] theorem Chip.refreshLimit_pow (c : Chip) : (Chip.refreshLimit c).powerPart = c.powerPart := id rfl

@[simp ↓] theorem Chip.takeTelemetry_pow (c : Chip) (r : Telemetry) : (Chip.takeTelemetry c r).powerPart = c.powerPart := id rfl

@[simp ↓] theorem Chip.refreshFaultN_pow (c : Chip) : (Chip.refreshFaultN c).powerPart = c.powerPart := id rfl

@[simp ↓] theorem Chip.coolantRows_pow (c : Chip) (r : Telemetry) : (Chip.coolantRows c r).powerPart = c.powerPart := by
  unfold Chip.coolantRows
  simp
  rfl

@[simp ↓] theorem Chip.speedWindow_pow (c : Chip) (w l : List Nat) : (Chip.speedWindow c w l).powerPart = c.powerPart := by
  unfold Chip.speedWindow
  simp

@[simp ↓] theorem Chip.govern_pow (c : Chip) (power tj link : F32) : (Chip.govern c power tj link).powerPart = c.powerPart := by
  unfold Chip.govern
  simp

@[simp ↓] theorem Chip.refreshMem_pow (c : Chip) : (Chip.refreshMem c).powerPart = c.powerPart := id rfl

@[simp ↓] theorem Chip.spreadFootprint_pow (c : Chip) (casting : Nat) (groups : List Nat) (n : Nat) : (Chip.spreadFootprint c casting groups n).powerPart = c.powerPart := by
  unfold Chip.spreadFootprint
  rw [foldl_snd_pow]
  intro a x
  unfold spreadInto
  (repeat' split) <;> simp

@[simp ↓] theorem Chip.placeFootprint_pow (c : Chip) (casting n : Nat) : (Chip.placeFootprint c casting n).powerPart = c.powerPart := by
  unfold Chip.placeFootprint
  (repeat' split) <;> simp

@[simp ↓] theorem Chip.dropFootprint_pow (c : Chip) (casting : Nat) : (Chip.dropFootprint c casting).powerPart = c.powerPart := id rfl

@[simp ↓] theorem Chip.startRetire_pow (c : Chip) (x0 : Nat) : (Chip.startRetire c x0).powerPart = c.powerPart := by
  induction x0 generalizing c with
  | zero => simp [Chip.startRetire]
  | succ n ih =>
    simp only [Chip.startRetire]
    (repeat' split) <;> (try simp [ih]) <;> (try (refine (pairPow (by assumption)).trans ?_)) <;> (try simp [ih]) <;> (try (refine (pairPow (by assumption)).trans ?_)) <;> (try simp [ih]) <;> (try (refine (pairPow (by assumption)).trans ?_)) <;> (try simp [ih])

@[simp ↓] theorem Chip.retireNext_pow (c : Chip) : (Chip.retireNext c).powerPart = c.powerPart := by
  unfold Chip.retireNext
  simp

@[simp ↓] theorem Chip.addCandidate_pow (c : Chip) (q : Nat) (o : Option Origin) : (Chip.addCandidate c q o).powerPart = c.powerPart := by
  unfold Chip.addCandidate
  simp

@[simp ↓] theorem Chip.countCorrected_pow (c : Chip) (q : Nat) : (Chip.countCorrected c q).powerPart = c.powerPart := by
  unfold Chip.countCorrected
  simp

@[simp ↓] theorem Chip.putBurst_pow (c : Chip) (a : Nat) (d : Bytes) (t : BurstTag) : (Chip.putBurst c a d t).powerPart = c.powerPart := id rfl

@[simp ↓] theorem Chip.countBursts_pow (c : Chip) (g n : Nat) : (Chip.countBursts c g n).powerPart = c.powerPart := by
  unfold Chip.countBursts
  simp

@[simp ↓] theorem Chip.countPort_pow (c : Chip) (g n : Nat) : (Chip.countPort c g n).powerPart = c.powerPart := by
  unfold Chip.countPort
  simp

@[simp ↓] theorem Chip.deliverBurst_pow (c : Chip) (q : Nat) (d : Bytes) (t : BurstTag) : (Chip.deliverBurst c q d t).2.powerPart = c.powerPart := by
  unfold Chip.deliverBurst
  simp

@[simp ↓] theorem Chip.readBurst_pow (c : Chip) (a : Nat) (flips : Flips) : (Chip.readBurst c a flips).2.powerPart = c.powerPart := by
  unfold Chip.readBurst
  (repeat' split) <;> simp

@[simp ↓] theorem Chip.readBursts_pow (c : Chip) (flips : List (Nat × Flips)) (a : Nat) (x0 : Nat) : (Chip.readBursts c flips a x0).2.powerPart = c.powerPart := by
  induction x0 generalizing c a with
  | zero => simp [Chip.readBursts]
  | succ n ih =>
    simp only [Chip.readBursts]
    (repeat' split) <;> (try simp [ih]) <;> (try (refine (pairPow (by assumption)).trans ?_)) <;> (try simp [ih]) <;> (try (refine (pairPow (by assumption)).trans ?_)) <;> (try simp [ih]) <;> (try (refine (pairPow (by assumption)).trans ?_)) <;> (try simp [ih])

@[simp ↓] theorem Chip.readMem_pow (c : Chip) (flips : List (Nat × Flips)) (a n : Nat) : (Chip.readMem c flips a n).2.powerPart = c.powerPart := by
  simp only [Chip.readMem]
  (repeat' split) <;> simp

@[simp ↓] theorem Chip.writeStored_pow (c : Chip) (a : Nat) (d : Bytes) : (Chip.writeStored c a d).powerPart = c.powerPart := by
  unfold Chip.writeStored
  simp

@[simp ↓] theorem Chip.writeMem_pow (c : Chip) (a : Nat) (d : Bytes) : (Chip.writeMem c a d).powerPart = c.powerPart := by
  unfold Chip.writeMem
  simp

@[simp ↓] theorem Chip.noteDrops_pow (c : Chip) (tensor : Nat) (l : List Num) : (Chip.noteDrops c tensor l).powerPart = c.powerPart := by
  unfold Chip.noteDrops
  simp

@[simp ↓] theorem Chip.putImage_pow (c : Chip) (a rate : Nat) (d : Bytes) (port : Nat) : (Chip.putImage c a rate d port).powerPart = c.powerPart := by
  unfold Chip.putImage
  simp

@[simp ↓] theorem Chip.writeImage_pow (c : Chip) (code rate tensor a : Nat) (image : Bytes) : (Chip.writeImage c code rate tensor a image).powerPart = c.powerPart := by
  unfold Chip.writeImage
  simp

@[simp ↓] theorem Chip.readImage_pow (c : Chip) (flips : List (Nat × Flips)) (code a : Nat) (through : Bool) : (Chip.readImage c flips code a through).2.powerPart = c.powerPart := by
  simp only [Chip.readImage]
  (repeat' split) <;> simp

@[simp ↓] theorem Chip.patrolScrub_pow (c : Chip) (burst : Nat) (flips : Flips) : (Chip.patrolScrub c burst flips).powerPart = c.powerPart := by
  unfold Chip.patrolScrub
  simp

@[simp ↓] theorem Chip.tempReadout_pow (c : Chip) (q t : Nat) : (Chip.tempReadout c q t).powerPart = c.powerPart := by
  unfold Chip.tempReadout
  simp

@[simp ↓] theorem Chip.copierPoison_pow (c : Chip) (q : Nat) : (Chip.copierPoison c q).powerPart = c.powerPart := by
  unfold Chip.copierPoison
  simp

@[simp ↓] theorem Chip.retireDone_pow (c : Chip) : (Chip.retireDone c).powerPart = c.powerPart := by
  unfold Chip.retireDone
  (repeat' split) <;> simp

@[simp ↓] theorem Chip.measure_pow (c : Chip) (kind : Nat) (digest : Bytes) : (Chip.measure c kind digest).powerPart = c.powerPart := id rfl

@[simp ↓] theorem Chip.refreshCasting_pow (c : Chip) (slot : Nat) : (Chip.refreshCasting c slot).powerPart = c.powerPart := by
  unfold Chip.refreshCasting
  (repeat' split) <;> simp

@[simp ↓] theorem Chip.setRegionState_pow (c : Chip) (h v : Nat) : (Chip.setRegionState c h v).powerPart = c.powerPart := by
  unfold Chip.setRegionState
  simp

@[simp ↓] theorem Chip.mapRegion_pow (c : Chip) (h : Nat) (f : Region → Region) : (Chip.mapRegion c h f).powerPart = c.powerPart := by
  unfold Chip.mapRegion
  (repeat' split) <;> simp

@[simp ↓] theorem Chip.settleStops_pow (c : Chip) (slot : Nat) : (Chip.settleStops c slot).powerPart = c.powerPart := by
  simp only [Chip.settleStops]
  (repeat' split) <;> simp

@[simp ↓] theorem Chip.askStop_pow (c : Chip) (h : Nat) : (Chip.askStop c h).powerPart = c.powerPart := by
  unfold Chip.askStop
  simp

@[simp ↓] theorem Chip.setRunning_pow (c : Chip) (h : Nat) : (Chip.setRunning c h).powerPart = c.powerPart := by
  unfold Chip.setRunning
  simp

@[simp ↓] theorem Chip.refreshHeld_pow (c : Chip) : (Chip.refreshHeld c).powerPart = c.powerPart := id rfl

@[simp ↓] theorem Chip.takeScales_pow (c : Chip) : (Chip.takeScales c).powerPart = c.powerPart := by
  unfold Chip.takeScales
  simp

@[simp ↓] theorem Chip.emptyPatina_pow (c : Chip) : (Chip.emptyPatina c).powerPart = c.powerPart := id rfl

@[simp ↓] theorem Chip.writeTiles_pow (c : Chip) (h : Nat) (b : Bytes) (rs : List Route) : (Chip.writeTiles c h b rs).powerPart = c.powerPart := by
  unfold Chip.writeTiles
  simp

@[simp ↓] theorem Chip.refreshBinding_pow (c : Chip) (h : Nat) : (Chip.refreshBinding c h).powerPart = c.powerPart := by
  unfold Chip.refreshBinding
  (repeat' split) <;> simp

@[simp ↓] theorem Chip.retireUnverified_pow (c : Chip) (l : List (Fin 544)) : (Chip.retireUnverified c l).powerPart = c.powerPart := by
  simp only [Chip.retireUnverified]
  rw [each_pow]
  intro c x
  (repeat' split) <;> (try simp) <;> (try (refine (pairPow (by assumption)).trans ?_)) <;> (try simp) <;> (try (refine (pairPow (by assumption)).trans ?_)) <;> (try simp)

@[simp ↓] theorem Chip.bindChannel_pow (c : Chip) (slot : Nat) (e : DmaEntry) : (Chip.bindChannel c slot e).powerPart = c.powerPart := id rfl

@[simp ↓] theorem Chip.regionObjects_pow (c : Chip) (h : Nat) (r : Region) : (Chip.regionObjects c h r).powerPart = c.powerPart := by
  unfold Chip.regionObjects
  simp

@[simp ↓] theorem Chip.installCasting_pow (c : Chip) (slot : Nat) (b : Bytes) (a : TileArray) (fresh : Bool) : (Chip.installCasting c slot b a fresh).powerPart = c.powerPart := by
  unfold Chip.installCasting
  simp

@[simp ↓] theorem Chip.refuseImage_pow (c : Chip) (o : Option Origin) (key region code off : Nat) : (Chip.refuseImage c o key region code off).powerPart = c.powerPart := by
  unfold Chip.refuseImage
  simp

@[simp ↓] theorem Chip.imageDone_pow (c : Chip) (o : Option Origin) (key : Nat) : (Chip.imageDone c o key).powerPart = c.powerPart := by
  unfold Chip.imageDone
  simp

@[simp ↓] theorem Chip.loadCasting_pow (c : Chip) (slot : Nat) (b : Bytes) (o : Option Origin) (fresh : Bool) (unverified : List (Fin 544)) : (Chip.loadCasting c slot b o fresh unverified).powerPart = c.powerPart := by
  unfold Chip.loadCasting
  (repeat' split) <;> simp

@[simp ↓] theorem Chip.dropCasting_pow (c : Chip) (slot : Nat) : (Chip.dropCasting c slot).powerPart = c.powerPart := id rfl

@[simp ↓] theorem Chip.unloadCasting_pow (c : Chip) (slot : Nat) (o : Origin) : (Chip.unloadCasting c slot o).powerPart = c.powerPart := by
  unfold Chip.unloadCasting
  simp

@[simp ↓] theorem Chip.recastRegion_pow (c : Chip) (h : Nat) (b : Bytes) (o : Option Origin) (keepWord : Bool) (unverified : List (Fin 544)) : (Chip.recastRegion c h b o keepWord unverified).powerPart = c.powerPart := by
  unfold Chip.recastRegion
  (repeat' split) <;> simp

@[simp ↓] theorem Chip.rewriteRegion_pow (c : Chip) (h : Nat) (k : Casting) (r : Region) : (Chip.rewriteRegion c h k r).powerPart = c.powerPart := by
  unfold Chip.rewriteRegion
  simp

@[simp ↓] theorem Chip.remapTile_pow (c : Chip) (l : Nat) : (Chip.remapTile c l).powerPart = c.powerPart := by
  unfold Chip.remapTile
  (repeat' split) <;> simp

@[simp ↓] theorem Chip.beginTest_pow (c : Chip) (p : Nat) : (Chip.beginTest c p).powerPart = c.powerPart := by
  unfold Chip.beginTest
  (repeat' split) <;> simp

@[simp ↓] theorem Chip.serveUnloads_pow (c : Chip) (x0 : Nat) : (Chip.serveUnloads c x0).powerPart = c.powerPart := by
  induction x0 generalizing c with
  | zero => simp [Chip.serveUnloads]
  | succ n ih =>
    simp only [Chip.serveUnloads]
    (repeat' split) <;> (try simp [ih]) <;> (try (refine (pairPow (by assumption)).trans ?_)) <;> (try simp [ih]) <;> (try (refine (pairPow (by assumption)).trans ?_)) <;> (try simp [ih]) <;> (try (refine (pairPow (by assumption)).trans ?_)) <;> (try simp [ih])

@[simp ↓] theorem Chip.loaderNext_pow (c : Chip) : (Chip.loaderNext c).powerPart = c.powerPart := by
  unfold Chip.loaderNext
  simp

@[simp ↓] theorem Chip.enqueueLoader_pow (c : Chip) (op : LoaderOp) : (Chip.enqueueLoader c op).powerPart = c.powerPart := by
  unfold Chip.enqueueLoader
  simp

@[simp ↓] theorem Chip.loadComplete_pow (c : Chip) (unverified : List (Fin 544)) : (Chip.loadComplete c unverified).powerPart = c.powerPart := by
  unfold Chip.loadComplete
  (repeat' split) <;> simp

@[simp ↓] theorem Chip.recastComplete_pow (c : Chip) (unverified : List (Fin 544)) : (Chip.recastComplete c unverified).powerPart = c.powerPart := by
  unfold Chip.recastComplete
  (repeat' split) <;> simp

@[simp ↓] theorem Chip.remapNext_pow (c : Chip) : (Chip.remapNext c).powerPart = c.powerPart := by
  unfold Chip.remapNext
  (repeat' split) <;> simp

@[simp ↓] theorem Chip.readTensorImages_pow (c : Chip) (code base : Nat) (x0 : Nat) (x1 : Nat) : (Chip.readTensorImages c code base x0 x1).2.powerPart = c.powerPart := by
  induction x1 generalizing c x0 with
  | zero => simp [Chip.readTensorImages]
  | succ n ih =>
    simp only [Chip.readTensorImages]
    (repeat' split) <;> (try simp [ih]) <;> (try (refine (pairPow (by assumption)).trans ?_)) <;> (try simp [ih]) <;> (try (refine (pairPow (by assumption)).trans ?_)) <;> (try simp [ih]) <;> (try (refine (pairPow (by assumption)).trans ?_)) <;> (try simp [ih])

@[simp ↓] theorem Chip.writeImages_pow (c : Chip) (code base : Nat) (l : List Bytes) : (Chip.writeImages c code base l).powerPart = c.powerPart := by
  unfold Chip.writeImages
  simp

@[simp ↓] theorem Chip.setBzPort_pow (c : Chip) (p v : Nat) : (Chip.setBzPort c p v).powerPart = c.powerPart := by
  unfold Chip.setBzPort
  simp

@[simp ↓] theorem Chip.bzArrive_pow (c : Chip) (p cls : Nat) (f : BzFrame) : (Chip.bzArrive c p cls f).2.powerPart = c.powerPart := by
  unfold Chip.bzArrive
  simp

@[simp ↓] theorem Chip.bzCountLost_pow (c : Chip) : (Chip.bzCountLost c).powerPart = c.powerPart := id rfl

@[simp ↓] theorem Chip.bzDropPeer_pow (c : Chip) (peer : Nat) : (Chip.bzDropPeer c peer).powerPart = c.powerPart := id rfl

@[simp ↓] theorem Chip.bzFlowFail_pow (c : Chip) (peer : Nat) : (Chip.bzFlowFail c peer).powerPart = c.powerPart := by
  unfold Chip.bzFlowFail
  simp

@[simp ↓] theorem Chip.bzRestartFlow_pow (c : Chip) (peer : Nat) : (Chip.bzRestartFlow c peer).powerPart = c.powerPart := id rfl

@[simp ↓] theorem Chip.bzRetransmit_pow (c : Chip) (peer : Nat) (s : Stored) : (Chip.bzRetransmit c peer s).powerPart = c.powerPart := by
  unfold Chip.bzRetransmit
  simp

@[simp ↓] theorem Chip.bzTakeAck_pow (c : Chip) (peer : Nat) (ack : BitVec 32) : (Chip.bzTakeAck c peer ack).powerPart = c.powerPart := by
  unfold Chip.bzTakeAck
  simp

@[simp ↓] theorem Chip.bzTakeMap_pow (c : Chip) (peer : Nat) (ack : BitVec 32) (map : Nat) : (Chip.bzTakeMap c peer ack map).powerPart = c.powerPart := by
  unfold Chip.bzTakeMap
  simp

@[simp ↓] theorem Chip.bzAcknowledge_pow (c : Chip) (peer : Nat) : (Chip.bzAcknowledge c peer).powerPart = c.powerPart := by
  unfold Chip.bzAcknowledge
  simp

@[simp ↓] theorem Chip.bzSequence_pow (c : Chip) (peer : Nat) (f : BzFrame) : (Chip.bzSequence c peer f).2.powerPart = c.powerPart := by
  unfold Chip.bzSequence
  simp

@[simp ↓] theorem Chip.acceptQuote_pow (c : Chip) (q : Bytes) : (Chip.acceptQuote c q).powerPart = c.powerPart := id rfl

@[simp ↓] theorem Chip.refusePeer_pow (c : Chip) (module : Nat) (q : Bytes) : (Chip.refusePeer c module q).powerPart = c.powerPart := by
  unfold Chip.refusePeer
  simp

@[simp ↓] theorem Chip.bzProbe_pow (c : Chip) (peer : Nat) : (Chip.bzProbe c peer).powerPart = c.powerPart := by
  unfold Chip.bzProbe
  simp

@[simp ↓] theorem Chip.bzConflict_pow (c : Chip) : (Chip.bzConflict c).powerPart = c.powerPart := by
  unfold Chip.bzConflict
  simp

@[simp ↓] theorem Chip.bzProbeReply_pow (c : Chip) (peer : Nat) (q : Bytes) : (Chip.bzProbeReply c peer q).powerPart = c.powerPart := by
  unfold Chip.bzProbeReply
  simp

@[simp ↓] theorem Chip.bzProbed_pow (c : Chip) (peer : Nat) : (Chip.bzProbed c peer).powerPart = c.powerPart := by
  unfold Chip.bzProbed
  simp

@[simp ↓] theorem Chip.bzGranted_pow (c : Chip) (key n : Nat) : (Chip.bzGranted c key n).powerPart = c.powerPart := id rfl

@[simp ↓] theorem Chip.bzRepeatCredit_pow (c : Chip) (ch : Nat) : (Chip.bzRepeatCredit c ch).powerPart = c.powerPart := by
  unfold Chip.bzRepeatCredit
  (repeat' split) <;> simp

@[simp ↓] theorem Chip.bzSendMessage_pow (c : Chip) (ch peer : Nat) (data : Bytes) : (Chip.bzSendMessage c ch peer data).powerPart = c.powerPart := by
  unfold Chip.bzSendMessage
  simp

@[simp ↓] theorem Chip.bzTakeMessage_pow (c : Chip) (peer : Nat) (f : BzFrame) : (Chip.bzTakeMessage c peer f).powerPart = c.powerPart := by
  simp only [Chip.bzTakeMessage]
  (repeat' split) <;> simp

@[simp ↓] theorem Chip.dropCollective_pow (c : Chip) (number step : Nat) : (Chip.dropCollective c number step).powerPart = c.powerPart := id rfl

@[simp ↓] theorem Chip.setCollective_pow (c : Chip) (x : Collective) : (Chip.setCollective c x).powerPart = c.powerPart := id rfl

@[simp ↓] theorem Chip.nextInstance_pow (c : Chip) (kind slot field : Nat) : (Chip.nextInstance c kind slot field).2.powerPart = c.powerPart := id rfl

@[simp ↓] theorem Chip.pumpMember_pow (c : Chip) (number step : Nat) (m : BitVec 16) (x0 : Nat) : (Chip.pumpMember c number step m x0).powerPart = c.powerPart := by
  induction x0 generalizing c with
  | zero => simp [Chip.pumpMember]
  | succ n ih =>
    simp only [Chip.pumpMember]
    (repeat' split) <;> (try simp [ih]) <;> (try (refine (pairPow (by assumption)).trans ?_)) <;> (try simp [ih]) <;> (try (refine (pairPow (by assumption)).trans ?_)) <;> (try simp [ih]) <;> (try (refine (pairPow (by assumption)).trans ?_)) <;> (try simp [ih])

@[simp ↓] theorem Chip.grantChunk_pow (c : Chip) (x : Collective) : (Chip.grantChunk c x).powerPart = c.powerPart := by
  unfold Chip.grantChunk
  simp

@[simp ↓] theorem Chip.sendResult_pow (c : Chip) (x : Collective) (data : Nat → Bytes) : (Chip.sendResult c x data).powerPart = c.powerPart := by
  unfold Chip.sendResult
  simp

@[simp ↓] theorem Chip.completionRecord_pow (c : Chip) (x : Collective) : (Chip.completionRecord c x).powerPart = c.powerPart := by
  unfold Chip.completionRecord
  simp

@[simp ↓] theorem Chip.testReduced_pow (c : Chip) (index : Nat) (k : Int) (vals : List (Num × Bool)) : (Chip.testReduced c index k vals).powerPart = c.powerPart := id rfl

@[simp ↓] theorem Chip.stageShard_pow (c : Chip) (x : Collective) (t : UpdTensor) (s : UpdShard) : (Chip.stageShard c x t s).powerPart = c.powerPart := by
  unfold Chip.stageShard
  simp

@[simp ↓] theorem Chip.finishCollective_pow (c : Chip) (x : Collective) : (Chip.finishCollective c x).powerPart = c.powerPart := by
  simp only [Chip.finishCollective]
  (repeat' split) <;> simp

@[simp ↓] theorem Chip.driveCollective_pow (c : Chip) (number step : Nat) : (Chip.driveCollective c number step).powerPart = c.powerPart := by
  simp only [Chip.driveCollective]
  (repeat' split) <;> simp

@[simp ↓] theorem Chip.issueCollective_pow (c : Chip) (x : Collective) (m : Nat) : (Chip.issueCollective c x m).powerPart = c.powerPart := by
  unfold Chip.issueCollective
  simp

@[simp ↓] theorem Chip.routeCollective_pow (c : Chip) (slot route : Nat) (b : MapBinding) (fmt rate tensorId : Nat) (data : Bytes) : (Chip.routeCollective c slot route b fmt rate tensorId data).powerPart = c.powerPart := by
  unfold Chip.routeCollective
  (repeat' split) <;> simp

@[simp ↓] theorem Chip.reduceAccumulator_pow (c : Chip) (slot layer tid base : Nat) (tensor : Option Nat) : (Chip.reduceAccumulator c slot layer tid base tensor).powerPart = c.powerPart := by
  unfold Chip.reduceAccumulator
  (repeat' split) <;> (try simp) <;> (try refine (pairPow (by assumption)).trans ?_) <;> (try simp)

@[simp ↓] theorem Chip.handOff_pow (c : Chip) (slot layer : Nat) : (Chip.handOff c slot layer).powerPart = c.powerPart := by
  unfold Chip.handOff
  (repeat' split) <;> simp

@[simp ↓] theorem Chip.takeOperand_pow (c : Chip) (peer : Nat) (f : BzFrame) : (Chip.takeOperand c peer f).powerPart = c.powerPart := by
  simp only [Chip.takeOperand]
  (repeat' split) <;> simp

@[simp ↓] theorem Chip.takeResult_pow (c : Chip) (peer : Nat) (f : BzFrame) : (Chip.takeResult c peer f).powerPart = c.powerPart := by
  simp only [Chip.takeResult]
  (repeat' split) <;> simp

@[simp ↓] theorem Chip.takeTree_pow (c : Chip) (peer : Nat) (f : BzFrame) : (Chip.takeTree c peer f).powerPart = c.powerPart := by
  unfold Chip.takeTree
  simp

@[simp ↓] theorem Chip.bzDeliver_pow (c : Chip) (peer : Nat) (f : BzFrame) : (Chip.bzDeliver c peer f).powerPart = c.powerPart := by
  unfold Chip.bzDeliver
  (repeat' split) <;> simp

@[simp ↓] theorem Chip.bzSequenced_pow (c : Chip) (port cls : Nat) (f : BzFrame) : (Chip.bzSequenced c port cls f).powerPart = c.powerPart := by
  unfold Chip.bzSequenced
  (repeat' split) <;> (try simp) <;> (try refine (pairPow (by assumption)).trans ?_) <;> (try simp)

@[simp ↓] theorem Chip.bzCreditFrame_pow (c : Chip) (port : Nat) (f : BzFrame) : (Chip.bzCreditFrame c port f).powerPart = c.powerPart := by
  unfold Chip.bzCreditFrame
  (repeat' split) <;> (try simp) <;> (try refine (pairPow (by assumption)).trans ?_) <;> (try simp)

@[simp ↓] theorem Chip.bzAckFrame_pow (c : Chip) (port : Nat) (f : BzFrame) : (Chip.bzAckFrame c port f).powerPart = c.powerPart := by
  unfold Chip.bzAckFrame
  (repeat' split) <;> (try simp) <;> (try refine (pairPow (by assumption)).trans ?_) <;> (try simp)

@[simp ↓] theorem Chip.bzProbeFrame_pow (c : Chip) (port : Nat) (f : BzFrame) : (Chip.bzProbeFrame c port f).powerPart = c.powerPart := by
  unfold Chip.bzProbeFrame
  (repeat' split) <;> (try simp) <;> (try refine (pairPow (by assumption)).trans ?_) <;> (try simp)

@[simp ↓] theorem Chip.slkRefresh_pow (c : Chip) : (Chip.slkRefresh c).powerPart = c.powerPart := id rfl

@[simp ↓] theorem Chip.slkEmit_pow (c : Chip) (p : Nat) (f : SlkFrame) : (Chip.slkEmit c p f).powerPart = c.powerPart := id rfl

@[simp ↓] theorem Chip.cipherUsed_pow (c : Chip) (bytes : Nat) (ok : Bool) : (Chip.cipherUsed c bytes ok).powerPart = c.powerPart := by
  unfold Chip.cipherUsed
  simp

@[simp ↓] theorem Chip.setSlot_pow (c : Chip) (n : Nat) (k : KeySlot) : (Chip.setSlot c n k).powerPart = c.powerPart := id rfl

@[simp ↓] theorem Chip.setSession_pow (c : Chip) (p : Nat) (s : SlkSession) : (Chip.setSession c p s).powerPart = c.powerPart := id rfl

@[simp ↓] theorem Chip.openSession_pow (c : Chip) (p : Nat) : (Chip.openSession c p).powerPart = c.powerPart := by
  unfold Chip.openSession
  (repeat' split) <;> simp

@[simp ↓] theorem Chip.deriveKey_pow (c : Chip) (p slot : Nat) (out : Bool) (start epoch : Nat) : (Chip.deriveKey c p slot out start epoch).powerPart = c.powerPart := by
  unfold Chip.deriveKey
  (repeat' split) <;> simp

@[simp ↓] theorem Chip.showEpochs_pow (c : Chip) (p : Nat) : (Chip.showEpochs c p).powerPart = c.powerPart := by
  unfold Chip.showEpochs
  (repeat' split) <;> simp

@[simp ↓] theorem Chip.beginEpoch_pow (c : Chip) (p : Nat) (e : BitVec 32) : (Chip.beginEpoch c p e).powerPart = c.powerPart := by
  unfold Chip.beginEpoch
  (repeat' split) <;> simp

@[simp ↓] theorem Chip.nextEpoch_pow (c : Chip) (p : Nat) : (Chip.nextEpoch c p).powerPart = c.powerPart := by
  unfold Chip.nextEpoch
  (repeat' split) <;> simp

@[simp ↓] theorem Chip.beginReceive_pow (c : Chip) (p : Nat) (e : BitVec 32) (known previous : Bool) : (Chip.beginReceive c p e known previous).powerPart = c.powerPart := by
  unfold Chip.beginReceive
  (repeat' split) <;> simp

@[simp ↓] theorem Chip.slkSeal_pow (c : Chip) (p : Nat) (h : SlkHeader) (plain : Bytes) : (Chip.slkSeal c p h plain).2.powerPart = c.powerPart := by
  simp only [Chip.slkSeal]
  (repeat' split) <;> simp

@[simp ↓] theorem Chip.slkControl_pow (c : Chip) (p kind : Nat) (plain : Bytes) : (Chip.slkControl c p kind plain).powerPart = c.powerPart := by
  unfold Chip.slkControl
  (repeat' split) <;> (try simp) <;> (try refine (pairPow (by assumption)).trans ?_) <;> (try simp)

@[simp ↓] theorem Chip.slkHelloTo_pow (c : Chip) (p : Nat) : (Chip.slkHelloTo c p).powerPart = c.powerPart := by
  simp only [Chip.slkHelloTo]
  (repeat' split) <;> simp

@[simp ↓] theorem Chip.fecClose_pow (c : Chip) (g : FecTx) : (Chip.fecClose c g).powerPart = c.powerPart := by
  unfold Chip.fecClose
  simp

@[simp ↓] theorem Chip.fecJoin_pow (c : Chip) (port p parity : Nat) : (Chip.fecJoin c port p parity).2.powerPart = c.powerPart := by
  unfold Chip.fecJoin
  (repeat' split) <;> simp

@[simp ↓] theorem Chip.fecPut_pow (c : Chip) (g : FecTx) (f : SlkFrame) : (Chip.fecPut c g f).powerPart = c.powerPart := by
  unfold Chip.fecPut
  simp

@[simp ↓] theorem Chip.setContext_pow (c : Chip) (n : Nat) (x : FlowContext) : (Chip.setContext c n x).powerPart = c.powerPart := id rfl

@[simp ↓] theorem Chip.slkFragment_pow (c : Chip) (n : Nat) (m : TxMessage) (f : Nat) (again : Bool) : (Chip.slkFragment c n m f again).2.powerPart = c.powerPart := by
  simp only [Chip.slkFragment]
  (repeat' split) <;> (try simp) <;> (try refine (pairPow (by assumption)).trans ?_) <;> (try simp)

@[simp ↓] theorem Chip.pumpMessage_pow (c : Chip) (n : Nat) (m : TxMessage) (x0 : Nat) : (Chip.pumpMessage c n m x0).2.powerPart = c.powerPart := by
  induction x0 generalizing c m with
  | zero => simp [Chip.pumpMessage]
  | succ n ih =>
    simp only [Chip.pumpMessage]
    (repeat' split) <;> (try simp [ih]) <;> (try (refine (pairPow (by assumption)).trans ?_)) <;> (try simp [ih]) <;> (try (refine (pairPow (by assumption)).trans ?_)) <;> (try simp [ih]) <;> (try (refine (pairPow (by assumption)).trans ?_)) <;> (try simp [ih])

@[simp ↓] theorem Chip.pumpContext_pow (c : Chip) (n : Nat) : (Chip.pumpContext c n).powerPart = c.powerPart := by
  simp only [Chip.pumpContext]
  simp

@[simp ↓] theorem Chip.contextSend_pow (c : Chip) (n : Nat) (round : BitVec 32) (b : Bytes) : (Chip.contextSend c n round b).powerPart = c.powerPart := by
  unfold Chip.contextSend
  simp

@[simp ↓] theorem Chip.contextSendNext_pow (c : Chip) (n : Nat) (b : Bytes) : (Chip.contextSendNext c n b).powerPart = c.powerPart := by
  unfold Chip.contextSendNext
  simp

@[simp ↓] theorem Chip.slkContribution_pow (c : Chip) (site round : Nat) (b : Bytes) : (Chip.slkContribution c site round b).powerPart = c.powerPart := by
  unfold Chip.slkContribution
  simp

@[simp ↓] theorem Chip.slkWithdrawTx_pow (c : Chip) (sites : List Nat) (before : Nat) : (Chip.slkWithdrawTx c sites before).powerPart = c.powerPart := by
  unfold Chip.slkWithdrawTx
  simp

@[simp ↓] theorem Chip.slkWithdrawRx_pow (c : Chip) (site round : Nat) : (Chip.slkWithdrawRx c site round).powerPart = c.powerPart := id rfl

@[simp ↓] theorem Chip.slkResendAll_pow (c : Chip) (p : Nat) : (Chip.slkResendAll c p).powerPart = c.powerPart := by
  unfold Chip.slkResendAll
  simp

@[simp ↓] theorem Chip.setDma_pow (c : Chip) (ch : Nat) (x : DmaChannel) : (Chip.setDma c ch x).powerPart = c.powerPart := id rfl

@[simp ↓] theorem Chip.dmaPost_pow (c : Chip) (ch status kind bytes : Nat) : (Chip.dmaPost c ch status kind bytes).powerPart = c.powerPart := by
  unfold Chip.dmaPost
  simp

@[simp ↓] theorem Chip.dmaTake_pow (c : Chip) (ch : Nat) : (Chip.dmaTake c ch).2.powerPart = c.powerPart := by
  unfold Chip.dmaTake
  simp

@[simp ↓] theorem Chip.dmaAwait_pow (c : Chip) (ch : Nat) : (Chip.dmaAwait c ch).powerPart = c.powerPart := by
  unfold Chip.dmaAwait
  simp

@[simp ↓] theorem Chip.dmaReach_pow (c : Chip) (ch i : Nat) : (Chip.dmaReach c ch i).powerPart = c.powerPart := by
  unfold Chip.dmaReach
  simp

@[simp ↓] theorem Chip.dmaBegin_pow (c : Chip) (ch : Nat) : (Chip.dmaBegin c ch).powerPart = c.powerPart := by
  unfold Chip.dmaBegin
  simp

@[simp ↓] theorem Chip.dmaTriggered_pow (c : Chip) (ch : Nat) : (Chip.dmaTriggered c ch).powerPart = c.powerPart := by
  unfold Chip.dmaTriggered
  simp

@[simp ↓] theorem Chip.dmaChain_pow (c : Chip) (src : Nat) (half : Bool) : (Chip.dmaChain c src half).powerPart = c.powerPart := by
  unfold Chip.dmaChain
  simp

@[simp ↓] theorem Chip.dmaUndefined_pow (c : Chip) (ch : Nat) : (Chip.dmaUndefined c ch).powerPart = c.powerPart := by
  simp only [Chip.dmaUndefined]
  (repeat' split) <;> simp

@[simp ↓] theorem Chip.dmaStopNow_pow (c : Chip) (ch : Nat) : (Chip.dmaStopNow c ch).powerPart = c.powerPart := by
  unfold Chip.dmaStopNow
  simp

@[simp ↓] theorem Chip.dmaError_pow (c : Chip) (ch status addr bytes since : Nat) : (Chip.dmaError c ch status addr bytes since).powerPart = c.powerPart := by
  unfold Chip.dmaError
  simp

@[simp ↓] theorem Chip.readRowImages_pow (c : Chip) (flips : List (Nat × Flips)) (d : DmaDesc) (a : Nat) (x0 : Nat) : (Chip.readRowImages c flips d a x0).2.powerPart = c.powerPart := by
  induction x0 generalizing c a with
  | zero => simp [Chip.readRowImages]
  | succ n ih =>
    simp only [Chip.readRowImages]
    (repeat' split) <;> (try simp [ih]) <;> (try (refine (pairPow (by assumption)).trans ?_)) <;> (try simp [ih]) <;> (try (refine (pairPow (by assumption)).trans ?_)) <;> (try simp [ih]) <;> (try (refine (pairPow (by assumption)).trans ?_)) <;> (try simp [ih])

@[simp ↓] theorem Chip.readRow_pow (c : Chip) (flips : List (Nat × Flips)) (d : DmaDesc) (i r : Nat) (outside : Bytes) : (Chip.readRow c flips d i r outside).2.powerPart = c.powerPart := by
  unfold Chip.readRow
  (repeat' split) <;> (try simp) <;> (try refine (pairPow (by assumption)).trans ?_) <;> (try simp)

@[simp ↓] theorem Chip.writeRow_pow (c : Chip) (d : DmaDesc) (i r : Nat) (l : List (Bytes × Nat)) : (Chip.writeRow c d i r l).powerPart = c.powerPart := by
  unfold Chip.writeRow
  simp

@[simp ↓] theorem Chip.noteReserved_pow (c : Chip) (status addr : Nat) : (Chip.noteReserved c status addr).powerPart = c.powerPart := by
  unfold Chip.noteReserved
  simp

@[simp ↓] theorem Chip.moveRows_pow (c : Chip) (ch : Nat) (routed : Bool) (flips : List (Nat × Flips)) (d : DmaDesc) (i : Nat) (outside : Bytes) (r : Nat) (x0 : Nat) : (Chip.moveRows c ch routed flips d i outside r x0).2.powerPart = c.powerPart := by
  induction x0 generalizing c r with
  | zero => simp [Chip.moveRows]
  | succ n ih =>
    simp only [Chip.moveRows]
    (repeat' split) <;> (try simp [ih]) <;> (try (refine (pairPow (by assumption)).trans ?_)) <;> (try simp [ih]) <;> (try (refine (pairPow (by assumption)).trans ?_)) <;> (try simp [ih]) <;> (try (refine (pairPow (by assumption)).trans ?_)) <;> (try simp [ih])

@[simp ↓] theorem Chip.passDeliver_pow (c : Chip) (ch : Nat) (x : DmaChannel) (d : DmaDesc) (i : Nat) (rows : List (List (Bytes × Nat))) : (Chip.passDeliver c ch x d i rows).powerPart = c.powerPart := by
  unfold Chip.passDeliver
  (repeat' split) <;> simp

@[simp ↓] theorem Chip.dmaNext_pow (c : Chip) (ch : Nat) : (Chip.dmaNext c ch).powerPart = c.powerPart := by
  unfold Chip.dmaNext
  simp

theorem Chip.passSource_pow (c : Chip) (ch : Nat) (x : DmaChannel) (d : DmaDesc) (env : PassEnv) (o : Bytes) (c' : Chip)
    (h : c.passSource ch x d env = .go o c') : c'.powerPart = c.powerPart := by
  unfold Chip.passSource at h
  (repeat' split at h) <;> first | (injection h with h1 h2; subst h2; simp; done) | cases h

@[simp ↓] theorem Chip.dmaPass_pow (c : Chip) (ch : Nat) (env : PassEnv) : (Chip.dmaPass c ch env).powerPart = c.powerPart := by
  simp only [Chip.dmaPass]
  (repeat' split) <;> (try simp) <;> (try (refine (pairPow (by assumption)).trans ?_)) <;> (try simp) <;> exact Chip.passSource_pow _ _ _ _ _ _ _ (by assumption)

@[simp ↓] theorem Chip.dmaHalf_pow (c : Chip) (ch : Nat) : (Chip.dmaHalf c ch).powerPart = c.powerPart := by
  unfold Chip.dmaHalf
  simp

@[simp ↓] theorem Chip.dmaRestartRoutes_pow (c : Chip) : (Chip.dmaRestartRoutes c).powerPart = c.powerPart := by
  unfold Chip.dmaRestartRoutes
  simp

@[simp ↓] theorem Chip.dmaStopRoutes_pow (c : Chip) : (Chip.dmaStopRoutes c).powerPart = c.powerPart := by
  unfold Chip.dmaStopRoutes
  simp

@[simp ↓] theorem Chip.shardHeader_pow (c : Chip) (s : UpdShard) : (Chip.shardHeader c s).2.powerPart = c.powerPart := by
  unfold Chip.shardHeader
  (repeat' split) <;> (try simp) <;> (try refine (pairPow (by assumption)).trans ?_) <;> (try simp)

@[simp ↓] theorem Chip.setJournal_pow (c : Chip) (g : Nat) (l : List Bytes) : (Chip.setJournal c g l).powerPart = c.powerPart := id rfl

@[simp ↓] theorem Chip.journalAll_pow (c : Chip) (r : Bytes) : (Chip.journalAll c r).powerPart = c.powerPart := by
  unfold Chip.journalAll
  simp

@[simp ↓] theorem Chip.readMany_pow (c : Chip) (x0 : List (Nat × Nat)) : (Chip.readMany c x0).2.powerPart = c.powerPart := by
  induction x0 generalizing c with
  | nil => simp [Chip.readMany]
  | cons y r ih =>
    simp only [Chip.readMany]
    (repeat' split) <;> (try simp [ih]) <;> (try (refine (pairPow (by assumption)).trans ?_)) <;> (try simp [ih]) <;> (try (refine (pairPow (by assumption)).trans ?_)) <;> (try simp [ih]) <;> (try (refine (pairPow (by assumption)).trans ?_)) <;> (try simp [ih])

@[simp ↓] theorem Chip.readRuns_pow (c : Chip) (code n : Nat) (x0 : List Nat) : (Chip.readRuns c code n x0).2.powerPart = c.powerPart := by
  induction x0 generalizing c with
  | nil => simp [Chip.readRuns]
  | cons y r ih =>
    simp only [Chip.readRuns]
    (repeat' split) <;> (try simp [ih]) <;> (try (refine (pairPow (by assumption)).trans ?_)) <;> (try simp [ih]) <;> (try (refine (pairPow (by assumption)).trans ?_)) <;> (try simp [ih]) <;> (try (refine (pairPow (by assumption)).trans ?_)) <;> (try simp [ih])

@[simp ↓] theorem Chip.readRound_pow (c : Chip) (t : UpdTensor) (s : UpdShard) (rs : RoundShard) (h : ShardHeader) (m : Option Merge) : (Chip.readRound c t s rs h m).2.powerPart = c.powerPart := by
  simp only [Chip.readRound]
  (repeat' split) <;> (try simp) <;> (try refine (pairPow (by assumption)).trans ?_) <;> (try simp) <;> (try refine (pairPow (by assumption)).trans ?_) <;> (try simp) <;> (try refine (pairPow (by assumption)).trans ?_) <;> (try simp)

@[simp ↓] theorem Chip.readShard_pow (c : Chip) (t : UpdTensor) (s : UpdShard) (rs : Option RoundShard) (m : Option Merge) : (Chip.readShard c t s rs m).2.powerPart = c.powerPart := by
  simp only [Chip.readShard]
  (repeat' split) <;> (try simp) <;> (try (refine (pairPow (by assumption)).trans ?_)) <;> (try simp) <;> (try (refine (pairPow (by assumption)).trans ?_)) <;> (try simp) <;> (try simp) <;> (try (refine (pairPow (by assumption)).trans ?_)) <;> (try simp) <;> (try (refine (pairPow (by assumption)).trans ?_)) <;> (try simp) <;> (try simp) <;> (try (refine (pairPow (by assumption)).trans ?_)) <;> (try simp) <;> (try (refine (pairPow (by assumption)).trans ?_)) <;> (try simp)

@[simp ↓] theorem Chip.shardPrints_pow (c : Chip) (t : UpdTensor) (s : UpdShard) (o : ShardOutput) : (Chip.shardPrints c t s o).powerPart = c.powerPart := by
  unfold Chip.shardPrints
  simp

@[simp ↓] theorem Chip.putImages_pow (c : Chip) (code base rate : Nat) (l : List Bytes) : (Chip.putImages c code base rate l).powerPart = c.powerPart := by
  unfold Chip.putImages
  simp

@[simp ↓] theorem Chip.writeClose_pow (c : Chip) (z : RoundSettings) (rs : RoundShard) (size n : Nat) (o : CloseOut) : (Chip.writeClose c z rs size n o).powerPart = c.powerPart := by
  unfold Chip.writeClose
  simp

@[simp ↓] theorem Chip.flipShard_pow (c : Chip) (t : UpdTensor) (s : UpdShard) (slotTo : Nat) (slot : Bytes) (h : ShardHeader) : (Chip.flipShard c t s slotTo slot h).powerPart = c.powerPart := by
  unfold Chip.flipShard
  simp

@[simp ↓] theorem Chip.updateShard_pow (c : Chip) (j : JournalStep) (t : UpdTensor) (s : UpdShard) : (Chip.updateShard c j t s).2.powerPart = c.powerPart := by
  simp only [Chip.updateShard]
  (repeat' split) <;> (try simp) <;> (try refine (pairPow (by assumption)).trans ?_) <;> (try simp)

@[simp ↓] theorem Chip.stateLostHalt_pow (c : Chip) (addr : Nat) : (Chip.stateLostHalt c addr).powerPart = c.powerPart := by
  unfold Chip.stateLostHalt
  simp

theorem EngineRun.shard_pow (r : EngineRun) (id : BitVec 32) : (EngineRun.shard r id).chip.powerPart = r.chip.powerPart := by
  unfold EngineRun.shard
  (repeat' split) <;> (try simp) <;> (try (refine (pairPow (by assumption)).trans ?_)) <;> (try simp) <;> (try (refine (pairPow (by assumption)).trans ?_)) <;> (try simp) <;> (try simp) <;> (try (refine (pairPow (by assumption)).trans ?_)) <;> (try simp) <;> (try (refine (pairPow (by assumption)).trans ?_)) <;> (try simp)

theorem EngineRun.foldl_pow (l : List (BitVec 32)) (r : EngineRun) : (l.foldl EngineRun.shard r).chip.powerPart = r.chip.powerPart := by
  induction l generalizing r with
  | nil => rfl
  | cons x l ih => exact (ih _).trans (EngineRun.shard_pow r x)

@[simp ↓] theorem Chip.runUpdates_pow (c : Chip) : (Chip.runUpdates c).powerPart = c.powerPart := by
  unfold Chip.runUpdates
  simp only []
  split <;> simp [EngineRun.foldl_pow]

@[simp ↓] theorem Chip.scalarRecords_pow (c : Chip) (g lr : Nat) : (Chip.scalarRecords c g lr).2.powerPart = c.powerPart := by
  simp only [Chip.scalarRecords]
  rw [foldl_snd_pow]
  intro a x
  (repeat' split) <;> simp

@[simp ↓] theorem Chip.endIngotStream_pow (c : Chip) (merge : Nat) : (Chip.endIngotStream c merge).powerPart = c.powerPart := by
  unfold Chip.endIngotStream
  (repeat' split) <;> simp

@[simp ↓] theorem Chip.updateBegin_pow (c : Chip) : (Chip.updateBegin c).powerPart = c.powerPart := by
  simp only [Chip.updateBegin]
  (repeat' split) <;> simp

@[simp ↓] theorem Chip.setPartnerState_pow (c : Chip) (j v : Nat) : (Chip.setPartnerState c j v).powerPart = c.powerPart := id rfl

@[simp ↓] theorem Chip.pushAccord_pow (c : Chip) (r : Bytes) : (Chip.pushAccord c r).powerPart = c.powerPart := id rfl

@[simp ↓] theorem Chip.mergeCommitted_pow (c : Chip) (m : Merge) (step : Nat) : (Chip.mergeCommitted c m step).powerPart = c.powerPart := by
  unfold Chip.mergeCommitted
  simp

@[simp ↓] theorem Chip.outboundBytes_pow (c : Chip) (round : Nat) : (Chip.outboundBytes c round).2.powerPart = c.powerPart := by
  simp only [Chip.outboundBytes]
  rw [foldl_snd_pow]
  intro a x
  (repeat' split) <;> try rfl
  rw [foldl_snd_pow]
  intro a x
  (repeat' split) <;> (try simp) <;> (try (refine (pairPow (by assumption)).trans ?_)) <;> (try simp) <;> (try (refine (pairPow (by assumption)).trans ?_)) <;> (try simp)

@[simp ↓] theorem Chip.sendContribution_pow (c : Chip) (site round : Nat) : (Chip.sendContribution c site round).powerPart = c.powerPart := by
  unfold Chip.sendContribution
  simp

@[simp ↓] theorem Chip.refreshRounds_pow (c : Chip) : (Chip.refreshRounds c).powerPart = c.powerPart := id rfl

@[simp ↓] theorem Chip.roundsCommitted_pow (c : Chip) (round step : Nat) : (Chip.roundsCommitted c round step).powerPart = c.powerPart := by
  simp only [Chip.roundsCommitted]
  (repeat' split) <;> simp

@[simp ↓] theorem Chip.updRefused_pow (c : Chip) (code addr : Nat) : (Chip.updRefused c code addr).powerPart = c.powerPart := by
  unfold Chip.updRefused
  simp

@[simp ↓] theorem Chip.useUpdTable_pow (c : Chip) (b : Bytes) : (Chip.useUpdTable c b).powerPart = c.powerPart := id rfl

@[simp ↓] theorem Chip.versionGone_pow (c : Chip) (s : UpdShard) : (Chip.versionGone c s).powerPart = c.powerPart := by
  unfold Chip.versionGone
  simp

@[simp ↓] theorem Chip.serveGather_pow (c : Chip) (peer : BitVec 16) (shard : BitVec 32) (v : Option Version) (hold : Bool) : (Chip.serveGather c peer shard v hold).powerPart = c.powerPart := by
  simp only [Chip.serveGather]
  (repeat' split) <;> (try simp) <;> (try refine (pairPow (by assumption)).trans ?_) <;> (try simp) <;> (try refine (pairPow (by assumption)).trans ?_) <;> (try simp)

@[simp ↓] theorem Chip.resumeUpdates_pow (c : Chip) : (Chip.resumeUpdates c).powerPart = c.powerPart := by
  unfold Chip.resumeUpdates
  simp

@[simp ↓] theorem Chip.revokeHolds_pow (c : Chip) (s : UpdShard) (slot : Nat) : (Chip.revokeHolds c s slot).powerPart = c.powerPart := by
  unfold Chip.revokeHolds
  simp

@[simp ↓] theorem Chip.slowTier_pow (c : Chip) (shard : BitVec 32) : (Chip.slowTier c shard).powerPart = c.powerPart := by
  unfold Chip.slowTier
  (repeat' split) <;> simp

@[simp ↓] theorem Chip.shardSections_pow (c : Chip) (x0 : List UpdShard) : (Chip.shardSections c x0).2.powerPart = c.powerPart := by
  induction x0 generalizing c with
  | nil => simp [Chip.shardSections]
  | cons y r ih =>
    simp only [Chip.shardSections]
    (repeat' split) <;> (try simp [ih]) <;> (try (refine (pairPow (by assumption)).trans ?_)) <;> (try simp [ih]) <;> (try (refine (pairPow (by assumption)).trans ?_)) <;> (try simp [ih]) <;> (try (refine (pairPow (by assumption)).trans ?_)) <;> (try simp [ih]) <;> (try (refine (pairPow (by assumption)).trans ?_)) <;> (try simp [ih])

@[simp ↓] theorem Chip.roundSection_pow (c : Chip) (x0 : List RoundShard) : (Chip.roundSection c x0).2.powerPart = c.powerPart := by
  induction x0 generalizing c with
  | nil => simp [Chip.roundSection]
  | cons y r ih =>
    simp only [Chip.roundSection]
    (repeat' split) <;> (try simp [ih]) <;> (try (refine (pairPow (by assumption)).trans ?_)) <;> (try simp [ih]) <;> (try (refine (pairPow (by assumption)).trans ?_)) <;> (try simp [ih]) <;> (try (refine (pairPow (by assumption)).trans ?_)) <;> (try simp [ih]) <;> (try (refine (pairPow (by assumption)).trans ?_)) <;> (try simp [ih])

@[simp ↓] theorem Chip.ckptSections_pow (c : Chip) : (Chip.ckptSections c).2.powerPart = c.powerPart := by
  unfold Chip.ckptSections
  (repeat' split) <;> (try simp) <;> (try refine (pairPow (by assumption)).trans ?_) <;> (try simp) <;> (try refine (pairPow (by assumption)).trans ?_) <;> (try simp)

/-- An export ends as its last act ends it. -/
@[simp ↓] theorem Chip.exportDone_pow (c : Chip) (finish : Chip → Origin → Chip) (h : ∀ c o, (finish c o).powerPart = c.powerPart) :
    (Chip.exportDone c finish).powerPart = c.powerPart := by
  unfold Chip.exportDone
  simp only []
  split
  · rw [Chip.refreshMark_pow, h]; simp
  · simp

@[simp ↓] theorem Chip.presentExport_pow (c : Chip) : (Chip.presentExport c).powerPart = c.powerPart := by
  unfold Chip.presentExport
  (repeat' split) <;> (try simp) <;> (try refine (pairPow (by assumption)).trans ?_) <;> (try simp)

@[simp ↓] theorem Chip.endExport_pow (c : Chip) : (Chip.endExport c).powerPart = c.powerPart := by
  unfold Chip.endExport
  simp

@[simp ↓] theorem Chip.startExport_pow (c : Chip) (o : Origin) : (Chip.startExport c o).powerPart = c.powerPart := by
  unfold Chip.startExport
  simp

@[simp ↓] theorem Chip.clearHolds_pow (c : Chip) (s : UpdShard) (slot : Nat) : (Chip.clearHolds c s slot).powerPart = c.powerPart := by
  unfold Chip.clearHolds
  simp

@[simp ↓] theorem Chip.importShard_pow (c : Chip) (t : UpdTensor) (s : UpdShard) (v : Ver) (applied : Nat) (slot : Bytes) : (Chip.importShard c t s v applied slot).powerPart = c.powerPart := by
  simp only [Chip.importShard]
  (repeat' split) <;> (try simp) <;> (try refine (pairPow (by assumption)).trans ?_) <;> (try simp)

@[simp ↓] theorem Chip.importScales_pow (c : Chip) (b : Bytes) : (Chip.importScales c b).powerPart = c.powerPart := by
  unfold Chip.importScales
  simp

@[simp ↓] theorem Chip.freshRound_pow (c : Chip) (t : UpdTensor) (s : UpdShard) (rs : RoundShard) (slot : Bytes) : (Chip.freshRound c t s rs slot).powerPart = c.powerPart := by
  unfold Chip.freshRound
  simp

@[simp ↓] theorem Chip.takeRound_pow (c : Chip) (t : UpdTensor) (s : UpdShard) (rs : RoundShard) (v : Ver) (block : Bytes) (delta : Option Bytes) : (Chip.takeRound c t s rs v block delta).powerPart = c.powerPart := by
  unfold Chip.takeRound
  (repeat' split) <;> simp

@[simp ↓] theorem Chip.takeRounds_pow (c : Chip) (v : Ver) (pending : Bool) (x0 : List RoundShard) (x1 : Bytes) : (Chip.takeRounds c v pending x0 x1).powerPart = c.powerPart := by
  induction x0 generalizing c x1 with
  | nil => simp [Chip.takeRounds]
  | cons y r ih =>
    simp only [Chip.takeRounds]
    (repeat' split) <;> (try simp [ih]) <;> (try (refine (pairPow (by assumption)).trans ?_)) <;> (try simp [ih]) <;> (try (refine (pairPow (by assumption)).trans ?_)) <;> (try simp [ih]) <;> (try (refine (pairPow (by assumption)).trans ?_)) <;> (try simp [ih])

@[simp ↓] theorem Chip.importedRounds_pow (c : Chip) (v : Ver) (pending : Option Nat) : (Chip.importedRounds c v pending).powerPart = c.powerPart := id rfl

@[simp ↓] theorem Chip.atVersion_pow (c : Chip) (v : Ver) (applied : Nat) : (Chip.atVersion c v applied).powerPart = c.powerPart := id rfl

@[simp ↓] theorem Chip.takeCkpt_pow (c : Chip) (f : Bytes) : (Chip.takeCkpt c f).powerPart = c.powerPart := by
  simp only [Chip.takeCkpt]
  simp
  (repeat' split) <;> (try simp) <;> (rw [each_pow]; (try simp); intro c x; (repeat' split) <;> simp)

@[simp ↓] theorem Chip.stepTimes_pow (c : Chip) (outcome : Nat) : (Chip.stepTimes c outcome).powerPart = c.powerPart := by
  unfold Chip.stepTimes
  simp

@[simp ↓] theorem Chip.accountTiles_pow (c : Chip) : (Chip.accountTiles c).powerPart = c.powerPart := id rfl

@[simp ↓] theorem Chip.regionTimes_pow (c : Chip) : (Chip.regionTimes c).powerPart = c.powerPart := by
  unfold Chip.regionTimes
  simp

@[simp ↓] theorem Chip.recordStep_pow (c : Chip) (outcome combined : Nat) : (Chip.recordStep c outcome combined).powerPart = c.powerPart := by
  unfold Chip.recordStep
  (repeat' split) <;> simp

@[simp ↓] theorem Chip.finishReplay_pow (c : Chip) (state : Nat) : (Chip.finishReplay c state).powerPart = c.powerPart := by
  unfold Chip.finishReplay
  simp

@[simp ↓] theorem Chip.replayAdvance_pow (c : Chip) : (Chip.replayAdvance c).powerPart = c.powerPart := by
  simp only [Chip.replayAdvance]
  (repeat' split) <;> simp

@[simp ↓] theorem Chip.applyNextK_pow (c : Chip) : (Chip.applyNextK c).powerPart = c.powerPart := id rfl

@[simp ↓] theorem Chip.stopRegions_pow (c : Chip) : (Chip.stopRegions c).powerPart = c.powerPart := by
  unfold Chip.stopRegions
  simp

@[simp ↓] theorem Chip.settlePatina_pow (c : Chip) : (Chip.settlePatina c).powerPart = c.powerPart := by
  unfold Chip.settlePatina
  simp

@[simp ↓] theorem Chip.settleStop_pow (c : Chip) : (Chip.settleStop c).powerPart = c.powerPart := by
  unfold Chip.settleStop
  simp

@[simp ↓] theorem Chip.requestIngot_pow (c : Chip) (site : Nat) (round : Option Nat) : (Chip.requestIngot c site round).powerPart = c.powerPart := id rfl

@[simp ↓] theorem Chip.settleIngot_pow (c : Chip) : (Chip.settleIngot c).powerPart = c.powerPart := by
  simp only [Chip.settleIngot]
  (repeat' split) <;> simp

@[simp ↓] theorem Chip.askIngot_pow (c : Chip) (o : Option Origin) : (Chip.askIngot c o).powerPart = c.powerPart := by
  unfold Chip.askIngot
  simp

@[simp ↓] theorem Chip.releaseParked_pow (c : Chip) (outcome : Nat) : (Chip.releaseParked c outcome).powerPart = c.powerPart := by
  simp only [Chip.releaseParked]
  rw [each_pow]
  intro c x
  (repeat' split) <;> (try simp) <;> (try (refine (pairPow (by assumption)).trans ?_)) <;> (try simp) <;> (try (refine (pairPow (by assumption)).trans ?_)) <;> (try simp)

@[simp ↓] theorem Chip.endStep_pow (c : Chip) (outcome combined : Nat) : (Chip.endStep c outcome combined).powerPart = c.powerPart := by
  unfold Chip.endStep
  simp

@[simp ↓] theorem Chip.commitVersion_pow (c : Chip) (round step applied lr clip : Nat) : (Chip.commitVersion c round step applied lr clip).powerPart = c.powerPart := by
  unfold Chip.commitVersion
  simp

@[simp ↓] theorem Chip.updateDone_pow (c : Chip) : (Chip.updateDone c).powerPart = c.powerPart := by
  unfold Chip.updateDone
  simp

@[simp ↓] theorem Chip.stepLost_pow (c : Chip) (addr : Nat) : (Chip.stepLost c addr).powerPart = c.powerPart := by
  unfold Chip.stepLost
  simp

@[simp ↓] theorem Chip.writeBack_pow (c : Chip) (id : BitVec 32) : (Chip.writeBack c id).powerPart = c.powerPart := by
  unfold Chip.writeBack
  (repeat' split) <;> (try simp) <;> (try refine (pairPow (by assumption)).trans ?_) <;> (try simp)

@[simp ↓] theorem Chip.redoStep_pow (c : Chip) (j : JournalStep) : (Chip.redoStep c j).2.powerPart = c.powerPart := by
  unfold Chip.redoStep
  simp

@[simp ↓] theorem Chip.commitRedone_pow (c : Chip) (j : JournalStep) : (Chip.commitRedone c j).powerPart = c.powerPart := by
  unfold Chip.commitRedone
  simp

@[simp ↓] theorem Chip.redoImport_pow (c : Chip) (v : Ver) : (Chip.redoImport c v).powerPart = c.powerPart := by
  simp only [Chip.redoImport, Chip.atVersion_pow, Chip.journalAll_pow]
  rw [each_pow]
  intro c x
  (repeat' split) <;> (try simp) <;> (try (refine (pairPow (by assumption)).trans ?_)) <;> (try simp) <;> (try (refine (pairPow (by assumption)).trans ?_)) <;> (try simp)

@[simp ↓] theorem Chip.countReplay_pow (c : Chip) (v : Ver) : (Chip.countReplay c v).powerPart = c.powerPart := by
  unfold Chip.countReplay
  simp

@[simp ↓] theorem Chip.journalReplay_pow (c : Chip) : (Chip.journalReplay c).powerPart = c.powerPart := by
  simp only [Chip.journalReplay]
  (repeat' split) <;> (try simp) <;> (try refine (pairPow (by assumption)).trans ?_) <;> (try simp)

@[simp ↓] theorem Chip.catchUp_pow (c : Chip) (r : MapReply) : (Chip.catchUp c r).2.powerPart = c.powerPart := by
  simp only [Chip.catchUp]
  (repeat' split) <;> (try simp) <;> (try refine (pairPow (by assumption)).trans ?_) <;> (try simp)

@[simp ↓] theorem Chip.offerMap_pow (c : Chip) : (Chip.offerMap c).powerPart = c.powerPart := by
  unfold Chip.offerMap
  (repeat' split) <;> simp

@[simp ↓] theorem Chip.grantRoutes_pow (c : Chip) (slot : Nat) (m : MapData) : (Chip.grantRoutes c slot m).powerPart = c.powerPart := by
  unfold Chip.grantRoutes
  simp

@[simp ↓] theorem Chip.useMap_pow (c : Chip) (b : Bytes) : (Chip.useMap c b).powerPart = c.powerPart := by
  unfold Chip.useMap
  (repeat' split) <;> simp

@[simp ↓] theorem Chip.versionSplit_pow (c : Chip) (peer : BitVec 16) : (Chip.versionSplit c peer).powerPart = c.powerPart := by
  unfold Chip.versionSplit
  simp

@[simp ↓] theorem Chip.mapAnswer_pow (c : Chip) (peer : BitVec 16) (r : MapReply) : (Chip.mapAnswer c peer r).powerPart = c.powerPart := by
  simp only [Chip.mapAnswer]
  (repeat' split) <;> (try simp) <;> (try refine (pairPow (by assumption)).trans ?_) <;> (try simp)

@[simp ↓] theorem Chip.freeBuffers_pow (c : Chip) : (Chip.freeBuffers c).powerPart = c.powerPart := by
  unfold Chip.freeBuffers
  simp

@[simp ↓] theorem Chip.fillBuffer_pow (c : Chip) (layer : BitVec 16) (pass buffer shard : Nat) (data : Bytes) : (Chip.fillBuffer c layer pass buffer shard data).powerPart = c.powerPart := by
  unfold Chip.fillBuffer
  (repeat' split) <;> simp

@[simp ↓] theorem Chip.setGather_pow (c : Chip) (g : Gather) : (Chip.setGather c g).powerPart = c.powerPart := id rfl

@[simp ↓] theorem Chip.landGather_pow (c : Chip) (g : Gather) (v : Version) (data : Bytes) (ownSlot : Option Nat) : (Chip.landGather c g v data ownSlot).powerPart = c.powerPart := by
  unfold Chip.landGather
  simp

@[simp ↓] theorem Chip.failGather_pow (c : Chip) (g : Gather) (status : Nat) (told : Bool) : (Chip.failGather c g status told).powerPart = c.powerPart := by
  unfold Chip.failGather
  simp

@[simp ↓] theorem Chip.gatherOwn_pow (c : Chip) (u : GatherUse) (s : UpdShard) : (Chip.gatherOwn c u s).powerPart = c.powerPart := by
  simp only [Chip.gatherOwn]
  (repeat' split) <;> (try simp) <;> (try refine (pairPow (by assumption)).trans ?_) <;> (try simp) <;> (try refine (pairPow (by assumption)).trans ?_) <;> (try simp)

@[simp ↓] theorem Chip.issueGather_pow (c : Chip) (layer : BitVec 16) : (Chip.issueGather c layer).powerPart = c.powerPart := by
  unfold Chip.issueGather
  (repeat' split) <;> simp

@[simp ↓] theorem Chip.parkedFetched_pow (c : Chip) (s : UpdShard) (v : Version) (data : Bytes) : (Chip.parkedFetched c s v data).powerPart = c.powerPart := by
  unfold Chip.parkedFetched
  simp

@[simp ↓] theorem Chip.gatherBack_pow (c : Chip) (shard : BitVec 32) (v : Version) (data : Bytes) : (Chip.gatherBack c shard v data).powerPart = c.powerPart := by
  unfold Chip.gatherBack
  (repeat' split) <;> simp

@[simp ↓] theorem Chip.offloadLate_pow (c : Chip) (ch : Nat) : (Chip.offloadLate c ch).powerPart = c.powerPart := by
  unfold Chip.offloadLate
  simp

@[simp ↓] theorem Chip.openScales_pow (c : Chip) : (Chip.openScales c).powerPart = c.powerPart := by
  unfold Chip.openScales
  (repeat' split) <;> simp

@[simp ↓] theorem Chip.beginEntry_pow (c : Chip) (h : Nat) (r : Region) (e : SchedEntry) : (Chip.beginEntry c h r e).powerPart = c.powerPart := by
  unfold Chip.beginEntry
  simp

@[simp ↓] theorem Chip.beginEntries_pow (c : Chip) : (Chip.beginEntries c).powerPart = c.powerPart := by
  simp only [Chip.beginEntries]
  rw [each_pow]
  intro c x
  rw [each_pow]
  intro c r
  (repeat' split) <;> simp

@[simp ↓] theorem Chip.stepOpen_pow (c : Chip) : (Chip.stepOpen c).powerPart = c.powerPart := by
  unfold Chip.stepOpen
  simp

@[simp ↓] theorem Chip.slotOpen_pow (c : Chip) : (Chip.slotOpen c).powerPart = c.powerPart := by
  unfold Chip.slotOpen
  simp

@[simp ↓] theorem Chip.entryEnd_pow (c : Chip) (h : Nat) : (Chip.entryEnd c h).powerPart = c.powerPart := by
  unfold Chip.entryEnd
  (repeat' split) <;> simp

@[simp ↓] theorem Chip.judgeReady_pow (c : Chip) : (Chip.judgeReady c).powerPart = c.powerPart := by
  unfold Chip.judgeReady
  (repeat' split) <;> simp

@[simp ↓] theorem Chip.wordFinal_pow (c : Chip) : (Chip.wordFinal c).powerPart = c.powerPart := by
  unfold Chip.wordFinal
  (repeat' split) <;> simp

@[simp ↓] theorem Chip.scaleAdjust_pow (c : Chip) (committed : Bool) (m : Sparse DecisionRecord) : (Chip.scaleAdjust c committed m).powerPart = c.powerPart := by
  unfold Chip.scaleAdjust
  simp

@[simp ↓] theorem Chip.patinaAdd_pow (c : Chip) (m : Sparse DecisionRecord) : (Chip.patinaAdd c m).powerPart = c.powerPart := id rfl

@[simp ↓] theorem Chip.decideMerge_pow (c : Chip) (votes : List (Nat × BitVec 32)) : (Chip.decideMerge c votes).powerPart = c.powerPart := by
  unfold Chip.decideMerge
  (repeat' split) <;> simp

@[simp ↓] theorem Chip.heedIngot_pow (c : Chip) (votes : List (Nat × BitVec 32)) : (Chip.heedIngot c votes).powerPart = c.powerPart := by
  unfold Chip.heedIngot
  simp

@[simp ↓] theorem Chip.noteSkip_pow (c : Chip) (word : BitVec 32) : (Chip.noteSkip c word).powerPart = c.powerPart := by
  unfold Chip.noteSkip
  simp

@[simp ↓] theorem Chip.settleDecision_pow (c : Chip) : (Chip.settleDecision c).powerPart = c.powerPart := by
  unfold Chip.settleDecision
  (repeat' split) <;> simp

@[simp ↓] theorem Chip.combinedHeld_pow (c : Chip) (word : BitVec 32) (votes : List (Nat × BitVec 32)) : (Chip.combinedHeld c word votes).powerPart = c.powerPart := by
  unfold Chip.combinedHeld
  simp

@[simp ↓] theorem Chip.recordsHeld_pow (c : Chip) (records : List (Nat × DecisionRecord)) : (Chip.recordsHeld c records).powerPart = c.powerPart := by
  unfold Chip.recordsHeld
  simp

@[simp ↓] theorem Chip.askStepStop_pow (c : Chip) (o : Origin) : (Chip.askStepStop c o).powerPart = c.powerPart := by
  unfold Chip.askStepStop
  simp

@[simp ↓] theorem Chip.askStepRun_pow (c : Chip) (o : Origin) : (Chip.askStepRun c o).powerPart = c.powerPart := by
  unfold Chip.askStepRun
  simp

@[simp ↓] theorem Chip.startReplay_pow (c : Chip) (o : Origin) : (Chip.startReplay c o).powerPart = c.powerPart := id rfl

@[simp ↓] theorem Chip.abandonReplay_pow (c : Chip) (o : Origin) : (Chip.abandonReplay c o).powerPart = c.powerPart := by
  unfold Chip.abandonReplay
  simp

@[simp ↓] theorem Chip.replayLate_pow (c : Chip) : (Chip.replayLate c).powerPart = c.powerPart := by
  unfold Chip.replayLate
  simp

@[simp ↓] theorem Chip.bzProbeAll_pow (c : Chip) : (Chip.bzProbeAll c).powerPart = c.powerPart := by
  unfold Chip.bzProbeAll
  simp

@[simp ↓] theorem Chip.bzPortTrained_pow (c : Chip) (p : Nat) (lanesInOrder : Bool) : (Chip.bzPortTrained c p lanesInOrder).powerPart = c.powerPart := by
  unfold Chip.bzPortTrained
  simp

@[simp ↓] theorem Chip.bzPortLost_pow (c : Chip) (p : Nat) : (Chip.bzPortLost c p).powerPart = c.powerPart := by
  unfold Chip.bzPortLost
  simp

@[simp ↓] theorem Chip.bzRetrain_pow (c : Chip) (p : Nat) : (Chip.bzRetrain c p).powerPart = c.powerPart := by
  unfold Chip.bzRetrain
  simp

@[simp ↓] theorem Chip.bzRetryAt_pow (c : Chip) (peer : Nat) (seq : BitVec 32) : (Chip.bzRetryAt c peer seq).powerPart = c.powerPart := by
  unfold Chip.bzRetryAt
  (repeat' split) <;> simp

@[simp ↓] theorem Chip.bzProbeLost_pow (c : Chip) : (Chip.bzProbeLost c).powerPart = c.powerPart := by
  unfold Chip.bzProbeLost
  simp

@[simp ↓] theorem Chip.bzExpire_pow (c : Chip) (number : Nat) : (Chip.bzExpire c number).powerPart = c.powerPart := by
  unfold Chip.bzExpire
  simp

@[simp ↓] theorem Chip.dmaEnableWrite_pow (c : Chip) (ch : Nat) (on : Bool) : (Chip.dmaEnableWrite c ch on).powerPart = c.powerPart := by
  unfold Chip.dmaEnableWrite
  simp

@[simp ↓] theorem Chip.dmaFirmwareStop_pow (c : Chip) (ch : Nat) : (Chip.dmaFirmwareStop c ch).powerPart = c.powerPart := by
  unfold Chip.dmaFirmwareStop
  simp

@[simp ↓] theorem Chip.dmaDescriptors_pow (c : Chip) (ch : Nat) (b : Bytes) : (Chip.dmaDescriptors c ch b).powerPart = c.powerPart := by
  unfold Chip.dmaDescriptors
  simp

@[simp ↓] theorem Chip.dmaTimer_pow (c : Chip) (ch : Nat) : (Chip.dmaTimer c ch).powerPart = c.powerPart := by
  unfold Chip.dmaTimer
  simp

@[simp ↓] theorem Chip.dmaRead_pow (c : Chip) (rq ch : Nat) : (Chip.dmaRead c rq ch).powerPart = c.powerPart := by
  simp only [Chip.dmaRead]
  (repeat' split) <;> simp

@[simp ↓] theorem Chip.ungreet_pow (c : Chip) (j : Nat) : (Chip.ungreet c j).powerPart = c.powerPart := id rfl

@[simp ↓] theorem Chip.partnerDown_pow (c : Chip) (j : Nat) : (Chip.partnerDown c j).powerPart = c.powerPart := by
  unfold Chip.partnerDown
  simp

@[simp ↓] theorem Chip.partnerRefresh_pow (c : Chip) (j : Nat) : (Chip.partnerRefresh c j).powerPart = c.powerPart := by
  unfold Chip.partnerRefresh
  simp

@[simp ↓] theorem Chip.slkRefuseQuote_pow (c : Chip) (p : Nat) (q : Bytes) : (Chip.slkRefuseQuote c p q).powerPart = c.powerPart := by
  unfold Chip.slkRefuseQuote
  simp

@[simp ↓] theorem Chip.slkQuote_pow (c : Chip) (p : Nat) (q : Bytes) : (Chip.slkQuote c p q).powerPart = c.powerPart := by
  unfold Chip.slkQuote
  simp

@[simp ↓] theorem Chip.slkEstablished_pow (c : Chip) (p : Nat) : (Chip.slkEstablished c p).powerPart = c.powerPart := by
  unfold Chip.slkEstablished
  simp

@[simp ↓] theorem Chip.slkEndSession_pow (c : Chip) (p : Nat) : (Chip.slkEndSession c p).powerPart = c.powerPart := by
  unfold Chip.slkEndSession
  (repeat' split) <;> simp

@[simp ↓] theorem Chip.slkArrive_pow (c : Chip) (port kind : Nat) (f : SlkFrame) : (Chip.slkArrive c port kind f).2.powerPart = c.powerPart := by
  unfold Chip.slkArrive
  simp

@[simp ↓] theorem Chip.helloNewStart_pow (c : Chip) (p start : Nat) : (Chip.helloNewStart c p start).powerPart = c.powerPart := by
  unfold Chip.helloNewStart
  (repeat' split) <;> simp

@[simp ↓] theorem Chip.helloMatched_pow (c : Chip) (p : Nat) : (Chip.helloMatched c p).powerPart = c.powerPart := by
  unfold Chip.helloMatched
  (repeat' split) <;> simp

@[simp ↓] theorem Chip.slkHelloFrame_pow (c : Chip) (port : Nat) (f : SlkFrame) : (Chip.slkHelloFrame c port f).powerPart = c.powerPart := by
  simp only [Chip.slkHelloFrame]
  (repeat' split) <;> (try simp) <;> (try refine (pairPow (by assumption)).trans ?_) <;> (try simp)

@[simp ↓] theorem Chip.slkAuthFail_pow (c : Chip) (p : Nat) : (Chip.slkAuthFail c p).powerPart = c.powerPart := by
  unfold Chip.slkAuthFail
  simp

@[simp ↓] theorem Chip.slkLate_pow (c : Chip) (p : Nat) : (Chip.slkLate c p).powerPart = c.powerPart := by
  unfold Chip.slkLate
  simp

@[simp ↓] theorem Chip.slkUnseal_pow (c : Chip) (slot : Nat) (f : SlkFrame) : (Chip.slkUnseal c slot f).2.powerPart = c.powerPart := by
  unfold Chip.slkUnseal
  simp

@[simp ↓] theorem Chip.slkOpen_pow (c : Chip) (p : Nat) (f : SlkFrame) : (Chip.slkOpen c p f).2.powerPart = c.powerPart := by
  simp only [Chip.slkOpen]
  (repeat' split) <;> (try simp) <;> (try refine (pairPow (by assumption)).trans ?_) <;> (try simp)

@[simp ↓] theorem Chip.slkAcknowledge_pow (c : Chip) (n : Nat) : (Chip.slkAcknowledge c n).powerPart = c.powerPart := by
  unfold Chip.slkAcknowledge
  simp

@[simp ↓] theorem Chip.slkSettle_pow (c : Chip) (n : Nat) : (Chip.slkSettle c n).powerPart = c.powerPart := by
  simp only [Chip.slkSettle]
  (repeat' split) <;> simp

@[simp ↓] theorem Chip.slkTakeAck_pow (c : Chip) (p : Nat) (e : Bytes) : (Chip.slkTakeAck c p e).powerPart = c.powerPart := by
  unfold Chip.slkTakeAck
  (repeat' split) <;> simp

@[simp ↓] theorem Chip.slkAckFrame_pow (c : Chip) (port : Nat) (f : SlkFrame) : (Chip.slkAckFrame c port f).powerPart = c.powerPart := by
  simp only [Chip.slkAckFrame]
  (repeat' split) <;> (try simp) <;> (try refine (pairPow (by assumption)).trans ?_) <;> (try simp) <;> (try refine (pairPow (by assumption)).trans ?_) <;> (try simp)

@[simp ↓] theorem Chip.slkProbeFrame_pow (c : Chip) (port : Nat) (f : SlkFrame) : (Chip.slkProbeFrame c port f).powerPart = c.powerPart := by
  simp only [Chip.slkProbeFrame]
  (repeat' split) <;> (try simp) <;> (try refine (pairPow (by assumption)).trans ?_) <;> (try simp) <;> (try refine (pairPow (by assumption)).trans ?_) <;> (try simp)

@[simp ↓] theorem Chip.bulkReady_pow (c : Chip) (n : Nat) (x0 : Nat) : (Chip.bulkReady c n x0).powerPart = c.powerPart := by
  induction x0 generalizing c with
  | zero => simp [Chip.bulkReady]
  | succ n ih =>
    simp only [Chip.bulkReady]
    (repeat' split) <;> (try simp [ih]) <;> (try (refine (pairPow (by assumption)).trans ?_)) <;> (try simp [ih]) <;> (try (refine (pairPow (by assumption)).trans ?_)) <;> (try simp [ih]) <;> (try (refine (pairPow (by assumption)).trans ?_)) <;> (try simp [ih])

@[simp ↓] theorem Chip.slkDeliver_pow (c : Chip) (n : Nat) (round : BitVec 32) (b : Bytes) : (Chip.slkDeliver c n round b).powerPart = c.powerPart := by
  simp only [Chip.slkDeliver]
  (repeat' split) <;> simp

@[simp ↓] theorem Chip.slkDuplicate_pow (c : Chip) (n : Nat) (h : SlkHeader) : (Chip.slkDuplicate c n h).powerPart = c.powerPart := by
  unfold Chip.slkDuplicate
  simp

@[simp ↓] theorem Chip.slkAccept_pow (c : Chip) (n : Nat) (h : SlkHeader) (m : RxMessage) (b : Bytes) : (Chip.slkAccept c n h m b).powerPart = c.powerPart := by
  unfold Chip.slkAccept
  simp

@[simp ↓] theorem Chip.slkTakeFragment_pow (c : Chip) (n : Nat) (h : SlkHeader) (b : Bytes) : (Chip.slkTakeFragment c n h b).powerPart = c.powerPart := by
  simp only [Chip.slkTakeFragment]
  (repeat' split) <;> simp

@[simp ↓] theorem Chip.slkTakeData_pow (c : Chip) (f : SlkFrame) : (Chip.slkTakeData c f).powerPart = c.powerPart := by
  simp only [Chip.slkTakeData]
  (repeat' split) <;> (try simp) <;> (try refine (pairPow (by assumption)).trans ?_) <;> (try simp)

@[simp ↓] theorem Chip.setFecGroup_pow (c : Chip) (g : FecRx) : (Chip.setFecGroup c g).powerPart = c.powerPart := id rfl

@[simp ↓] theorem Chip.fecRebuild_pow (c : Chip) (g : FecRx) : (Chip.fecRebuild c g).powerPart = c.powerPart := by
  unfold Chip.fecRebuild
  simp

@[simp ↓] theorem Chip.slkDataFrame_pow (c : Chip) (port : Nat) (f : SlkFrame) : (Chip.slkDataFrame c port f).powerPart = c.powerPart := by
  unfold Chip.slkDataFrame
  (repeat' split) <;> (try simp) <;> (try refine (pairPow (by assumption)).trans ?_) <;> (try simp)

@[simp ↓] theorem Chip.slkParityFrame_pow (c : Chip) (port : Nat) (f : SlkFrame) : (Chip.slkParityFrame c port f).powerPart = c.powerPart := by
  unfold Chip.slkParityFrame
  (repeat' split) <;> (try simp) <;> (try refine (pairPow (by assumption)).trans ?_) <;> (try simp)

@[simp ↓] theorem Chip.fecExpire_pow (c : Chip) (port p : Nat) (group : BitVec 32) : (Chip.fecExpire c port p group).powerPart = c.powerPart := by
  unfold Chip.fecExpire
  simp

@[simp ↓] theorem Chip.setCage_pow (c : Chip) (p : Nat) (x : Cage) : (Chip.setCage c p x).powerPart = c.powerPart := by
  unfold Chip.setCage
  split <;> rfl

@[simp ↓] theorem Chip.setSlkPort_pow (c : Chip) (p v : Nat) : (Chip.setSlkPort c p v).powerPart = c.powerPart := by
  unfold Chip.setSlkPort
  simp

@[simp ↓] theorem Chip.cageInserted_pow (c : Chip) (p : Nat) (advertised : F32) : (Chip.cageInserted c p advertised).powerPart = c.powerPart := by
  unfold Chip.cageInserted
  simp

@[simp ↓] theorem Chip.cageRemoved_pow (c : Chip) (p : Nat) : (Chip.cageRemoved c p).powerPart = c.powerPart := by
  unfold Chip.cageRemoved
  simp

@[simp ↓] theorem Chip.cageOver_pow (c : Chip) (p : Nat) : (Chip.cageOver c p).powerPart = c.powerPart := by
  unfold Chip.cageOver
  simp

@[simp ↓] theorem Chip.slkPortTrained_pow (c : Chip) (p : Nat) : (Chip.slkPortTrained c p).powerPart = c.powerPart := by
  unfold Chip.slkPortTrained
  simp

@[simp ↓] theorem Chip.slkPortLost_pow (c : Chip) (p : Nat) : (Chip.slkPortLost c p).powerPart = c.powerPart := by
  unfold Chip.slkPortLost
  simp

@[simp ↓] theorem Chip.slkPortRetry_pow (c : Chip) (p : Nat) : (Chip.slkPortRetry c p).powerPart = c.powerPart := by
  unfold Chip.slkPortRetry
  simp

@[simp ↓] theorem Chip.slkHellos_pow (c : Chip) : (Chip.slkHellos c).powerPart = c.powerPart := by
  unfold Chip.slkHellos
  simp

@[simp ↓] theorem Chip.slkProbes_pow (c : Chip) : (Chip.slkProbes c).powerPart = c.powerPart := by
  simp only [Chip.slkProbes]
  rw [each_pow]
  intro c x
  (repeat' split) <;> (try simp) <;> (try (refine (pairPow (by assumption)).trans ?_)) <;> (try simp) <;> (try (refine (pairPow (by assumption)).trans ?_)) <;> (try simp)

@[simp ↓] theorem Chip.slkSilent_pow (c : Chip) (p : Nat) : (Chip.slkSilent c p).powerPart = c.powerPart := by
  unfold Chip.slkSilent
  (repeat' split) <;> simp

@[simp ↓] theorem Chip.slkInterval_pow (c : Chip) (p : Nat) : (Chip.slkInterval c p).powerPart = c.powerPart := by
  unfold Chip.slkInterval
  (repeat' split) <;> simp

@[simp ↓] theorem Chip.slkGraceOver_pow (c : Chip) (p : Nat) : (Chip.slkGraceOver c p).powerPart = c.powerPart := by
  unfold Chip.slkGraceOver
  (repeat' split) <;> simp

@[simp ↓] theorem Chip.fecTimer_pow (c : Chip) (port p : Nat) : (Chip.fecTimer c port p).powerPart = c.powerPart := by
  unfold Chip.fecTimer
  (repeat' split) <;> simp

@[simp ↓] theorem Chip.slkAckTimer_pow (c : Chip) (n : Nat) : (Chip.slkAckTimer c n).powerPart = c.powerPart := by
  unfold Chip.slkAckTimer
  simp

@[simp ↓] theorem Chip.slkResend_pow (c : Chip) (n : Nat) (round fragment : BitVec 32) : (Chip.slkResend c n round fragment).powerPart = c.powerPart := by
  simp only [Chip.slkResend]
  (repeat' split) <;> (try simp) <;> (try refine (pairPow (by assumption)).trans ?_) <;> (try simp)

@[simp ↓] theorem Chip.useRoundTable_pow (c : Chip) (b : Bytes) : (Chip.useRoundTable c b).powerPart = c.powerPart := id rfl

@[simp ↓] theorem Chip.behind_pow (c : Chip) (j : Nat) : (Chip.behind c j).powerPart = c.powerPart := by
  unfold Chip.behind
  simp

@[simp ↓] theorem Chip.checkDivergence_pow (c : Chip) (j : Nat) (h : List Bytes) : (Chip.checkDivergence c j h).powerPart = c.powerPart := by
  unfold Chip.checkDivergence
  simp

@[simp ↓] theorem Chip.checkNewSite_pow (c : Chip) (j latest : Nat) : (Chip.checkNewSite c j latest).powerPart = c.powerPart := by
  unfold Chip.checkNewSite
  simp

@[simp ↓] theorem Chip.takeGreeting_pow (c : Chip) (j : Nat) (g : Greeting) : (Chip.takeGreeting c j g).powerPart = c.powerPart := by
  unfold Chip.takeGreeting
  simp

@[simp ↓] theorem Chip.contributionComplete_pow (c : Chip) (j m : Nat) (l : List (BitVec 32 × Bytes)) : (Chip.contributionComplete c j m l).powerPart = c.powerPart := by
  unfold Chip.contributionComplete
  (repeat' split) <;> simp

@[simp ↓] theorem Chip.windowExpiry_pow (c : Chip) : (Chip.windowExpiry c).powerPart = c.powerPart := by
  unfold Chip.windowExpiry
  simp

@[simp ↓] theorem Chip.takeHistory_pow (c : Chip) (j : Nat) (h : List Bytes) : (Chip.takeHistory c j h).powerPart = c.powerPart := by
  unfold Chip.takeHistory
  simp

@[simp ↓] theorem Chip.endFetch_pow (c : Chip) : (Chip.endFetch c).powerPart = c.powerPart := id rfl

@[simp ↓] theorem Chip.abandonFetch_pow (c : Chip) : (Chip.abandonFetch c).powerPart = c.powerPart := by
  simp only [Chip.abandonFetch]
  (repeat' split) <;> simp

@[simp ↓] theorem Chip.ingotSections_pow (c : Chip) (round : Nat) (x0 : List RoundShard) : (Chip.ingotSections c round x0).2.powerPart = c.powerPart := by
  induction x0 generalizing c with
  | nil => rfl
  | cons y r ih =>
    rw [Chip.ingotSections]
    split
    · rfl
    · dsimp only
      split
      · exact (pairPow (by assumption)).trans (by simp)
      · next h =>
        have e : _ = c.powerPart := (pairPow h).trans (by simp)
        split
        · exact e
        · split
          · next h2 => exact (pairPow h2).trans (by simp [e])
          · next h2 =>
            have e2 : _ = c.powerPart := (pairPow h2).trans (by simp; exact e)
            split
            · next h3 => exact (pairPow h3).trans ((ih _).trans e2)
            · next h3 => exact (pairPow h3).trans ((ih _).trans e2)

@[simp ↓] theorem Chip.mergePoint_pow (c : Chip) (round : Nat) : (Chip.mergePoint c round).2.2.powerPart = c.powerPart := by
  simp only [Chip.mergePoint]
  (repeat' split) <;> simp

@[simp ↓] theorem Chip.serveIngot_pow (c : Chip) (j : Nat) (round : Option Nat) : (Chip.serveIngot c j round).powerPart = c.powerPart := by
  simp only [Chip.serveIngot]
  (repeat' split) <;> (try simp) <;> (try refine (pairPow (by assumption)).trans ?_) <;> (try simp)

@[simp ↓] theorem Chip.roundBlocks_pow (c : Chip) (rs : RoundShard) : (Chip.roundBlocks c rs).2.powerPart = c.powerPart := by
  unfold Chip.roundBlocks
  (repeat' split) <;> (try simp) <;> (try refine (pairPow (by assumption)).trans ?_) <;> (try simp)

@[simp ↓] theorem Chip.writeArrived_pow (c : Chip) (b : Bytes) (before : Nat) : (Chip.writeArrived c b before).powerPart = c.powerPart := by
  simp only [Chip.writeArrived]
  rw [each_pow]
  intro c x
  (repeat' split) <;> (try simp) <;> (try (refine (pairPow (by assumption)).trans ?_)) <;> (try simp) <;> (try (refine (pairPow (by assumption)).trans ?_)) <;> (try simp)

@[simp ↓] theorem Chip.fetchAgain_pow (c : Chip) (round : Option Nat) : (Chip.fetchAgain c round).powerPart = c.powerPart := by
  unfold Chip.fetchAgain
  (repeat' split) <;> simp

@[simp ↓] theorem Chip.ingotRefused_pow (c : Chip) (code off : Nat) : (Chip.ingotRefused c code off).powerPart = c.powerPart := by
  unfold Chip.ingotRefused
  simp

@[simp ↓] theorem Chip.ingotSection_pow (c : Chip) (offset : Nat) (data : Bytes) : (Chip.ingotSection c offset data).powerPart = c.powerPart := by
  simp only [Chip.ingotSection]
  (repeat' split) <;> simp

@[simp ↓] theorem Chip.retryIngot_pow (c : Chip) : (Chip.retryIngot c).powerPart = c.powerPart := by
  unfold Chip.retryIngot
  simp

@[simp ↓] theorem Chip.ingotRecord_pow (c : Chip) (donor round step : Nat) : (Chip.ingotRecord c donor round step).2.powerPart = c.powerPart := id rfl

@[simp ↓] theorem Chip.flipIngot_pow (c : Chip) (b : Bytes) (v : Ver) : (Chip.flipIngot c b v).powerPart = c.powerPart := by
  unfold Chip.flipIngot
  simp

@[simp ↓] theorem Chip.takeIngot_pow (c : Chip) : (Chip.takeIngot c).powerPart = c.powerPart := by
  simp only [Chip.takeIngot]
  (repeat' split) <;> simp

@[simp ↓] theorem Chip.importIngot_pow (c : Chip) : (Chip.importIngot c).powerPart = c.powerPart := by
  unfold Chip.importIngot
  simp

@[simp ↓] theorem Chip.ingotAgreement_pow (c : Chip) (rounds : List (BitVec 16 × BitVec 32)) : (Chip.ingotAgreement c rounds).powerPart = c.powerPart := by
  unfold Chip.ingotAgreement
  (repeat' split) <;> simp

@[simp ↓] theorem Chip.cipherRead_pow (c : Chip) (a n : Nat) : (Chip.cipherRead c a n).2.powerPart = c.powerPart := by
  unfold Chip.cipherRead
  (repeat' split) <;> (try simp) <;> (try refine (pairPow (by assumption)).trans ?_) <;> (try simp)

@[simp ↓] theorem Chip.cipherWrite_pow (c : Chip) (a : Nat) (b : Bytes) : (Chip.cipherWrite c a b).powerPart = c.powerPart := by
  unfold Chip.cipherWrite
  simp

@[simp ↓] theorem Chip.showDepth_pow (c : Chip) : (Chip.showDepth c).powerPart = c.powerPart := id rfl

@[simp ↓] theorem Chip.cipherReturn_pow (c : Chip) (who : CipherRequester) (desc st bytes : Nat) : (Chip.cipherReturn c who desc st bytes).powerPart = c.powerPart := by
  unfold Chip.cipherReturn
  (repeat' split) <;> simp

@[simp ↓] theorem Chip.cipherRequest_pow (c : Chip) (who : CipherRequester) (addr : BitVec 64) (desc : Bytes) : (Chip.cipherRequest c who addr desc).powerPart = c.powerPart := by
  unfold Chip.cipherRequest
  simp

@[simp ↓] theorem Chip.cipherServe_pow (c : Chip) (j : CipherJob) : (Chip.cipherServe c j).powerPart = c.powerPart := by
  simp only [Chip.cipherServe]
  (repeat' split) <;> simp

@[simp ↓] theorem Chip.cipherComplete_pow (c : Chip) : (Chip.cipherComplete c).powerPart = c.powerPart := by
  unfold Chip.cipherComplete
  (repeat' split) <;> simp

@[simp ↓] theorem Chip.keyReason_pow (c : Chip) (code : Nat) : (Chip.keyReason c code).powerPart = c.powerPart := id rfl

@[simp ↓] theorem Chip.writeControl_pow (c : Chip) (f : Emmc → Emmc) : (Chip.writeControl c f).powerPart = c.powerPart := by
  unfold Chip.writeControl
  simp

@[simp ↓] theorem Chip.fwReason_pow (c : Chip) (code : Nat) : (Chip.fwReason c code).powerPart = c.powerPart := id rfl

@[simp ↓] theorem Chip.slotIncomplete_pow (c : Chip) (image : Bytes) : (Chip.slotIncomplete c image).powerPart = c.powerPart := id rfl

@[simp ↓] theorem Chip.installComplete_pow (c : Chip) (readBack : Outcome1) : (Chip.installComplete c readBack).powerPart = c.powerPart := by
  unfold Chip.installComplete
  (repeat' split) <;> simp

@[simp ↓] theorem Chip.makeQuote_pow (c : Chip) (nonce : Bytes) : (Chip.makeQuote c nonce).2.powerPart = c.powerPart := by
  unfold Chip.makeQuote
  (repeat' split) <;> simp

@[simp ↓] theorem Chip.quoteComplete_pow (c : Chip) : (Chip.quoteComplete c).powerPart = c.powerPart := by
  simp only [Chip.quoteComplete]
  (repeat' split) <;> (try simp) <;> (try refine (pairPow (by assumption)).trans ?_) <;> (try simp)

@[simp ↓] theorem Chip.loadSetKeys_pow (c : Chip) : (Chip.loadSetKeys c).powerPart = c.powerPart := by
  simp only [Chip.loadSetKeys]
  rw [each_pow, each_pow]
  · intro c x; simp
  · intro c x; split <;> simp

@[simp ↓] theorem Chip.endUnenrolled_pow (c : Chip) : (Chip.endUnenrolled c).powerPart = c.powerPart := by
  unfold Chip.endUnenrolled
  simp

@[simp ↓] theorem Chip.delayExpiry_pow (c : Chip) : (Chip.delayExpiry c).powerPart = c.powerPart := by
  unfold Chip.delayExpiry
  (repeat' split) <;> simp

@[simp ↓] theorem Chip.watchdogExpiry_pow (c : Chip) : (Chip.watchdogExpiry c).powerPart = c.powerPart := by
  unfold Chip.watchdogExpiry
  simp

@[simp ↓] theorem Chip.trayHeld_pow (c : Chip) (v : Bool) : (Chip.trayHeld c v).powerPart = c.powerPart := id rfl

@[simp ↓] theorem Chip.trayLong_pow (c : Chip) : (Chip.trayLong c).powerPart = c.powerPart := by
  unfold Chip.trayLong
  simp

@[simp ↓] theorem Chip.trayRelease_pow (c : Chip) (lowNs : Nat) : (Chip.trayRelease c lowNs).powerPart = c.powerPart := by
  unfold Chip.trayRelease
  simp

@[simp ↓] theorem Chip.setStage_pow (c : Chip) (v : StartStage) : (Chip.setStage c v).powerPart = c.powerPart := id rfl

@[simp ↓] theorem Chip.timeStart_pow (c : Chip) : (Chip.timeStart c).powerPart = c.powerPart := by
  unfold Chip.timeStart
  simp

@[simp ↓] theorem Chip.readPuf_pow (c : Chip) (p : PufRead) : (Chip.readPuf c p).powerPart = c.powerPart := by
  unfold Chip.readPuf
  (repeat' split) <;> simp

@[simp ↓] theorem Chip.core0Release_pow (c : Chip) (p : PufRead) : (Chip.core0Release c p).powerPart = c.powerPart := by
  unfold Chip.core0Release
  simp

@[simp ↓] theorem Chip.selectSlot_pow (c : Chip) : (Chip.selectSlot c).2.2.powerPart = c.powerPart := by
  simp only [Chip.selectSlot]
  (repeat' split) <;> simp

@[simp ↓] theorem Chip.bootSlot_pow (c : Chip) : (Chip.bootSlot c).2.powerPart = c.powerPart := by
  unfold Chip.bootSlot
  simp

@[simp ↓] theorem Chip.escalateStart_pow (c : Chip) : (Chip.escalateStart c).powerPart = c.powerPart := by
  unfold Chip.escalateStart
  simp

@[simp ↓] theorem Chip.countStart_pow (c : Chip) (written : Outcome1) : (Chip.countStart c written).powerPart = c.powerPart := by
  unfold Chip.countStart
  simp

@[simp ↓] theorem Chip.firmwareVerified_pow (c : Chip) (written : Outcome1) : (Chip.firmwareVerified c written).powerPart = c.powerPart := by
  unfold Chip.firmwareVerified
  (repeat' split) <;> simp

@[simp ↓] theorem Chip.processorsReleased_pow (c : Chip) : (Chip.processorsReleased c).powerPart = c.powerPart := by
  simp only [Chip.processorsReleased]
  (repeat' split) <;> simp

@[simp ↓] theorem Chip.showRetired_pow (c : Chip) (q : Nat) : (Chip.showRetired c q).powerPart = c.powerPart := id rfl

@[simp ↓] theorem Chip.trainingFailed_pow (c : Chip) (q : Nat) : (Chip.trainingFailed c q).powerPart = c.powerPart := by
  unfold Chip.trainingFailed
  simp

@[simp ↓] theorem Chip.trainingComplete_pow (c : Chip) (failed : List (Fin 192)) : (Chip.trainingComplete c failed).powerPart = c.powerPart := by
  unfold Chip.trainingComplete
  simp

@[simp ↓] theorem Chip.initComplete_pow (c : Chip) : (Chip.initComplete c).powerPart = c.powerPart := by
  unfold Chip.initComplete
  simp

@[simp ↓] theorem Chip.selfTested_pow (c : Chip) (r : SelfTestResult) : (Chip.selfTested c r).powerPart = c.powerPart := by
  unfold Chip.selfTested
  simp

@[simp ↓] theorem Chip.confirmTrial_pow (c : Chip) : (Chip.confirmTrial c).powerPart = c.powerPart := by
  unfold Chip.confirmTrial
  simp

@[simp ↓] theorem Chip.makePresence_pow (c : Chip) : (Chip.makePresence c).powerPart = c.powerPart := by
  unfold Chip.makePresence
  (repeat' split) <;> (try simp) <;> (try refine (pairPow (by assumption)).trans ?_) <;> (try simp)

@[simp ↓] theorem Chip.modReadyAssert_pow (c : Chip) : (Chip.modReadyAssert c).powerPart = c.powerPart := by
  unfold Chip.modReadyAssert
  split
  · rfl
  · have h : ((c.loadSetKeys.confirmTrial).setStage .ready).powerPart = c.powerPart := by simp
    refine Eq.trans ?_ h
    simp only [Chip.makePresence_pow, Chip.flushEarly_pow, Chip.startRecord_pow]
    rfl

@[simp ↓] theorem Chip.reloadCasting_pow (c : Chip) (slot : Nat) (k : Casting) : (Chip.reloadCasting c slot k).powerPart = c.powerPart := by
  unfold Chip.reloadCasting
  simp only []
  split
  · simp
  · rw [each_pow]
    · simp
    · intro c x
      split <;> simp

@[simp ↓] theorem Chip.reloadAll_pow (c : Chip) : (Chip.reloadAll c).powerPart = c.powerPart := by
  unfold Chip.reloadAll
  simp

@[simp ↓] theorem Chip.reofferMaps_pow (c : Chip) : (Chip.reofferMaps c).powerPart = c.powerPart := by
  unfold Chip.reofferMaps
  simp

@[simp ↓] theorem Chip.replayKept_pow (c : Chip) (reads : Bool) : (Chip.replayKept c reads).powerPart = c.powerPart := by
  unfold Chip.replayKept
  simp

@[simp ↓] theorem Chip.restoreRounds_pow (c : Chip) : (Chip.restoreRounds c).powerPart = c.powerPart := by
  unfold Chip.restoreRounds
  simp

@[simp ↓] theorem Chip.keptRestored_pow (c : Chip) (k : KeptCheck) : (Chip.keptRestored c k).powerPart = c.powerPart := by
  unfold Chip.keptRestored
  simp

@[simp ↓] theorem Chip.copyLog_pow (c : Chip) (written : Outcome1) : (Chip.copyLog c written).powerPart = c.powerPart := by
  unfold Chip.copyLog
  (repeat' split) <;> simp

@[simp ↓] theorem Chip.svcBegin_pow (c : Chip) (op arg : Nat) : (Chip.svcBegin c op arg).powerPart = c.powerPart := by
  unfold Chip.svcBegin
  (repeat' split) <;> simp

@[simp ↓] theorem Chip.svcEnd_pow (c : Chip) (reason : Nat) : (Chip.svcEnd c reason).powerPart = c.powerPart := by
  unfold Chip.svcEnd
  simp

@[simp ↓] theorem Chip.rejoinEnd_pow (c : Chip) (result : Outcome1) : (Chip.rejoinEnd c result).powerPart = c.powerPart := by
  unfold Chip.rejoinEnd
  simp

@[simp ↓] theorem Chip.retryEnd_pow (c : Chip) (arg : Nat) : (Chip.retryEnd c arg).powerPart = c.powerPart := by
  unfold Chip.retryEnd
  simp

@[simp ↓] theorem Chip.testEnd_pow (c : Chip) (p : Nat) (result : Outcome1) : (Chip.testEnd c p result).powerPart = c.powerPart := by
  unfold Chip.testEnd
  (repeat' split) <;> simp

@[simp ↓] theorem Chip.scrubPass_pow (c : Chip) (q : Nat) : (Chip.scrubPass c q).powerPart = c.powerPart := by
  unfold Chip.scrubPass
  simp

@[simp ↓] theorem Chip.spillAll_pow (c : Chip) : (Chip.spillAll c).powerPart = c.powerPart := id rfl

@[simp ↓] theorem Chip.flushEnd_pow (c : Chip) (result : Outcome1) : (Chip.flushEnd c result).powerPart = c.powerPart := by
  unfold Chip.flushEnd
  (repeat' split) <;> simp

@[simp ↓] theorem Chip.svcComplete_pow (c : Chip) (result : Outcome1) : (Chip.svcComplete c result).powerPart = c.powerPart := by
  unfold Chip.svcComplete
  (repeat' split) <;> simp

@[simp ↓] theorem Chip.sendResponse_pow (c : Chip) (n : Nat) (dest : BitVec 128) (m : Bytes) : (Chip.sendResponse c n dest m).powerPart = c.powerPart := by
  unfold Chip.sendResponse
  simp

@[simp ↓] theorem Chip.dapTag_pow (c : Chip) (n : Nat) (m : Bytes) : (Chip.dapTag c n m).2.powerPart = c.powerPart := by
  simp only [Chip.dapTag]
  (repeat' split) <;> simp

@[simp ↓] theorem Chip.dapDiscard_pow (c : Chip) : (Chip.dapDiscard c).powerPart = c.powerPart := id rfl

@[simp ↓] theorem Chip.dapAuthFail_pow (c : Chip) (n : Nat) : (Chip.dapAuthFail c n).powerPart = c.powerPart := by
  unfold Chip.dapAuthFail
  simp

@[simp ↓] theorem Chip.readEffect_pow (c : Chip) (e : Nat × Bool) : (Chip.readEffect c e).powerPart = c.powerPart := by
  unfold Chip.readEffect
  simp

@[simp ↓] theorem Chip.noteAnswer_pow (c : Chip) (a : DapAnswer) : (Chip.noteAnswer c a).powerPart = c.powerPart := by
  unfold Chip.noteAnswer
  simp

@[simp ↓] theorem Chip.takeXid_pow (c : Chip) (n : Nat) (t : BitVec 32) : (Chip.takeXid c n t).powerPart = c.powerPart := id rfl

@[simp ↓] theorem Chip.cacheResponse_pow (c : Chip) (n : Nat) (t : BitVec 32) (tag m : Bytes) : (Chip.cacheResponse c n t tag m).powerPart = c.powerPart := id rfl

@[simp ↓] theorem Chip.dapAck_pow (c : Chip) (m : Bytes) : (Chip.dapAck c m).powerPart = c.powerPart := by
  unfold Chip.dapAck
  simp

@[simp ↓] theorem Chip.idleExpiry_pow (c : Chip) (rq key : Nat) : (Chip.idleExpiry c rq key).powerPart = c.powerPart := by
  unfold Chip.idleExpiry
  (repeat' split) <;> simp

@[simp ↓] theorem Chip.resendEvents_pow (c : Chip) : (Chip.resendEvents c).powerPart = c.powerPart := by
  unfold Chip.resendEvents
  simp

@[simp ↓] theorem Chip.mgmtLink_pow (c : Chip) (up : Bool) : (Chip.mgmtLink c up).powerPart = c.powerPart := by
  unfold Chip.mgmtLink
  simp


end Sys2Proof.Machine
end

