-- ==== Sys2Proof/Tests/Slice0.lean ====
section
/-! SUPPORT. Tests/Slice0.lean: the model's own tests: ill-formed terms that WellFormed refuses, words the table has no bits for,
single steps on small states whose results come from the spec's own tables and rules, and, for every statement with
hypotheses, a state and operands that meet them all. -/

set_option maxRecDepth 100000

namespace Sys2Proof.Tests

set_option Elab.async false

open Sys2Proof.Machine

/-! ### Small states -/

/-- A module on power whose dictionary serves: the factory's requester 1 holds level 3. -/
def served : Chip :=
  { Chip.reset with
    board := { Board.reset with seated := true, pwrEn := true, inputOk := true, phase := .on, modReady := true }
    start := { StartSeq.reset with stage := .ready, counterOk := true }
    time := { TimeUnit.reset with running := true, mono := 1000 }
    mem := { Lpddr6.reset with up := true }
    dap := { DapServer.reset with linkUp := true } }

/-- A state around a chip, nothing waiting. -/
def at_ (c : Chip) : State := ⟨c, []⟩

/-- The state a command answers. -/
def after (i : Instr) (s : State) : Chip :=
  match exec i s with
  | .next t => t.chip
  | _ => Chip.reset

/-- Fields of a vector instruction that are all 0. -/
def f0 : VFields := ⟨0, 0, 0, 0, 0, 0, 0, 0, 0⟩

/-! ### Form of commands -/

theorem wf_speedWindow : WellFormed (.speedWindow [] []) = false := by decide
theorem wf_spdSlowDetect : WellFormed (.spdSlowDetect .link 4) = false ∧ WellFormed (.spdSlowDetect .wacor 33) = true := by decide
theorem wf_routerFlit : WellFormed (.routerFlitReceive 0 524225 (zeros 64)) = false ∧
    WellFormed (.routerFlitReceive 0 0 (zeros 63)) = false ∧ WellFormed (.routerFlitReceive 0 524224 (zeros 64)) = true := by
  decide
theorem wf_castingLoad : WellFormed (.castingLoad 1 4) = false ∧ WellFormed (.castingLoad 1 3) = true := by decide
theorem wf_castingUnload : WellFormed (.castingUnload 1 4) = false := by decide

/-- A Braze header of LEN `n`. -/
def bzHdr (n : Nat) : BzHeader := ⟨0x10, 0, 0, 0, 1, 0, 0, 0, 0, 0, 0, BitVec.ofNat 16 n, 0, 0⟩

theorem wf_bzFrames :
    ∀ i ∈ [Instr.bzMessageFrame 0 ⟨true, true, bzHdr 1, []⟩, .bzAckFrame 0 ⟨true, true, bzHdr 1, []⟩,
      .bzCreditFrame 0 ⟨true, true, bzHdr 1, []⟩, .bzOperandFrame 0 ⟨true, true, bzHdr 1, []⟩,
      .bzResultFrame 0 ⟨true, true, bzHdr 1, []⟩, .bzTreeFrame 0 ⟨true, true, bzHdr 1, []⟩,
      .bzProbeFrame 0 ⟨true, true, bzHdr 1, []⟩], WellFormed i = false := by decide

/-- A site-link header of a kind, all other fields 0. -/
def slkHdr (vt : BitVec 8) : SlkHeader := ⟨vt, 0, 0, 0, 0, 0, 0, 0, 0, 0, 0, 0, 0, 0, 0, 0, 0, 0, 0⟩

/-- A body one byte beyond the longest packet. -/
def longBody : Bytes := zeros 8259

theorem wf_slkFrames :
    ∀ i ∈ [Instr.slkHello 0 ⟨true, true, slkHdr 19, longBody⟩, .slkDataPacket 0 ⟨true, true, slkHdr 16, longBody⟩,
      .slkParityPacket 0 ⟨true, true, slkHdr 17, longBody⟩, .slkAckPacket 0 ⟨true, true, slkHdr 18, longBody⟩,
      .slkProbePacket 0 ⟨true, true, slkHdr 20, longBody⟩], WellFormed i = false := by decide

theorem wf_cipherRequest : WellFormed (.cipherRequest (.core 16) 0 (zeros 64)) = false ∧
    WellFormed (.cipherRequest (.dma 512) 0 (zeros 64)) = false ∧
    WellFormed (.cipherRequest .siteLinkEngine 0 (zeros 63)) = false := by decide
theorem wf_memPatrolScrub : WellFormed (.memPatrolScrub 0 [(36, 1)]) = false ∧
    WellFormed (.memPatrolScrub 0 [(0, 1), (0, 2)]) = false ∧ WellFormed (.memPatrolScrub 0 [(35, 1)]) = true := by decide
theorem wf_domainSegmentWrite : WellFormed (.domainSegmentWrite 1 0x3000 5 0 true (zeros 4097)) = false := by decide

/-- The table gives no row any bits, so no word spells a command. -/
theorem decode_no_bits : ∀ n w : Nat, decodeTableWord n w = none ∧ State.reset.withFetchWord n w = State.reset :=
  fun _ _ => ⟨rfl, rfl⟩

/-! ### Hypotheses that are met: the block, writes, registers -/

theorem witness_idle : (at_ served).pending = [] ∧ (at_ served).chip.time.running = true ∧
    State.reset.pending = [] ∧ State.reset.chip.time.running = false := by decide

theorem witness_powerRule : served.board.powerInv = true ∧ (∃ t, step (at_ served) = .next t) := ⟨by decide, _, rfl⟩

theorem witness_occurrence : 13 < 14 ∧ 31 < 32 ∧ served.flt.entries.length < 1048576 := by decide

/-- A step runs, which locks the objects of the step sequencer. -/
def stepping : Chip := { served with step := { StepSeq.reset with on := true } }

/-- `P` of the object listed under `key`. -/
def ofObj (key : Nat) (P : ObjDef → Bool) : Bool := ((Obj.lookup (key / 256) (key % 256)).map P).getD false

theorem witness_writeChecks :
    served.level 2 = none ∧ served.level 0 = some 0 ∧ mayWrite 0 0 Obj.powerLimit = false ∧
    served.level 1 = some 3 ∧ mayWrite 3 1 Obj.inputPower = true ∧
    ofObj Obj.inputPower (fun d => d.access = .ro) = true ∧
    ofObj Obj.powerLimit (fun d => d.access ≠ .ro ∧ 0 ≠ d.ty.code) = true ∧
    ofObj Obj.powerLimit (fun d => !lengthOk d.ty 3) = true ∧
    ofObj Obj.powerLimit (fun d => lengthOk d.ty 4 && !valueOk d [0, 0, 0, 0]) = true ∧
    ofObj (Obj.regionControl 0) (fun d => valueOk d [1]) = true ∧ served.present (Obj.regionControl 0) = false ∧
    ofObj Obj.patinaWindow (fun d => d.access = .rwl ∧ valueOk d [32, 0] ∧ stepping.present Obj.patinaWindow ∧
      stepping.locked d.owner (Obj.patinaWindow / 256)) = true ∧
    ofObj Obj.patinaWindow (fun d => !served.locked d.owner (Obj.patinaWindow / 256)) = true := by decide

theorem witness_rights : serviceOnly 0x6800 = false ∧ serviceOnly (0x6800 * 256) = true ∧
    serviceOnly (Obj.reqEventMask 16) = false := by decide

theorem witness_refusedWrite : ∀ d, Obj.lookup 0x2000 4 = some d →
    served.generalStatus 0 d Obj.powerLimit d.ty.code [0, 0, 0, 0] ≠ stOk := by
  intro d h
  have : some d = Obj.lookup 0x2000 4 := h.symm
  rw [show Obj.lookup 0x2000 4 = some ⟨"POWER_LIMIT", 0x2000, 1, 4, .f32, .rw, .a, 1152729088, .f32 0x44160000 0x44B54000, .none⟩
    by decide] at this
  cases this
  decide

theorem witness_memory : Memory.wf [(3, 1#8), (4, 2#8)] = true ∧ Memory.wf [] = true ∧ 5 < 6 ∧ 6 + 2 ≤ 8 := by decide

/-! ### Hypotheses that are met: board and power -/

def offBoard : Board := { Board.reset with pwrEn := true, inputOk := true }

theorem witness_powerEntry :
    (offBoard.phase = .off ∧ offBoard.pwrEn = true ∧ offBoard.inputOk = true ∧ offBoard.thermalLatch = false) ∧
    ({ offBoard with seated := true }.seated = true) := by decide

def checking : Chip := { Chip.reset with board := { offBoard with seated := true, phase := .checking } }
def waiting : Chip := { Chip.reset with board := { offBoard with seated := true, phase := .waiting } }
def softStart : Chip := { Chip.reset with board := { offBoard with seated := true, phase := .softStart } }

theorem witness_powerPhases : checking.board.phase = .checking ∧ waiting.board.phase = .waiting ∧
    softStart.board.phase = .softStart ∧ served.board.phase ≠ .off := by decide

def failed : Chip := { Chip.reset with board := { Board.reset with seated := true } }

theorem witness_restart : failed.board.phase = .off ∧ failed.board.seated = true ∧ failed.board.thermalLatch = false ∧
    failed.board.pwrEn = false ∧ { failed.board with pwrEn := true }.pwrEn = true := by decide

/-- A reading at the edge of the derating rows: inlet 40 °C, flow 1.5 L/min. -/
def reading : Telemetry := ⟨0x42200000, 0x42340000, 0x3FC00000, 0, 0x42A00000, 0x42A00000, 0, 0, 0, 0, 0, 0, 0, 0, 0, 0⟩

theorem witness_coolant : served.board.phase = .on ∧ stopNow reading = false ∧
    stopNow { reading with inlet := 0x42480000 } = true ∧
    { served.board with below15 := true }.below15 = true ∧ served.board.flowLow = false ∧
    { served.board with below10 := true }.below10 = true := by decide

def caged : Chip := { served with board := { served.board with cage0 := ⟨true, true, false, false⟩ } }

theorem witness_cages : (caged.board.cage 0).present = true ∧ (caged.board.cage 0).powered = true ∧
    caged.reg (Obj.slkPortState 0) ≠ 3 ∧ f32Lt f32At18 0x41900001 = true ∧ f32Lt f32At18 0x41900000 = false := by decide

/-! ### Hypotheses that are met: speed, resets, the start -/

theorem witness_governor : (680 : Rat) ≤ 680 ∧ (750 : Rat) ≤ 750 ∧ (90 : Nat) ≤ 90 ∧ (49 : Nat) < 50 ∧
    (1450 - 25 : Rat) < 1426 ∧ (104 : Rat) < 105 := by decide +kernel

theorem witness_speed : served.time.running = true ∧ { served.gov with started := true }.started = true := by decide

def asked : Chip := { served with start := { served.start with requested := some .warm } }
def released : Chip := served

theorem witness_resets : asked.start.requested = some .warm ∧ released.start.core0Out = true ∧
    released.start.held = false ∧ { released.start with held := true }.held = true := by decide

theorem witness_resetKinds :
    (served.start.underway = false ∧ served.mem.copying = none ∧ (recentWatchdogs served.start.watchdogs served.time.mono).length < 3) ∧
    3 ≤ (recentWatchdogs [999, 998, 997] 1000).length ∧
    ({ served.mem with copying := some (0, none) }.copying.isSome = true) ∧
    ({ served.start with stage := .firmware }.underway = true ∧ ({ served.start with stage := .firmware }).kind.clearing = true) := by
  decide

/-- A module in a stage of its start. -/
def inStage (g : StartStage) : Chip :=
  { Chip.reset with
    board := { Board.reset with seated := true, pwrEn := true, inputOk := true, phase := .on }
    time := { TimeUnit.reset with running := decide (g ≠ .reset) }
    start := { StartSeq.reset with stage := g } }

def beforeReady : Chip :=
  { inStage .processors with
    start := { (inStage .processors).start with trained := true, memoryWritten := true, selfTested := true } }

theorem witness_start :
    (inStage .reset).start.stage = .reset ∧ (inStage .timeUnit).start.held = false ∧
    ((inStage .core0).start.dead = false ∧ (inStage .core0).start.kind.clearing = true) ∧
    (inStage .processors).start.trained = false ∧ (inStage .processors).start.selfTested = false ∧
    ({ beforeReady.start with memoryWritten := false }.trained = true) ∧
    beforeReady.start.mayServe = true ∧
    ({ served.start with kind := .warm, restored := false }.kind.clearing = false) := by decide

/-! ### Hypotheses that are met: the dictionary access protocol -/

/-- A write item of the longest value of its class, and an item of each other kind. -/
def someItems : List DapItem :=
  [⟨1, 255, 65535, 255, 1, 0, 0, []⟩, ⟨2, 7, 0x2030, 2, 0, 1, 0, [1]⟩, ⟨3, 0, 0x3000, 5, 0, 4096, 4294967295, []⟩,
    ⟨4, 13, 0x3000, 5, 1, 3, 0, [1, 2, 3]⟩]

theorem witness_items : ∀ i ∈ someItems, formedItem i = true := by decide

/-- Header of a message of kind `k` by requester `n` with `count` items, transaction id `x` and length `l`. -/
def header (k n count x l : Nat) : Bytes :=
  beBytes 1 1 ++ beBytes 1 k ++ zeros 2 ++ beBytes 2 n ++ beBytes 2 count ++ beBytes 4 x ++ beBytes 4 l ++ zeros 24

def readLocate : Bytes := header 1 0 1 7 72 ++ requestItem ⟨1, 0, 0x2030, 2, 0, 0, 0, []⟩ ++ zeros 16

theorem witness_anonymous : served.board.modReady = true ∧ served.dap.linkUp = true ∧ dapHeaderOk readLocate = true ∧
    dapKind readLocate = 1 ∧ dapRq readLocate = 0 ∧ readLocate.drop (readLocate.length - 16) = zeros 16 ∧
    dapStart readLocate = served.emmc.startCount.toNat ∧
    dapItems (dapCount readLocate) (slice readLocate 40 (readLocate.length - 56)) =
      ([⟨1, 0, 0x2030, 2, 0, 0, 0, []⟩], false) := by decide

theorem witness_malformed : dapHeaderOk (zeros 55) = false ∧ served.dapFrom 2 0 = false ∧
    ({ served with dap := DapServer.reset }).dap.linkUp = false := by decide

/-- A request of requester 1 under its key. -/
def signedBody : Bytes := header 1 1 1 7 72 ++ requestItem ⟨1, 0, 0x2030, 2, 0, 0, 0, []⟩
def signed1 : Bytes := signedBody ++ cmac (zeros 32) signedBody

/-- The module with a key in the slot of requester 1, which it saw under id 7 with the tag `tag`. -/
def keyedWith (tag : Bytes) : Chip :=
  { served with
    cipher := { Cipher.reset with slots := [(3056, ⟨1, zeros 32⟩)] }
    dap := { DapServer.reset with
      linkUp := true
      reqs := [(1, { high := some 9, seen := [⟨7, tag, [1]⟩], events := [⟨1, 1, 0, 0, 0, 0, 0, 0, 0⟩, ⟨2, 1, 0, 0, 0, 0, 0, 0, 0⟩]
                     nextEvent := 3, authLogged := none })] } }

def keyed : Chip := keyedWith (cmac (zeros 32) signedBody)

theorem witness_repeated : ∃ (m : Bytes) (k : Bytes), dapHeaderOk m = true ∧ dapKind m = 1 ∧ dapRq m = 1 ∧
    keyed.slotKey (3055 + 1) = some k ∧ cmac k (m.take (m.length - 16)) = m.drop (m.length - 16) ∧
    dapStart m = keyed.emmc.startCount.toNat ∧ keyed.start.counterOk = true ∧
    keyed.dapFrom 1 0xFE80_0000_0000_0000_0000_0000_0000_0001#128 = true ∧
    (keyed.dap.req 1).verdict (BitVec.ofNat 32 (dapXid m)) (m.drop (m.length - 16)) = .repeated [1] ∧
    ((keyedWith (zeros 16)).dap.req 1).verdict (BitVec.ofNat 32 (dapXid m)) (m.drop (m.length - 16)) = .mismatch :=
  ⟨signed1, zeros 32, by decide +kernel⟩

/-- Its acknowledgement of the first event. -/
def ackBody : Bytes := header 4 1 0 1 56
def ack1 : Bytes := ackBody ++ cmac (zeros 32) ackBody

theorem witness_ack : dapHeaderOk ack1 = true ∧ dapKind ack1 = 4 ∧ dapRq ack1 = 1 ∧
    keyed.slotKey (3055 + 1) = some (zeros 32) ∧ cmac (zeros 32) (ack1.take (ack1.length - 16)) = ack1.drop (ack1.length - 16) ∧
    dapStart ack1 = keyed.emmc.startCount.toNat ∧ dapXid ack1 ≤ (keyed.dap.req 1).sent := by decide +kernel

theorem witness_xid : xidAhead 5 6 = 1 ∧ xidAhead 0xFFFFFFFF 0xFFFFF = 1048576 ∧
    1048576 < xidAhead 5 1048582 ∧ xidWindow ≤ xidAhead 1048582 5 ∧ xidAhead 5 5 < xidWindow := by decide

theorem witness_registerWrite : served.permits 1 Obj.timeHoldoverLimit (leBytes 4 86400) = true ∧
    ofObj Obj.timeHoldoverLimit (fun d => 3 = d.ty.code ∧ d.ty.fixed ∧ (d.access = .rw ∨ d.access = .rwl) ∧
      ((boardRules d (0x2400 - d.index) ++ stepRules d (0x2400 - d.index) ++ serviceRules d).find? fun e =>
        e.1 == objKey d.index d.sub).isNone) = true := by decide

/-- The module with a DOMAIN write of three bytes open. -/
def opened : Chip := { served with dap := { served.dap with transfers := [⟨1, Obj.castingStage, true, [1, 2, 3], []⟩] } }

theorem witness_domain :
    ofObj Obj.siteMap (fun d => d.ty = .domain ∧ served.readStatus 1 d Obj.siteMap = stOk) = true ∧
    served.permits 1 Obj.castingStage (zeros 4) = true ∧ served.dap.transfers = [] ∧
    opened.permits 1 Obj.castingStage [1, 2, 3, 4] = true ∧
    (findTransfer opened.dap.transfers 1 Obj.castingStage).isSome = true := by decide

theorem witness_resend : keyed.board.modReady = true ∧ keyed.dap.linkUp = true ∧ keyed.emmc.config.requesters ≠ [] := by decide

/-! ### Hypotheses that are met: dictionary writes of the board, firmware, identity, service -/

theorem witness_boardWrites :
    served.permits 1 Obj.powerLimit (leBytes 4 0x44160000) = true ∧ served.permits 1 Obj.vcoreCeiling (leBytes 4 0x3F400000) = true ∧
    served.permits 1 Obj.timeSet (leBytes 8 (2 ^ 63)) = true ∧ served.time.ptpSource = 0 ∧
    served.permits 1 Obj.resetRequest [2] = true ∧ served.permits 1 Obj.resetRequest [3] = true := by decide

/-- The module with its identity seed; the inactive slot verified. -/
def seeded : Chip :=
  { served with
    ident := { Identity.reset with seed := some (zeros 48), puf := 1 }
    emmc := { Emmc.reset with slotB := ⟨[], 2, 5⟩ } }

theorem witness_firmware :
    served.permits 1 Obj.fwInstall [] = true ∧ served.emmc.trial = 0 ∧ served.installOpen = false ∧
    ({ served.ident with install := some ⟨1, 0⟩ }.install = some ⟨1, 0⟩) ∧
    seeded.permits 1 Obj.fwActivate [1] = true ∧ seeded.emmc.slotState seeded.inactive = 2 ∧ seeded.emmc.trial = 0 ∧
    seeded.installOpen = false ∧ seeded.ident.seed.isSome = true := by decide

def enrolBody : Bytes := [1, 2] ++ leBytes 2 3 ++ leBytes 4 1 ++ zeros 32
def enrolling : Chip := { served with cipher := { Cipher.reset with slots := [(3055, ⟨1, zeros 32⟩)] } }

theorem witness_identity :
    served.permits 1 Obj.pufEnrol [1] = true ∧ served.emmc.keyProgrammed = true ∧
    { served.emmc with keyProgrammed := false }.keyProgrammed = false ∧
    served.permits 1 Obj.hallmarkNonce (zeros 32) = true ∧ served.permits 1 Obj.configRecords [] = true ∧
    ({ seeded.ident with quotes := [(zeros 32, ⟨1, 0⟩)] }.quotes = [(zeros 32, ⟨1, 0⟩)]) := by decide

theorem witness_enrol : enrolling.permits 1 Obj.peerEnrol (enrolBody ++ cmac (zeros 32) enrolBody) = true ∧
    (enrolBody ++ cmac (zeros 32) enrolBody).length = 56 ∧
    enrolling.enrolledBy (enrolBody ++ cmac (zeros 32) enrolBody) = some [(2, 3, zeros 32)] := by decide +kernel

/-- A module that holds region 0 of casting slot 0 with one tile. -/
def oneRegion : Region := ⟨0, 0, 0, [0], [], none, []⟩
def oneCasting : Casting := ⟨7, [], [], 1, 100, [], [oneRegion], [], [], [], 0, []⟩
def casted : Chip :=
  ({ served with
    array := { TileArray.reset with
      castings := [(0, oneCasting)], tiles := [(0, { Tile.blank with region := some 0 })], uses := [(0, .bound)] } }).setReg
    (Obj.regionState 0) 1

theorem witness_sticky : served.permits 1 (Obj.stickyFamily 13) (leBytes 4 3) = true ∧
    casted.permits 1 (Obj.regionSticky 0) (leBytes 8 1) = true := by decide

def logged : Chip := served.occur 0 1 .board noRegion 0 0

theorem witness_faultCopy : logged.board.phase = .on ∧ logged.start.core0Out = true ∧ logged.board.emmcOpen = true ∧
    logged.flt.copyStopped = false ∧ (logged.flt.entries.filter fun e => decide (logged.flt.uncopied ≤ e.seq)) ≠ [] := by decide

/-- A module whose parked fetch of shard 5 halted stepping. -/
def parkedShard : UpdShard := ⟨5, 0, 0, 1, 0, 0, 0, 0, 1, 0, 0⟩

theorem witness_service :
    served.permits 1 Obj.serviceOp [1] = true ∧ served.reg Obj.serviceState ≠ 1 ∧
    served.svcCheck 1 0 = svcOk ∧ served.svcCheck 3 543 = svcOk ∧ served.svcCheck 4 191 = svcOk ∧ served.svcCheck 5 0 = svcOk ∧
    served.permits 1 Obj.serviceOp [5] = true ∧ served.reg Obj.serviceArg = 0 ∧
    (⟨5, 0, some ⟨1, 0⟩, 0⟩ : Service).origin.isSome = true ∧ (⟨3, 0, some ⟨1, 0⟩, 1⟩ : Service).reason ≠ 0 ∧
    served.flt.copyStopped = false ∧ served.sil.spillStopped = false ∧ served.array.loader = [] := by decide

/-! ### Hypotheses that are met: tiles -/

/-- A tile of region 0 that runs a program of eight words, the last two a matrix command. -/
def runTile : Tile :=
  { Tile.blank with
    status := .running, region := some 0, progWords := 8
    kindMap := [false, false, false, false, false, false, true, false]
    vregs := [(1, 5#2048), (2, 0x40000000#2048)], mregs := [(1, 1#64)], sregs := [(3, 2#64)]
    queues := [⟨0, 2, 0, 65536, 64, [.full, .free], 0, 0, 0⟩, ⟨128, 2, 1, 131072, 64, [.full, .held], 0, 1, 0⟩] }

/-- The module with a tile 0. -/
def withTile (t : Tile) : Chip := { casted with array := { casted.array with tiles := [(0, t)] } }
def run : Chip := withTile runTile

/-- Fields to try for the rows of Table 5-3: TYPE F32, F16, I32; destination 2; with an index base for RARGMAX. -/
def tryFields : List VFields :=
  [{ f0 with vd := 2, va := 2, vb := 1 }, { f0 with vd := 2, va := 2, vb := 1, ty := 1 }, { f0 with vd := 2, va := 2, vb := 1, ty := 3 },
    { f0 with vd := 2, va := 0, vb := 1 }, { f0 with vd := 2, va := 2, x := 4 * 2 ^ 22 }]

theorem witness_vectorRows : (vectorRows.all fun r => tryFields.any fun f => issues run 0 f r) = true := by decide


theorem witness_vectorInvalid : (vectorRows.all fun r => !(r.rule.ok { f0 with ty := 6 } && r.regs.ok { f0 with ty := 6 })) = true ∧
    (run.tile 0).running = true ∧ (run.tile 0).memQueue = [] ∧ (run.tile 0).region = some 0 := by decide

theorem witness_vectorFrame : vectorRows ≠ [] ∧ 31 ∉ VectorDest.regs .vector { f0 with vd := 2 } := by
  refine ⟨by simp [vectorRows, vectorRows0], by decide⟩

theorem witness_tileRegisters : (31 : Nat) ≠ 0 ∧ f0.vd = 0 := by decide

theorem witness_integerLanes : (63 : Nat) < 64 ∧ 3 ≤ ({ f0 with ty := 3 }).ty.toNat ∧ ({ f0 with ty := 4 }).ty.toNat ≤ 4 ∧
    ({ f0 with ty := 3, x := 31 }).count < 32 ∧ f0.ty.toNat = 0 ∧ ({ f0 with ty := 2 }).ty.toNat ≤ 2 ∧ (run.vIn 0).strict = false ∧
    (⟨1, 0, 0⟩ : VIn) = ⟨1, 0, 0⟩ := by decide

theorem witness_lanes : 1 ≤ ({ f0 with vd := 7 }).vd.toNat ∧ ({ f0 with vd := 7 }).vd.toNat ≤ 7 := by decide

theorem witness_empty : ({ f0 with mask := 2 }).active runTile = 0 ∧ ({ f0 with mask := 2 }).acc = false ∧
    ({ f0 with mask := 2, x := 1 }).acc = true := by decide

/-- LOOP s3 to its own word: X = 0. -/
theorem witness_loop : (run.tile 0).running = true ∧ (run.tile 0).fetchOk = true ∧
    (VRule.mk tyNone false 0x3FFFFFF).ok { f0 with vd := 3 } = true ∧ VRegs.toScalar.ok { f0 with vd := 3 } = true ∧
    (run.tile 0).targetOk 0 = true := by decide

theorem witness_queues :
    (VRule.mk tyNone false 0xFF).ok f0 = true ∧ ((run.tile 0).queue? 0).any (fun q => q.waitReady) = true ∧
    ((run.tile 0).queue? 128).any (fun q => !q.waitReady) = true ∧
    (Tile.queue? { runTile with status := .waitingQueue 0 } 0).any (fun q => q.waitReady) = true ∧
    (VRule.mk tyNone false 0).ok f0 = true ∧ (run.tile 0).matrix = [] := by decide

/-- VB names the scalar register that an address adds to. -/
theorem witness_vectorMemory :
    (VRule.mk tyNone false 0x3FFFF00).ok f0 = true ∧
    accessOk (f0.address runTile) 32 256 = true ∧ accessOk (f0.address runTile) 512 512 = true ∧
    accessOk (f0.address runTile) 32 8 = true ∧
    accessOk (524288 - 256) 32 256 = true ∧ accessOk 524288 32 256 = false := by decide

theorem witness_memQueue : ({ runTile with memQueue := [.store (zeros 256) 1 0] }).memQueue = .store (zeros 256) 1 0 :: [] ∧
    runTile.matrix = [] ∧ (zeros 256).length % 4 = 0 := by decide

/-- A pair whose bounds are 0 and 1 and whose width is 1: R148 accepts it. -/
def smallTable : Bytes := leBytes 4 0 ++ leBytes 4 0x3F800000 ++ leBytes 4 0x3F800000 ++ zeros 52 ++ zeros 6144

def tableMem : List Host.Cell := [(6, 0x80#8), (7, 0x3F#8), (10, 0x80#8), (11, 0x3F#8)]

theorem witness_tables :
    tableOk (Memory.readBytes tableMem 0 tablePairBytes) = true ∧ accessOk 0 512 tablePairBytes = true ∧
    (VRule.mk tyF false 0xFFFF).ok f0 = true ∧ f0.tid = tableWord smallTable 44 % 2 ^ 16 ∧
    ({ f0 with x := 1 }).tid ≠ tableWord smallTable 44 % 2 ^ 16 := by decide

/-! ### Hypotheses that are met: matrix unit, router, castings -/

/-- MMA of one block each of binary32: A at 0, B at 4,096, D at 8,192. -/
def mmaWord : BitVec 128 := BitVec.ofNat 128 (2 ^ 124 + 2 ^ 84 + 512 * 2 ^ 32 + 1024)
def mmaTile : Tile := { runTile with pc := 6 }
def mmaJob : MatrixJob := ⟨0, 8192, zeros 4096, 0, 0, 0, 0, []⟩

theorem witness_mma :
    mmaTile.running = true ∧ mmaTile.memQueue = [] ∧ mmaTile.matrix = [] ∧ mmaTile.fetchMxOk = true ∧
    (MxCmd.ofWord mmaWord.toNat).valid ((withTile mmaTile).vIn 0).arith mmaTile.descs.length = true ∧
    (MxCmd.ofWord 0).valid 0 0 = false ∧ ({ mmaTile with matrix := [mmaJob] }).matrix = mmaJob :: [] := by decide

theorem witness_patrol : run.array.useOf 0 ≠ .failed ∧ (543 : Nat) < 544 ∧ (1023 : Nat) < 1024 := by decide

def flitTile : Tile := { runTile with queues := [⟨0, 2, 0, 65536, 64, [.full, .free], 0, 0, 1⟩] }

/-- Tile 1 receives from tile 0 by route 1. -/
def route01 : Route := ⟨1, 0, 0, 0, 128, 1, 0, 1, 64⟩
def routed : Chip :=
  { run with array := { run.array with
    castings := [(0, { oneCasting with routes := [route01, { route01 with route := 2, kind := 3 }] })]
    tiles := [(0, runTile), (1, { flitTile with queues := [⟨0, 2, 1, 65536, 64, [.free, .free], 0, 0, 0⟩] })] } }

theorem witness_router :
    (flitTile.flitTarget 65600 64).isSome = true ∧ flitTile.flitTarget 65536 64 = none ∧
    ((routed.tile 0).queue? 128).any (fun q => !q.inbound && q.slot q.nextMove == .full && q.route == 1) = true ∧
    ((routed.array.casting 0).any fun k => k.routes.any fun r => r.route == 1 && r.kind == 0) = true ∧
    routed.array.physical 1 = 1 ∧ ((routed.tile 1).queue? 0).any (fun u => u.slot u.nextMove == .free) = true := by decide

theorem witness_regionControl :
    casted.permits 1 (Obj.regionControl 0) [1] = true ∧ casted.permits 1 (Obj.regionControl 0) [2] = true ∧ casted.regionState 0 = 1 ∧
    (casted.setReg (Obj.regionState 0) 4).permits 1 (Obj.regionControl 0) [2] = true ∧
    casted.array.casting (0 : Fin 4) = some oneCasting ∧ (∀ r ∈ oneCasting.regions, r.region < 64) ∧
    casted.permits 1 (Obj.castingControl (0 : Fin 4)) [1] = true ∧ casted.permits 1 (Obj.castingControl (0 : Fin 4)) [2] = true ∧
    (∀ r ∈ oneCasting.regions, 1 ≤ casted.regionState (regionIndex 0 r.region) ∧ casted.regionState (regionIndex 0 r.region) ≤ 3) := by
  decide

theorem witness_castingLoads :
    served.permits 1 Obj.castingLoad [3] = true ∧ served.array.loader = [] ∧
    ({ served.array with loader := [.load 0 [] ⟨1, 0⟩] }.loader = [.load 0 [] ⟨1, 0⟩]) ∧
    casted.permits 1 Obj.castingUnload [0] = true ∧ casted.mayUnload 0 = true ∧ casted.array.loader = [] ∧
    casted.permits 1 (Obj.regionImage (0 : Fin 256)) [] = true ∧ casted.loadedRegion 0 = some oneRegion ∧ casted.regionState 0 ≠ 2 ∧
    casted.regionState 0 ≠ 3 := by decide

/-- Tile 0 has failed; with every spare failed too there is none. -/
def remapping : Chip :=
  { casted with array := { casted.array with loader := [.remap 0], uses := [(0, .failed)] } }
def noSpare : Chip :=
  { remapping with array := { remapping.array with uses := (0, .failed) :: (List.range 32).map fun i => (512 + i, TileUse.failed) } }

theorem witness_remap :
    (remapping.array.castings.findSome? fun e => (e.2.regions.find? fun x => x.tiles.contains 0).map fun x => (e.1, e.2, x)) =
      some (0, oneCasting, oneRegion) ∧
    remapping.array.useOf (remapping.array.physical 0) = .failed ∧ (remapping.array.bestSpare [] 0).isSome = true ∧
    noSpare.array.bestSpare [] 0 = none ∧ served.permits 1 Obj.tilesRetiredClear [1] = true := by decide

/-! ### Hypotheses that are met: the step, time -/

/-- A casting of two slots whose region runs one entry in each. -/
def twoSlots : Casting :=
  ⟨7, [], [], 2, 100, [], [oneRegion], [], [⟨0, 0, 1, 0, 0, 3⟩, ⟨1, 0, 1, 0, 0, 4⟩], [], 0, []⟩

/-- Stepping is on, the casting's region runs, the site has one module: a step may open. -/
def mayStep : Chip :=
  (({ casted with
      array := { casted.array with castings := [(0, twoSlots)] }
      step := { StepSeq.reset with on := true } }).setReg (Obj.regionState 0) 2).setReg Obj.bzSiteModules 1

/-- Its step is open: what STEP_OPEN leaves, its step key put at 0 so that no test has to form a digest. -/
def stepped : Chip :=
  { mayStep with
    regs := mayStep.regs ++ [(Obj.stepState, 1), (Obj.stepNumber, 1)]
    step := { mayStep.step with
      inStep := true, opened := [(0, 1)], begun := [(0, 1)], warm := true, openTime := 1000, openMono := 1000 }
    array := { mayStep.array with tiles := [(0, { Tile.blank with region := some 0, status := .running, pc := 3, since := 1000 })] }
    emmc := { mayStep.emmc with runMark := true } }

/-- The tile has halted at the end of its entry. -/
def entryDone : Chip := stepped.setTile 0 { stepped.tile 0 with status := .halted }

/-- Every entry of every slot has ended. -/
def slotsDone : Chip :=
  { stepped with step := { stepped.step with opened := [(0, 2)], begun := [(0, 2)], ended := [(0, 2)] } }

/-- The same with a parked shard whose fetch has not come in. -/
def fetching : Chip := { slotsDone with upd := { slotsDone.upd with shards := [parkedShard] } }

theorem witness_stepOpen : mayStep.mayOpen = true ∧ served.mayOpen = false := by decide

theorem witness_slotOpen : stepped.step.inStep = true ∧ stepped.step.abandoned = false ∧ stepped.step.committing = false ∧
    (stepped.stepCastings.filter fun e => stepped.slotMayOpen e.1 e.2) ≠ [] ∧
    100 ≤ (stepped.setReg Obj.pacingDuty 90).reg Obj.pacingDuty + 10 := by decide +kernel

theorem witness_entryEnd : (entryDone.entryOf 0).isSome = true ∧ (entryDone.array.regionOf 0) = some oneRegion ∧
    entryDone.step.inStep = true ∧ entryDone.step.abandoned = false ∧
    (∀ l ∈ oneRegion.tiles, (entryDone.tile (entryDone.array.physical l)).entryOver = true) := by decide +kernel

theorem witness_wordFinal : slotsDone.step.inStep = true ∧ slotsDone.step.contributed = false ∧ slotsDone.slotsOver = true ∧
    slotsDone.reduced = true ∧ slotsDone.fetchMissing = none ∧ fetching.fetchMissing = some parkedShard ∧
    fetching.step.committing = false ∧ fetching.step.abandoned = false ∧ fetching.slotsOver = true ∧ fetching.reduced = true := by
  decide +kernel

theorem witness_decision : stepped.step.inStep = true ∧ stepped.sil.replay.running = false ∧ stepped.step.combined = none ∧
    stepped.step.records = none ∧ (1#32) ≠ 0 ∧ (0x20#32).toNat &&& abortMask ≠ 0 := by decide +kernel

theorem witness_stepControl : stepped.permits 1 Obj.stepControl [1] = true ∧ served.permits 1 Obj.stepControl [1] = true ∧
    stepped.permits 1 Obj.stepControl [2] = true ∧ stepped.reg Obj.ckptState = 0 ∧
    stepped.permits 1 Obj.patinaEmpty [1] = true ∧ served.permits 1 Obj.patinaEmpty [0] = true ∧ served.step.inStep = false := by
  decide +kernel

/-- TIME64 set, the SMA input followed, in holdover. -/
def timed : Chip :=
  ({ served with time := { served.time with set := true, mono := 1999999000, sma := ⟨3, some 1000000000, true, 0⟩, followed := true } }).setReg
    Obj.timeSource 1
def holding : Chip := { timed with time := { timed.time with sma := PpsState.reset, holdover := some 5 } }

theorem witness_time : timed.time.running = true ∧ timed.time.set = true ∧ timed.reg Obj.timeSource = PpsInput.source .sma ∧
    toSecond timed.now = 1000 ∧ -1000000 ≤ toSecond timed.now ∧ toSecond timed.now ≤ 1000000 ∧
    holding.time.holdover.isSome = true ∧ holding.time.pick (holding.reg Obj.timeRefSelect) = 0 := by decide

/-- Management port 0 as a master, Braze port 0 as port 1 of PTP. -/
def ptp (st : PtpState) : Chip :=
  ({ served with time := { served.time with
      ports := { PtpPort.reset with state := st, lastSync := some (30, 10), reqTx := some 40 } :: List.replicate 8 PtpPort.reset } }).setReg
    Obj.ptpPortEnable 3
/-- The same with the link of Braze port 0 up. -/
def ptpBraze : Chip := (ptp .master).setReg (Obj.bzPortState 0) 2

theorem witness_ptp : (ptp .master).ptpLive 2 = false ∧ (ptp .master).ptpLive 0 = true ∧ (ptp .master).time.ports.length = 9 ∧
    ((ptp .slave).time.ports.getD 0 PtpPort.reset).state = .slave ∧ ((ptp .master).time.ports.getD 0 PtpPort.reset).best = none ∧
    ptpBraze.ptpLive 1 = true := by decide

/-! ### Hypotheses that are met: updates, checkpoints, LPDDR6 -/

/-- A 2 × 32 tensor of casting 7 and its one shard. -/
def someTensor : UpdTensor :=
  { tensorId := 0x0000000100000000, mTensorId := 2, copyTensorId := 3, region := 0, wFormat := 0, copyFormat := 0xFF, mForm := 0
    vForm := 0x10, decay := 0, beta1 := 0x3F000000, beta2 := 0x3F000000, eps := 0x3F800000, eps1 := 0, weightDecay := 0
    lrMult := 0x3F800000, rows := 2, cols := 32 }
def someShard : UpdShard := ⟨5, 0, 0, 2, 2147487744, 2147491840, 2147549184, 2147614720, 0xFFFF, 0, 0⟩

/-- The step is committing, its decision records are held; one shard is owned. -/
def committing : Chip :=
  { stepped with
    step := { stepped.step with combined := some 0, records := some [], committing := true }
    upd := { stepped.upd with castingId := 7, tensors := [someTensor], shards := [someShard] } }

/-- Its update runs, every shard flipped. -/
def updated : Chip := { committing with upd := { committing.upd with running := true } }

/-- One shard waits at a held slot. -/
def holdUp : Chip :=
  { committing with upd := { committing.upd with running := true, waiting := [5], holds := [(11, 2)], shards := [someShard, parkedShard] } }

/-- A parked shard is not written back. -/
def unwrittenParked : Chip := { committing with upd := { committing.upd with running := true, shards := [parkedShard], unwritten := [5] } }

/-- An update table with one tensor and one shard. -/
def someTable : Bytes :=
  leBytes 4 0x50555443 ++ leBytes 2 1 ++ zeros 2 ++ leBytes 8 7 ++ leBytes 4 1 ++ leBytes 4 1 ++ leBytes 8 64 ++ leBytes 8 128 ++
  zeros 24 ++
  (leBytes 8 0x100000000 ++ leBytes 8 2 ++ leBytes 8 3 ++ zeros 3 ++ [0xFF#8, 0#8, 0x10#8, 0#8, 0#8] ++ leBytes 4 0x3F000000 ++
    leBytes 4 0x3F000000 ++ leBytes 4 0x3F800000 ++ zeros 8 ++ leBytes 4 0x3F800000 ++ leBytes 4 2 ++ leBytes 4 32) ++
  (leBytes 4 5 ++ zeros 8 ++ leBytes 4 2 ++ leBytes 8 2147487744 ++ leBytes 8 2147491840 ++ leBytes 8 2147549184 ++ leBytes 8 2147614720 ++
    leBytes 2 0xFFFF ++ zeros 14)

/-- The module whose casting has the footprint the table names. -/
def tabled : Chip := { casted with mem := { casted.mem with footprints := [⟨0, 2147483648, 1048576⟩] } }

/-- A schedule of one segment at a constant rate. -/
def someSchedule : Bytes := zeros 8 ++ leBytes 4 0x3F800000 ++ zeros 4 ++ (List.replicate 63 (leBytes 4 0xFFFFFFFF ++ zeros 12)).flatten

theorem witness_updateBegin : committing.step.inStep = true ∧ committing.step.committing = true ∧ committing.step.records.isSome = true ∧
    committing.upd.running = false ∧ committing.sil.replay.running = false ∧ updated.step.inStep = true ∧
    updated.step.committing = true ∧ updated.updateWhole = true := by decide +kernel

theorem witness_tableWrites : tabled.permits 1 Obj.updateTable someTable = true ∧ tabled.badUpdTable someTable = none ∧
    (served.badUpdTable someTable).isSome = true ∧ tabled.permits 1 Obj.lrSchedule someSchedule = true ∧
    scheduleBad someSchedule = none ∧ (scheduleBad (zeros 1024)).isSome = true := by decide +kernel

/-- Version 0/0 is in slot 0, which is active. -/
def header0 : ShardHeader := ⟨(0, 0), (0, 0), 0, 0, 0, 0⟩

theorem witness_gather : committing.ownShard 6 = none ∧ committing.ownShard 5 = some someShard ∧
    committing.upd.tensors[someShard.tensor]? = some someTensor ∧ (committing.shardHeader someShard).1 = .inl header0 ∧
    header0.slotFor (some ⟨1, 2⟩) = none ∧ header0.slotFor none = some 0 ∧ someShard.isParked = false ∧
    ((committing.shardHeader someShard).2.readMem [] (someShard.slotAddr 0 + (someTensor.gatherPart 2).1) (someTensor.gatherPart 2).2).1 =
      .inl (zeros 256) := by decide +kernel

theorem witness_holds : committing.holdsOn 5 0 = 0 ∧ holdUp.holdsOn 5 1 ≠ 0 ∧
    ({ holdUp with upd := { holdUp.upd with running := false } }).upd.running = false ∧ holdUp.ownShard 5 = some someShard ∧
    holdUp.upd.running = true ∧ (5 : BitVec 32) ∈ holdUp.upd.waiting ∧ (holdUp.shardHeader someShard).1 = .inl header0 ∧
    someShard.shardId = 5 ∧ holdUp.holdsOn 5 header0.target ≠ 0 ∧ unwrittenParked.ownShard 5 = some parkedShard ∧
    unwrittenParked.upd.running = true ∧ (5 : BitVec 32) ∈ unwrittenParked.upd.unwritten ∧ (5 : BitVec 32) ∉ unwrittenParked.upd.stuck := by
  decide +kernel

/-- No step is open; key slot 0 holds an XTS key. -/
def atBoundary : Chip := { committing with step := { StepSeq.reset with on := true } }
def exportable : Chip := { atBoundary with cipher := { Cipher.reset with slots := [(0, ⟨2, zeros 64⟩)] } }
def exporting : Chip := exportable.setReg Obj.ckptState 2

theorem witness_export : committing.permits 1 Obj.ckptRequest [1] = true ∧ committing.reg Obj.ckptState = 0 ∧
    committing.step.inStep = true ∧ atBoundary.permits 1 Obj.ckptRequest [1] = true ∧ atBoundary.step.inStep = false ∧
    atBoundary.ckptKey = none ∧ exportable.ckptKey = some (zeros 64) ∧ exportable.permits 1 Obj.ckptRequest [1] = true ∧
    exportable.reg Obj.ckptState = 0 ∧ exporting.permits 1 Obj.ckptRequest [2] = true ∧ exporting.reg Obj.ckptState = 2 ∧
    exportable.permits 1 Obj.ckptRequest [2] = true := by decide +kernel

/-- The same with stepping off. -/
def importing : Chip := ({ exportable with step := StepSeq.reset }).setReg Obj.stepState 0

theorem witness_import : importing.permits 1 Obj.ckptImport (zeros 4096) = true ∧ importing.importStatus = stOk := by decide +kernel

theorem witness_symbol : (35 : Nat) < 36 ∧ (1#8 : Byte) ≠ 0 ∧ checkBurst [(35, 255#8)] = .single 35 255 := by decide +kernel

/-- A sub-channel whose retirement copy runs. -/
def copying : Chip := { served with mem := { served.mem with copying := some (191, none) } }

theorem witness_memory2 : served.groupServes 0 = true ∧ 32 * 1 < memBytes ∧ memBytes ≤ 32 * memBytes ∧
    (served.burstTag 32).poison = false ∧ checkBurst [(3, 1#8)] = .single 3 1 ∧ checkBurst [(3, 1#8), (4, 1#8)] = .uncorrectable ∧
    Chip.reset.mem.up = false ∧ served.mem.up = true ∧ f32Lt f32At105 0x42D40000 = true ∧ f32Lt f32At105 0x42C80000 = false ∧
    f32Lt f32At100 0x42C80000 = false ∧ tempRow 0x42D40000 = 4 ∧ tempRow 0x42D20000 = 3 := by decide +kernel

theorem witness_retire : served.permits 1 Obj.memRetireRequest [191] = true ∧ served.mem.copying = none ∧ served.mem.candidates = [] ∧
    served.retireBlocked 191 = false ∧ (served.setReg (Obj.groupRetired 23) 1).retireBlocked 191 = true ∧
    copying.mem.copying = some (191, none) ∧ copying.mem.candidates = [] ∧ served.permits 1 Obj.memRetiredClear [1] = true := by
  decide +kernel

/-! ### Hypotheses that are met: sillage and replay, site mapping, Braze -/

/-- Spilling is enabled and one record waits. -/
def spilling : Chip := ({ served with sil := { served.sil with ring := [(0, zeros 112)] } }).setReg Obj.slSpillEnable 1

/-- The record of the module's first step, made by a step that was skipped. -/
def skippedStep : Chip := after (.combinedAssayReceived 1 []) (at_ (after (.decisionRecordsHeld []) (at_ stepped)))
def firstRecord : Bytes := ((skippedStep.sil.ring.getLast?).map fun (x : Nat × Bytes) => x.2).getD []

/-- A module with a replay source and nothing running. -/
def replayable (src : Bytes) : Chip :=
  ({ mayStep with step := StepSeq.reset }).setBlob Obj.replaySource src

/-- A replay runs, with a step open or not. -/
def replaying (c : Chip) : Chip := { c with sil := { c.sil with replay := ⟨[zeros 112], 0, true, false, false, none, none⟩ } }

theorem witness_spill : spilling.reg Obj.slSpillEnable ≠ 0 ∧ spilling.sil.spillStopped = false ∧ spilling.board.emmcOpen = true ∧
    spilling.sil.ring[spilling.sil.spilled]? = some (0, zeros 112) ∧ ({ served.sil with spillStopped := true }).spillStopped = true := by
  decide

theorem witness_replay : (replayable firstRecord).permits 1 Obj.replayControl [1] = true ∧ (replayable firstRecord).step.inStep = false ∧
    (replayable firstRecord).sil.replay.running = false ∧ (replayable []).replayReason ≠ 0 ∧
    served.permits 1 Obj.replayControl [2] = true ∧ (replaying stepped).permits 1 Obj.replayControl [2] = true ∧
    (replaying stepped).sil.replay.running = true ∧ (replaying stepped).step.inStep = true ∧
    (replaying stepped).step.committing = false ∧ (replaying stepped).reg Obj.ckptState = 0 ∧
    (replaying served).permits 1 Obj.replayControl [2] = true ∧ (replaying served).step.inStep = false := by decide +kernel

/-- A map of one group of this module alone, its digest still 0. -/
def mapBody : Bytes :=
  leBytes 4 0x504D5443 ++ leBytes 2 1 ++ leBytes 2 1 ++ leBytes 8 7 ++ leBytes 2 1 ++ zeros 6 ++ leBytes 4 64 ++ leBytes 4 80 ++
  leBytes 4 80 ++ leBytes 4 82 ++ zeros 24 ++ (zeros 4 ++ leBytes 2 1 ++ zeros 2 ++ leBytes 4 80 ++ zeros 4) ++ leBytes 2 0
def soloMap : Bytes := splice mapBody 0x28 (mapDigest mapBody)

/-- Module 0 of casting 7. -/
def numbered : Chip := casted.setReg Obj.bzModuleNumber 0

/-- A map that is agreed with module 1, whose route 5 sends to this module's route 6; layer 1 has one buffer. -/
def pairMap : MapData :=
  ⟨[], zeros 24, 2, [⟨0, [0, 1], 0⟩], [⟨1, 0, 1, false, 2147483648, 4096⟩], [⟨1, 5, 0, 0, 0, 6, 0, 0⟩, ⟨0, 6, 0, 0, 1, 5, 0, 0⟩]⟩
def mapped : Chip :=
  ({ numbered with map := { SiteMap.reset with maps := [(0, some pairMap)], last := some 0 } }).setReg Obj.siteMapState 1
def owning : Chip := { mapped with upd := { mapped.upd with tensors := [someTensor], shards := [someShard] } }

theorem witness_siteMap : numbered.permits 1 Obj.siteMap soloMap = true ∧ numbered.slotOfId (u64At soloMap 8) = some 0 ∧ (numbered.mapPeers (mapDataOf soloMap)).isEmpty = true ∧
    (numbered.badMap mapBody).isSome = true := by decide +kernel

theorem witness_mapReply : mapped.lastMap = some pairMap ∧ mapped.reg Obj.siteMapState = 1 ∧ (1 : BitVec 16) ∈ mapped.mapPeers pairMap ∧
    (2 : BitVec 16) ∉ mapped.mapPeers pairMap ∧ zeros 23 ≠ pairMap.digest ∧ zeros 24 = pairMap.digest ∧
    Version.ver ⟨0, 0⟩ = (mapped.reg Obj.shardVersionRound, mapped.reg Obj.shardVersionStep) ∧
    ((owning.setReg Obj.shardVersionStep 9).versionBefore ≠ some (0, 1)) ∧ owning.upd.shards ≠ [] ∧
    Ver.before (0, 9) (0, 1) = false := by decide +kernel

/-- A step is open and layer 1 has no gather yet. -/
def gathering : Chip := { owning with step := { StepSeq.reset with inStep := true } }
def someGather : Gather := ⟨9, 1, 0, 0, none, none, 1, 0, none, false, false, none, 0⟩
/-- Shard 9 of another module is asked for; shard 5 is parked and being fetched. -/
def waitingGather : Chip :=
  { gathering with
    map := { gathering.map with gathers := [someGather], uses := [⟨0, 1, 0, 0, 0, false⟩] }
    upd := { gathering.upd with shards := [parkedShard] } }

theorem witness_gathers : gathering.layerMap 1 = some (0, ⟨1, 0, 1, false, 2147483648, 4096⟩) ∧ gathering.nextPass 1 false = some 0 ∧
    gathering.step.inStep = true ∧ gathering.step.abandoned = false ∧ gathering.step.committing = false ∧
    (gathering.map.uses.filter fun u => u.layer == (1 : BitVec 16) && !u.free).length < 1 ∧ gathering.earlierIssued 0 1 = true ∧
    gathering.layerMap 2 = none ∧ waitingGather.fetchOpen 5 = some parkedShard ∧ waitingGather.fetchOpen 9 = none ∧
    waitingGather.gatherOf 9 = some someGather ∧ waitingGather.gatherWaiting 9 = some someGather ∧ someGather.retries ≠ 0 ∧
    waitingGather.gatherWaiting 10 = none ∧ (casted.setReg (Obj.dmaState 511) 1).dmaStateOf 511 = dmaWaiting ∧
    casted.dmaStateOf 511 ≠ dmaWaiting ∧ casted.dmaStateOf 511 ≠ dmaRunning := by decide +kernel

theorem witness_bzPorts : served.board.phase = .on ∧ served.reg (Obj.bzPortState 7) ≠ 2 ∧ served.reg (Obj.bzPortState 7) ≠ 4 ∧
    (served.setReg (Obj.bzPortState 7) 4).reg (Obj.bzPortState 7) = 4 ∧ served.reg (Obj.bzPortEnable 7) = 1 ∧
    (served.setReg (Obj.bzPortState 7) 0).reg (Obj.bzPortState 7) = 0 ∧ served.permits 1 (Obj.bzPortEnable 7) [0] = true := by decide

/-- A frame from module 1 to module 0. -/
def fromOne (cls seq channel msg flags : Nat) (data : Bytes) : BzFrame := bzFrame (16 + cls) flags 0 1 0 seq 0 channel msg 0 0 0 data
/-- Port 0 is up; a frame for module 1 waits for its acknowledgement; module 2 is lost. -/
def linked : Chip :=
  ({ mapped with bz := { Braze.reset with
      flows := [(1, { BzFlow.start with unacked := [⟨fromOne 0 3 0 0 0 [], 0⟩] }), (2, { BzFlow.start with lost := true })]
      credits := [(0, ⟨0, 0, 2, 1⟩)] } }).setReg (Obj.bzPortState 0) 2

theorem witness_bzTimers : ((linked.bzFlow 1).unacked.find? fun x => x.frame.hdr.seq == (3 : BitVec 32)).isSome = true ∧
    ((linked.bzFlow 1).unacked.find? fun x => x.frame.hdr.seq == (4 : BitVec 32)) = none ∧ 0 < linked.reg Obj.bzRetryLimit ∧
    (linked.setReg Obj.bzRetryLimit 0).reg Obj.bzRetryLimit ≤ 0 ∧ (∀ e ∈ casted.bz.flows, e.2.lost = false) ∧
    linked.bzUpPorts ≠ [] ∧ linked.bindingAt 0 = some (0, ⟨1, 5, 0, 0, 0, 6, 0, 0⟩) ∧
    (linked.bzCredit 0).taken < (linked.bzCredit 0).given ∧ (0 : BitVec 16).toNat = linked.reg Obj.bzModuleNumber ∧
    linked.bindingAt 1 = some (0, ⟨0, 6, 0, 0, 1, 5, 0, 0⟩) ∧ (linked.bzCredit 1).given ≤ (linked.bzCredit 1).taken ∧
    served.permits 1 Obj.bzModuleNumber (leBytes 2 4095) = true := by decide +kernel

/-- The assay OR of the open step has been contributed to and is not held. -/
def contributed : Chip := { stepped with step := { stepped.step with contributed := true } }

theorem witness_deadline : contributed.step.inStep = true ∧ contributed.deadlineOpen (treeNumber 5) = true ∧
    contributed.deadlineOpen (treeNumber 6) = true ∧ contributed.deadlineWaits = false ∧ contributed.step.committing = false ∧
    contributed.step.combined = none ∧ stepped.deadlineOpen (treeNumber 5) = false := by decide +kernel

/-- The first gradient collective of layer 1 in this step, issued with module 1; each side owns one image. -/
def gradCollective : Collective :=
  { Collective.early (collNumber 7 0 1 0) 0 with
    issued := true, members := [0, 1], fmt := 3, own := zeros 2048, chunkCount := 1, added := [0], acc := [] }
def reducing : Chip := { linked with bz := { linked.bz with collectives := [gradCollective, Collective.early (collNumber 4 0 6 0) 0] } }
def gradNumber : Nat := collNumber 7 0 1 0

theorem witness_frames : linked.bzUp 1 = false ∧ linked.bzUp 0 = true ∧ linked.bzWellFormed 0 (fromOne 1 0 0 0 0 []) = false ∧
    (∀ cls ∈ [0, 3, 4, 5], linked.bzWellFormed cls (fromOne cls 0 0 0 0 [7]) = true) ∧ linked.bz.conflict = false ∧
    (linked.bzFlow 1).rxEpoch = 0 ∧ (linked.bzFlow 1).rxNext = 0 ∧ (linked.bzFlow 1).rxHeld = [] ∧
    seqBefore (fromOne 0 0xFFFFFFFF 0 0 0 []).hdr.seq (linked.bzFlow 1).rxNext = true := by decide +kernel

theorem witness_collective : reducing.collective gradNumber 0 = some gradCollective := rfl

theorem grad_chunkLen : gradCollective.chunkLen 0 = 2048 := by
  have h : gradCollective.own.length = 2048 := List.length_replicate
  unfold Collective.chunkLen
  rw [h]
  decide

theorem witness_chunks : 0 + 8 < gradCollective.chunkLen 0 ∧ (Sparse.get [] gradCollective.inbuf 1).length < gradCollective.chunkLen 0 ∧
    gradCollective.members = [0, 1] ∧ gradCollective.added = [0] := by
  have h : gradCollective.inbuf = [] := rfl
  rw [grad_chunkLen, h]
  exact ⟨by decide, by decide, rfl, rfl⟩

theorem witness_operands : linked.collective gradNumber 0 = none ∧
    gradCollective.issued = true ∧ (1 : BitVec 16) ∈ gradCollective.members ∧ (fromOne 3 0 gradNumber 0 0 []).hdr.fmt ≠ gradCollective.fmt ∧
    (bzFrame 19 0 0 1 0 0 0 gradNumber 0 0 0 3 (zeros 8)).hdr.fmt = gradCollective.fmt ∧ gradCollective.done = false ∧
    gradCollective.chunk < gradCollective.chunkCount ∧ collKind gradNumber ∈ [1, 2, 7] ∧ (1 : BitVec 16) ∉ gradCollective.added ∧
    linked.instanceGone gradNumber 0 = false ∧
    (linked.setReg Obj.stepNumber 1).instanceGone gradNumber 0 = true ∧
    reducing.collective (collNumber 4 0 6 0) 0 = some (Collective.early (collNumber 4 0 6 0) 0) := by decide +kernel

theorem witness_trees : 0 < (linked.setReg Obj.stepNumber 1).reg Obj.stepNumber ∧ linked.reg Obj.stepNumber ≤ 0 ∧
    treeNumber 6 ≠ treeNumber 5 ∧ (linked.treeNode (treeNumber 6) 0).own = none ∧
    1 ∈ treeChildren ((linked.setReg Obj.bzSiteModules 2).reg Obj.bzModuleNumber) ((linked.setReg Obj.bzSiteModules 2).reg Obj.bzSiteModules) ∧
    (linked.setReg Obj.bzModuleNumber 9).reg Obj.bzModuleNumber ≠ 0 ∧ 1 = treeParent ((linked.setReg Obj.bzModuleNumber 9).reg Obj.bzModuleNumber) := by
  decide +kernel

theorem witness_loose : linked.bzWellFormed 1 (fromOne 1 0 0 0 0 (zeros 8)) = true ∧ (linked.bzFlow 1).waiting = [] ∧ beNat (zeros 8) = 0 ∧
    linked.bzWellFormed 2 (fromOne 2 0 0 0 0 []) = true ∧ 0 < 2 ^ 28 ∧ linked.bzWellFormed 6 (fromOne 6 0 0 0 0 []) = true ∧
    linked.bzWellFormed 6 (bzFrame 22 0 0 0 0 0 0 0 0 0 0 0 []) = true ∧ linked.bzSameNumber 0 = true ∧ linked.bzSameNumber 1 = false ∧
    quoteDevice (zeros 3264) ≠ linked.blob Obj.deviceId := by decide +kernel

/-! ### Hypotheses that are met: anneal rounds, site links, cipher engine, DMA -/

/-- A round table for the one shard of `committing`. -/
def someRounds : Bytes :=
  leBytes 4 0x4E525443 ++ leBytes 2 1 ++ zeros 2 ++ leBytes 8 7 ++ leBytes 4 1 ++ leBytes 2 2 ++ leBytes 2 5 ++ leBytes 8 64 ++
  zeros 32 ++
  (leBytes 4 5 ++ zeros 4 ++ leBytes 8 2147745792 ++ leBytes 8 2147811328 ++ leBytes 8 2147876864 ++ leBytes 8 2147942400 ++
    leBytes 8 2148270080 ++ leBytes 8 9 ++ zeros 8)

/-- Sites 0, this one, and 1 form the group; the update table stands; no step is open. -/
def grouped : Chip :=
  (({ tabled with upd := { tabled.upd with castingId := 7, tensors := [someTensor], shards := [someShard] } }).setReg
    Obj.rndSites 3).setReg Obj.bzModuleNumber 0

/-- With the round table in force. -/
def rounds : Chip := (grouped.useRoundTable someRounds).setReg Obj.rndEnable 1

/-- Module 0 of site 1. -/
def mate : Nat := slkPartner 1 0
/-- A session with it that stands. -/
def standing : SlkSession := { SlkSession.start 3072 with
  peerStart := some 5, up := true, confirmed := true, answered := true, rxKnown := true, epochTx := 2, pnTx := 7 }

/-- Port 0 of the site links is up, the session stands, and the partner is reachable. -/
def meeting : Chip :=
  (({ rounds with
      slk := { rounds.slk with sessions := [(mate, standing)], greeted := [1], histories := [1] }
      cipher := { Cipher.reset with slots := [(9, ⟨1, zeros 32⟩), (3074, ⟨1, zeros 32⟩), (3077, ⟨1, zeros 32⟩)] }
      rnd := { rounds.rnd with partners := [(1, partnerReachable)] } }).setReg (Obj.slkPortState 0) 2).setReg Obj.slkMasterSlot 9

/-- Both receive slots are taken. -/
def crowded : Chip := { meeting with rnd := { meeting.rnd with contributions := [⟨2, 1, 0⟩, ⟨3, 1, 1⟩] } }

/-- A vote pends on the first merge. -/
def voting : Chip := { stepped with rnd := { stepped.rnd with pending := some 1 } }

/-- The greeting that site 1 sends where it agrees. -/
def agreeing : Greeting := { rounds.greeting with siteIndex := 1 }

theorem witness_rounds : grouped.permits 1 Obj.roundTable someRounds = true ∧ grouped.badRoundTable someRounds = none ∧
    (served.badRoundTable someRounds).isSome = true ∧ rounds.rnd.shards ≠ [] ∧ meeting.contributionInLimits 1 1 = true ∧
    meeting.contributionInLimits 1 0 = false ∧ meeting.contributionInLimits 1 5 = true ∧ meeting.contributionInLimits 1 6 = false ∧ meeting.freeRxSlot = some 0 ∧
    crowded.freeRxSlot = none ∧ 1 ∈ meeting.slk.greeted ∧ meeting.partnerState 1 ≠ partnerRefused ∧ (1 : Nat) ∉ rounds.slk.greeted := by
  decide +kernel

theorem witness_whole : (!meeting.rnd.shards.isEmpty &&
    meeting.rnd.shards.all (fun (rs : RoundShard) => (([(5, [])] : List (BitVec 32 × Bytes)).find? fun x => x.1 == rs.shardId).isSome) &&
    !(meeting.rnd.contributions.any fun x => x.site == 1 && x.round == 1) && !meeting.rnd.rejected.contains (1, 1)) = true := by
  decide +kernel

/-- The update table written is `someTable`, whose digest a greeting carries. -/
theorem greeting_agrees (g : Greeting) (h : g = agreeing) : rounds.greetingOk 1 g = true := by
  subst h
  have h1 : bit (rounds.reg Obj.rndSites) 1 = true := by decide +kernel
  have h2 : (rounds.greeting.siteIndex) = 0 := by decide +kernel
  simp [Chip.greetingOk, agreeing, h1, h2]

theorem witness_greeting : rounds.greetingOk 1 { agreeing with groupId := agreeing.groupId + 1 } = false := by
  have h : (agreeing.groupId + 1 == rounds.greeting.groupId) = false := by
    have e : agreeing.groupId = rounds.greeting.groupId := rfl
    rw [e, show rounds.greeting.groupId = 0 from by decide +kernel]
    decide
  unfold Chip.greetingOk
  simp only [h, Bool.false_and]

/-- The donor of a fetch is site 1; a fetch runs; the ingot is whole. -/
def fetchable : Chip := meeting.setReg Obj.ingotDonor 1
def fetchRuns : Chip := fetchable.setReg Obj.ingotState 1
def refetching : Chip := { fetchRuns with rnd := { fetchRuns.rnd with ingot := { fetchRuns.rnd.ingot with retry := true } } }
def wholeIngot : Chip :=
  { fetchable with rnd := { fetchable.rnd with ingot := { fetchable.rnd.ingot with bytes := zeros 256, ready := some 3 } } }.setReg
    Obj.ingotState 2

theorem witness_ingot : fetchable.permits 1 Obj.rndControl [1] = true ∧ fetchable.permits 1 Obj.rndControl [2] = true ∧
    fetchable.rnd.shards ≠ [] ∧ fetchable.rnd.ingot.due = false ∧ fetchable.fetchStage = 0 ∧ fetchable.ingotDonorSite = some 1 ∧
    fetchable.step.inStep = false ∧ ({ fetchable with step := stepped.step }).step.inStep = true ∧
    fetchable.ingotSending = false ∧ fetchable.partnerState 1 = partnerReachable ∧ fetchRuns.fetchStage = 1 ∧
    fetchRuns.rnd.ingot.retry = false ∧ refetching.fetchStage = 1 ∧ refetching.rnd.ingot.retry = true ∧
    refetching.ingotDonorSite = some 1 ∧ wholeIngot.rnd.ingot.ready = some 3 ∧ wholeIngot.fetchStage = 2 ∧
    wholeIngot.step.inStep = false ∧ (wholeIngot.setReg Obj.bzSiteModules 1).reg Obj.bzSiteModules = 1 ∧
    wholeIngot.reg Obj.bzModuleNumber = 0 := by decide +kernel

/-- A cage with a usable module. -/
def opticsIn : Chip := { meeting with board := { meeting.board with cage0 := ⟨true, true, false, false⟩ } }

theorem witness_slkPorts : (opticsIn.setReg (Obj.slkPortState 0) 1).start.counterOk = true ∧ (opticsIn.board.cage 0).usable = true ∧
    opticsIn.reg (Obj.slkPortEnable 0) = 1 ∧ opticsIn.reg (Obj.slkPortState 0) = 2 ∧ meeting.reg (Obj.slkPortState 1) = 0 ∧
    opticsIn.permits 1 (Obj.slkPortEnable 0) [0] = true ∧ (served.board.cage 0).usable = false := by decide +kernel

theorem witness_sessions : rounds.slkNextPort = none ∧ meeting.slkNextPort = some 0 ∧ meeting.slotKey (meeting.reg Obj.slkMasterSlot) ≠ none ∧
    mate ∈ meeting.slkPartners ∧ meeting.session mate = some standing ∧ (standing.up && { standing with confirmed := false }.confirmed) = false ∧
    meeting.slk.sessions = [(mate, standing)] ∧ meeting.slotKey (standing.base + keyTx) = some (zeros 32) ∧
    standing.pnTx < meeting.reg Obj.slkRekeyPackets ∧ mate = meeting.slkPeer 1 ∧ meeting.partnerState 1 ≠ 0 ∧ rounds.session mate = none ∧
    (meeting.slk.sessions.map Prod.fst).Nodup ∧ meeting.permits 1 Obj.slkRekey [0xFF] = true ∧
    meeting.permits 1 Obj.slkRestart [1] = true ∧ partnerSite mate = (1 : Byte).toNat := by decide +kernel

/-- A frame from module 0 of site 1, its body `b`. -/
def fromSite (kind cls stream round fragment count : Nat) (b : Bytes) : SlkFrame :=
  ⟨true, true, ⟨BitVec.ofNat 8 (16 + kind), 0, BitVec.ofNat 8 cls, 1, 0, 0, 0, 0, 0, 0, BitVec.ofNat 16 stream, 0, 0, 0, 0,
    BitVec.ofNat 32 round, BitVec.ofNat 32 fragment, BitVec.ofNat 32 count, 0⟩, b⟩

/-- A parity packet of a group of `k`. -/
def parityFrom (k : Nat) : SlkFrame :=
  let f := fromSite 1 0 0 0 0 0 (zeros 66)
  { f with hdr := { f.hdr with groupIndex := 64, groupSize := BitVec.ofNat 8 k, group := 3 } }

theorem witness_slkFrames : meeting.slkUp 1 = false ∧ meeting.slkUp 0 = true ∧ meeting.slkWellFormed 3 (fromSite 3 1 0 0 0 0 []) = true ∧
    meeting.slkWellFormed 3 (fromSite 2 1 0 0 0 0 []) = false ∧ slkSource (fromSite 3 1 0 0 0 0 []).hdr = mate ∧
    meeting.slkWellFormed 0 (fromSite 0 0 0 1 0 2 []) = true ∧ (fromSite 0 0 0 1 0 2 []).hdr.parityCount = 0 ∧
    meeting.slkWellFormed 2 (fromSite 2 1 0x1000 0 0 0 []) = true ∧ meeting.slkWellFormed 4 (fromSite 4 1 0x1000 0 0 0 []) = true ∧
    meeting.slkWellFormed 1 (parityFrom 2) = true ∧ meeting.slkWellFormed 1 (parityFrom 1) = true ∧
    (parityFrom 64).hdr.groupSize.toNat = 64 ∧ meeting.slk.fecRx = [] := by decide +kernel

/-- One message to site 1 is on its way, its second fragment sent; a fragment received waits for its acknowledgement. -/
def streaming : Chip :=
  { meeting with slk := { meeting.slk with
      contexts := [(6, { FlowContext.blank with tx := [⟨1, zeros 20000, 2, 0, []⟩] }),
        (7, { FlowContext.blank with rx := [⟨4, 2, 1, [], [(0, [1])]⟩], unackedRx := 1 })]
      fecTx := [⟨0, mate, 3, [zeros 80], 2⟩]
      fecRx := [⟨0, mate, 8, some 2, [(0, zeros 80)], []⟩] } }

theorem witness_streams : streaming.txContext mate 0 = some 6 ∧ (streaming.context 6).tx.find? (fun m => m.round == (1 : BitVec 32)) ≠ none ∧
    (streaming.context 6).tx.find? (fun m => m.round == (2 : BitVec 32)) = none ∧ (streaming.context 7).unackedRx ≠ 0 ∧
    (streaming.context 6).unackedRx = 0 ∧ meeting.partnerState 1 ≠ partnerRefused ∧ (meeting.context 7).stream = 0 ∧
    (meeting.context 7).completed = [] ∧ (meeting.context 7).rx.length < 4 ∧ openMessages meeting.slk < 1024 ∧
    (meeting.session mate).map (fun y => y.quoteDue) = some false ∧
    (streaming.slk.fecTx.find? fun g => g.port == 0 && g.partner == mate).isSome = true ∧
    (streaming.fecGroup 0 mate 8).missing = [1] ∧ (streaming.fecGroup 0 mate 9).missing = [] := by decide +kernel

/-- An entry of SLK_FLOW_TABLE for a bulk stream to module 0 of site 1. -/
def bulkEntry : Bytes := [1, 3, 1, 0] ++ leBytes 2 0x4000 ++ leBytes 2 448 ++ leBytes 2 0 ++ leBytes 2 100 ++ leBytes 4 0x80000000 ++ zeros 16

theorem witness_flows : meeting.permits 1 Obj.slkFlowTable bulkEntry = true ∧ meeting.flowEntryOk bulkEntry = true ∧
    meeting.flowEntryOk (zeros 32) = true ∧ meeting.flowEntryOk (1 :: zeros 31) = false ∧ (meeting.context 384).rx = [] := by
  decide +kernel

/-- A GMAC request of 16-byte tags with nothing to authenticate, all its buffers in control SRAM, under key slot 9. -/
def gmacDesc : Bytes :=
  [3, 0] ++ leBytes 2 9 ++ zeros 28 ++ leBytes 8 (2 ^ 63) ++ leBytes 8 (2 ^ 63) ++ leBytes 8 (2 ^ 63) ++ leBytes 8 (2 ^ 63)
def gmacJob : CipherJob := ⟨.core 0, 64, gmacDesc, ⟨1, zeros 32⟩, 0⟩
def queued : Chip := { meeting with cipher := { meeting.cipher with queue := [gmacJob] } }
def badQueued : Chip := { meeting with cipher := { meeting.cipher with queue := [{ gmacJob with status := 3 }] } }

theorem witness_cipher : requesterKnown (.core 3) = false ∧ requesterKnown (.core 0) = true ∧ meeting.cipher.queue.length < cipherQueueMax ∧
    nextJob queued.cipher.queue = some (gmacJob, []) ∧ nextJob badQueued.cipher.queue = some ({ gmacJob with status := 3 }, []) ∧
    spaceOf (CipherReq.ofBytes gmacDesc).src = 2 ∧ spaceOf (CipherReq.ofBytes gmacDesc).dst = 2 ∧
    spaceOf (CipherReq.ofBytes gmacDesc).aad = 2 ∧ spaceOf (CipherReq.ofBytes gmacDesc).tag = 2 ∧
    meeting.permits 1 Obj.cipherKeyLoad (zeros 72) = true ∧ (match meeting.openWrap (zeros 72) with | .inl _ => false | .inr _ => true) = true ∧
    meeting.permits 1 Obj.cipherKeyErase (leBytes 2 3071) = true ∧ meeting.permits 1 Obj.cipherKeyErase (leBytes 2 3072) = true := by
  decide +kernel

theorem full_queue : cipherQueueMax ≤ (List.replicate 2048 gmacJob).length := by rw [List.length_replicate]; decide

/-- A descriptor: one row of 32 bytes from one place of LPDDR6 to another; `t` is its TRIGGER, `h` its rows. -/
def copyDesc (t h : Nat) : Bytes :=
  leBytes 4 (t * 2 ^ 21 + 2 ^ 20) ++ leBytes 4 (if t = 1 then 5 else 0) ++ leBytes 8 2147483648 ++ leBytes 8 2148532224 ++ leBytes 4 32 ++
  leBytes 4 h ++ leBytes 4 32 ++ leBytes 4 32 ++ zeros 8 ++ zeros 8 ++ leBytes 2 1 ++ [0xFF] ++ zeros 5

/-- A channel with this descriptor in this state. -/
def dmaWith (ch t h st : Nat) : Chip :=
  ({ casted with dma := [(ch, { DmaChannel.blank with descs := [copyDesc t h] })] }).setReg (Obj.dmaState ch) st

theorem witness_dmaWrites : served.permits 1 (Obj.dmaEnable 500) [1] = true ∧ served.dmaReserved 500 = true ∧
    served.permits 1 (Obj.dmaEnable 495) [1] = true ∧ served.dmaReserved 495 = false ∧ (dmaWith 448 0 1 2).dmaStateOf 448 = dmaRunning ∧
    (dmaWith 448 0 1 1).dmaStateOf 448 = dmaWaiting ∧ served.dmaStateOf 448 = dmaIdle ∧
    ((dmaWith 448 0 1 2).dmaChan 448).ring.length < dmaRing ∧ ((dmaWith 448 0 1 2).dmaChan 448).held = [] ∧
    served.permits 1 (Obj.dmaEnable 511) [0] = true ∧ dmaPrivileged 495 = false ∧ dmaPrivileged 496 = true ∧
    (dmaWith 496 0 1 2).dmaStateOf 496 = dmaRunning ∧ (dmaWith 496 0 1 1).dmaStateOf 496 = dmaWaiting ∧
    ((dmaWith 496 0 1 1).dmaChan 496).pass = 0 ∧ served.permits 1 (Obj.dmaDescriptors 448) [] = true ∧
    served.permits 1 (Obj.dmaDescriptors 448) [1] = true ∧ served.permits 1 (Obj.dmaDescriptors 511) [] = true := by decide +kernel

theorem witness_dmaPasses : (((dmaWith 448 1 1 1).dmaChan 448).desc 0).trigger = 1 ∧ (((dmaWith 448 0 2 2).dmaChan 448).desc 0).trigger ≠ 1 ∧
    ((dmaWith 448 1 1 2).dmaChan 448).trigger = false ∧ (((dmaWith 448 0 2 2).dmaChan 448).desc 0).rows = 2 ∧
    (((dmaWith 448 0 2 2).dmaChan 448).desc 0).half = true ∧ ((dmaWith 448 0 2 2).dmaChan 448).half = false ∧
    (((dmaWith 448 0 1 2).dmaChan 448).desc 0).badFields.isSome = false ∧ (((dmaWith 448 0 1 2).dmaChan 448).desc 0).badTranspose.isSome = false ∧
    ((dmaWith 448 0 1 2).dmaChan 448).route = none ∧ (((dmaWith 448 0 1 2).dmaChan 448).desc 0).rows = 1 ∧
    spaceOf (((dmaWith 448 0 1 2).dmaChan 448).desc 0).src = 0 ∧ spaceOf (((dmaWith 448 0 1 2).dmaChan 448).desc 0).dst = 0 ∧
    (((dmaWith 448 0 1 2).dmaChan 448).desc 0).rowBad 448 false 0 0 = none ∧
    ((dmaWith 448 0 1 2).readMem [] 2147483648 32).1 = .inl (zeros 32) ∧ served.level 1 = some 3 ∧ mayRead 3 (Obj.dmaCompletions 511) = true := by
  decide +kernel

/-! ### Hypotheses that are met: refusals, aborts, parked shards tried again -/

/-- Requester 1 at level 3, POWER_LIMIT's and VCORE_CEILING's bounds; a channel that a route binds, in a step. -/
def routeBound : Chip := { stepped with dma := [(448, { DmaChannel.blank with route := some (0, 0) })] }

theorem witness_refusals : served.board.modReady = true ∧ served.flt.entries.length < 1048576 ∧ Obj.lookup 0x0FFF 1 = none ∧
    Obj.lookup 0x2000 200 = none ∧ served.level 1 = some 3 ∧ 0x4415FFFF < 0x44160000 ∧ 0x44B54000 < 0x44B54001 := by decide

theorem witness_abort : (routeBound.dmaChan 448).route.isSome = true ∧ routeBound.step.inStep = true ∧ routeBound.step.committing = false := by
  decide +kernel

/-- A shard whose write-back was given up: stepping halted with STEP_STATE 6; the step is committing. -/
def givenUp : Chip :=
  ({ unwrittenParked with upd := { unwrittenParked.upd with parkedLost := true, stuck := [5] } }).setReg Obj.stepState 6

theorem witness_retry : givenUp.permits 1 Obj.serviceOp [2] = true ∧ givenUp.reg Obj.serviceState ≠ 1 ∧
    givenUp.reg Obj.stepState = 6 ∧ givenUp.upd.running = true ∧ givenUp.upd.parkedLost = true ∧
    (5 : BitVec 32) ∈ givenUp.upd.stuck ∧ givenUp.svcCheck 2 5 = svcOk ∧
    (givenUp.setReg Obj.serviceArg 5).reg Obj.serviceArg = 5 := by decide +kernel

/-! ### NaN operands (R79) and signs of zero (R80) in each format -/

theorem witness_nans : ∀ f ∈ [Fmt.f32, Fmt.f16, Fmt.bf16],
    isNanCode f (2 ^ (f.width - 1) - 1) = true ∧ isNanCode f 0 = false ∧ (f.decode 0).isFinite = true := by decide

/-! ### The spec's own worked examples and tables

Every expected value below stands in an example or a table of the spec; its chapter is named. -/

/-- 500.0 to E4M3 (Number Formats and Arithmetic, example after R78). -/
theorem test_e4m3_500 :
    let x := Fmt.f32.decode 0x43FA0000
    (Fmt.e4m3.narrow false false .rne x).1 = 0x7E ∧ (Fmt.e4m3.narrow false false .rne x).2.1 &&& fCvtOverflow ≠ 0 ∧
    (Fmt.e4m3.narrow true false .rne x).1 = 0x7F ∧ (Fmt.e4m3.narrow false false .rtz x).1 = 0x7E ∧
    (Fmt.e4m3.narrow true false .rtz x).1 = 0x7E := by decide +kernel

/-- Table 3-7: four binary32 values to bfloat16 under RNE, RTZ, RUP, RDN and SR. -/
theorem test_table_3_7 :
    let row := fun (a u : Nat) => [Rnd.rne, .rtz, .rup, .rdn, .sr u].map fun r => (Fmt.bf16.narrow true false r (Fmt.f32.decode a)).1
    row 0x3F806000 0xB396F50F = [0x3F80, 0x3F80, 0x3F81, 0x3F80, 0x3F81] ∧
    row 0x3F808000 0x702D5DD2 = [0x3F80, 0x3F80, 0x3F81, 0x3F80, 0x3F80] ∧
    row 0xBF806000 0x6306C70D = [0xBF80, 0xBF80, 0xBF80, 0xBF81, 0xBF80] ∧
    row 0x7F7FFFFF 0x702D5DD2 = [0x7F80, 0x7F7F, 0x7F80, 0x7F7F, 0x7F80] ∧
    (Fmt.bf16.narrow false false .rne (Fmt.f32.decode 0x7F7FFFFF)).1 = 0x7F7F := by decide +kernel

/-- Element (421, 209) of an MXFP8 tensor with 640 columns (Tiles and the Matrix Unit). -/
theorem test_blocked_layout : elementPlace 640 421 209 = (246, 177) ∧ 246 * imageBytes 6 = 259776 := by decide

/-- The products of the matrix example's k-blocks, the other positions +0. -/
def mxProducts (l : List (Nat × Nat)) : List Machine.Num :=
  (l ++ List.replicate (32 - l.length) (0, 0)).map fun (x : Nat × Nat) => (productNum (Fmt.e4m3.decode x.1) (Fmt.e4m3.decode x.2)).1

/-- Output (0, 0) of the fast command over two k-blocks: SATURATE, PROPAGATE, a scale of 0xFF (Tiles and the Matrix Unit). -/
theorem test_matrix_output :
    let t0 : MxTerm := ⟨mxProducts [(0x3C, 0x44), (0xC0, 0x30)], 0, some 3⟩
    let t1 := fun (e : Option Int) => (⟨mxProducts [(0x38, 0xBA)], 0, e⟩ : MxTerm)
    (fastOutput false false .rne [] [t0]).1 = 0x41E00000 ∧ (fastOutput false false .rne [] [t0, t1 (some 132)]).1 = 0xFF7FFFFF ∧
    (fastOutput true false .rne [] [t0, t1 (some 132)]).1 = 0xFF800000 ∧ (fastOutput false false .rne [] [t0, t1 none]).1 = 0x7FC00000 ∧
    (fastOutput false false .rne [] [t0, t1 (some 132)]).2.flags &&& (2 ^ bitMxScaleRange) ≠ 0 ∧
    (fastOutput false false .rne [] [t0, t1 (some 132)]).2.range = 1 ∧
    (fastOutput false false .rne [] [t0, t1 none]).2.flags &&& (2 ^ bitMxNanScale) ≠ 0 := by decide +kernel

/-- The table pair of the vector chain: X_LO −8, X_HI 8, INV_W 16, segment 136 of the function and of the derivative. -/
def chainTable : Bytes :=
  leBytes 4 0xC1000000 ++ leBytes 4 0x41000000 ++ leBytes 4 0x41800000 ++ zeros (52 + 12 * 136) ++
  (leBytes 4 0x3E800000 ++ leBytes 4 0x3F000000 ++ leBytes 4 0xBE000000) ++ zeros (3136 - 64 - 12) ++
  (leBytes 4 0x3F800000 ++ leBytes 4 0xBE800000 ++ leBytes 4 0)

/-- Lane 5 of the forward chain and its backward pass (The Vector Engine). -/
theorem test_vector_chain : (Fmt.f32.add .rne 0x3ED00000 0x3E000000).1 = 0x3F080000 ∧ (tableEval chainTable false 0x3F080000).1 = 0x3EF00000 ∧
    (Fmt.e4m3.narrow false false (.sr 0xFFFFFFFF) (Fmt.f32.decode 0x3EF00000)).1 = 0x2F ∧
    (tableEval chainTable true 0x3F080000).1 = 0x3F600000 ∧ (Fmt.f32.mul .rne 0x3F600000 0x40000000).1 = 0x3FE00000 := by decide +kernel

/-- The weight-gradient value 9/128 under k = −20 and −18 (The Training Step). -/
theorem test_gradient_scale :
    let x := Fmt.f32.decode 0x3D900000
    (Fmt.f16.narrow false false .rne (x.scale 20)).1 = 0x7BFF ∧ (Fmt.f16.narrow true false .rne (x.scale 20)).1 = 0x7C00 ∧
    Fmt.f16.narrow true false .rne (x.scale 18) = (0x7480, 0, false) := by decide +kernel

/-- Module address 400,000,001,600, and where it lies once sub-channel 41 is retired (Memory). -/
theorem test_memory_place : placeOf 400000001600 = (5, 1, 19531250) ∧ translated 1 1 19531250 = (5, 33551896) ∧
    translated 1 2 19531250 = (2, 19531250) := by decide

/-- Scalars of the bias vector's first commit, its clip factor, and one element's new weight (The Update Unit). -/
def biasTensor : UpdTensor :=
  { someTensor with wFormat := 0xC, decay := 1, beta1 := 0x3F600000, beta2 := 0x3F700000, eps := 0x322BCC77, weightDecay := 0x3DCCCCCD }

theorem test_update_example :
    let z := biasTensor.scalars 0x37FBA882 0
    let g := uMul (uNum ((Fmt.f16.decode 0x6600).scale (-14))) (fv (clipFactor 0x3F800000 0x40200000))
    let v := uMul (fv 0x3D800000) (uMul g g)
    let w := biasTensor.element ⟨false, false, 0, 0, 0, 0, 0, z, 0⟩ g 0x3F000000 0 0 v
    z.c1 = 0x41000000 ∧ z.c2 = 0x41800000 ∧ clipFactor 0x3F800000 0x40200000 = 0x3ECCCCCD ∧
    ratOf .f32 w.1.1 - 49996850 / 100000000 ≤ 1 / 2 ^ 25 ∧ 49996850 / 100000000 - ratOf .f32 w.1.1 ≤ 1 / 2 ^ 25 ∧
    (Fmt.bf16.narrow false false .rne (Fmt.f32.decode w.2.2.1)).1 = 0x3B9A := by decide +kernel

/-- Coolant at 43 °C; then the flow row too (The Module). -/
theorem test_coolant_limit :
    { Board.reset with inletHigh := true, inletNow := 0x422C0000 }.derating = 0x449B0000 ∧
    { Board.reset with inletHigh := true, inletNow := 0x422C0000, flowLow := true }.derating = 0x447A0000 := by decide +kernel

/-- The governor's descent from 0.750 V at 1,310 W under a limit of 1,240 W: its first decision is one of 10 mV (Architecture). -/
theorem test_governor_descent : (govern 750 0 0 false 0 1240 750 1310 70).v = 740 := by decide +kernel

/-- Fingerprints of a reference and a replay that agree within 2^−6 (Sillage and Time). -/
def printOf (hash s sumsq maxAbs zeroCount : Nat) : Bytes :=
  leBytes 8 hash ++ leBytes 4 77 ++ [2, 0, 0, 0] ++ leBytes 8 1048576 ++ leBytes 8 s ++ zeros 8 ++ leBytes 8 sumsq ++ leBytes 8 maxAbs ++
  zeros 8 ++ leBytes 8 zeroCount ++ zeros 8

theorem test_replay_tolerance :
    printDiffs (1 / 64) (1 / 256) (printOf 1 0x4029000000000000 0x4050000000000000 0x4008000000000000 210000)
      (printOf 2 0x402928F5C28F5C29 0x4050200000000000 0x400828F5C28F5C29 211000) = [] := by decide +kernel

/-- Deadline of the form-2 reduction that moves 73,400,320 bytes: 2,734 µs (The Braze Fabric). -/
theorem test_deadline : Chip.reset.bzLimit 73400320 / 1000 = 2734 := by decide +kernel

/-- Weights by staleness under STALE_FACTOR 0.5, and their sums (Anneal Rounds). -/
theorem test_weights : [0, 1, 2, 3, 4].map (staleWeight 0x3F000000) = [0x3F800000, 0x3F000000, 0x3E800000, 0x3E000000, 0x3D800000] ∧
    weightSum ([0, 0, 1].map (staleWeight 0x3F000000)) = 0x40200000 ∧
    weightSum ([0, 0, 1, 2, 3, 4].map (staleWeight 0x3F000000)) = 0x403C0000 := by decide +kernel

/-- One element of the merge of round 7 (Anneal Rounds): b_new and w_new to binary32 precision. -/
theorem test_merge_element :
    let t := { someTensor with wFormat := 0xC }
    let ds := [(0x3F800000, uNum (.fin false 3 (-10))), (0x3F800000, uNum (.fin false 2 (-10))), (0x3F000000, uNum (.fin false 4 (-10)))]
    let x := mergeElem t false 0x3F600000 0x3F400000 0x40200000 false ds 0x3E800000 0 0x3A83126F 0x3B51B717 0x3E7C6A7F 0
    let close := fun (a : Nat) (r : Rat) => ratOf .f32 a - r ≤ 1 / 2 ^ 24 ∧ r - ratOf .f32 a ≤ 1 / 2 ^ 24
    close x.bHi.1 (24558056640625 / 10 ^ 14) ∧ close x.v.1 (3609375 / 10 ^ 9) ∧ close x.wHi.1 (24528056640625 / 10 ^ 14) := by
  decide +kernel

/-- CONTROL of the transposing descriptor (The DMA Channels). -/
theorem test_dma_control :
    let d := DmaDesc.ofBytes (leBytes 4 0x00051000 ++ zeros 60)
    d.trigger = 0 ∧ d.transpose = true ∧ d.images = true ∧ d.fmt = 1 ∧ d.rate = 0 ∧ d.half = false ∧ d.full = false := by decide

/-- Histories of two sites that merged rounds 20 to 23 alone: each round of the partner is still acceptable at merge 24 and round 20
no longer after it (Anneal Rounds). -/
theorem test_split_sites : [20, 21, 22, 23, 24].map (roundAcceptable 23 4) = [true, true, true, true, true] ∧
    roundAcceptable 24 4 20 = false ∧ roundAcceptable 23 4 19 = false := by decide

/-- Table 3-6: the generator's three test vectors; vector 3 is element 256 of a tensor under a step key. -/
theorem test_table_3_6 : srGen 0 0 0 0 0 = 0x6306C70D22740AC7 ∧ srGen 0 0 0 0 1 = 0xB396F50FF2D408C7 ∧
    srGen 0x01234567 0x89ABCDEF 0x10 1 0x100 = 0x702D5DD29F12B9BD ∧ srU 0x89ABCDEF01234567 0x0000000100000010 256 = 0x702D5DD2 := by
  decide

end Sys2Proof.Tests
end

section
/-! PROOFS. What a fault-log entry leaves behind (R9, R274, R483, R485), and the refusal of an access to an object that Dictionary Map
does not list (R10). -/

namespace Sys2Proof.Machine

/-! ### A change that recording makes

`Chip.OnlyLogged` says what an entry may change; the relation here adds that open transfers stay and that nothing already sent is
taken back, and it composes along the operations that recording is built of. -/

/-- `d` follows `c` by recording and sending alone. -/
structure Chip.Recorded (c d : Chip) : Prop where
  work : d.workPart = c.workPart
  reg : ∀ k, isLogKey k = false → d.reg k = c.reg k
  transfers : d.dap.transfers = c.dap.transfers
  out : c.out ⊆ d.out

namespace Chip.Recorded

variable {c d e : Chip}

theorem refl (c : Chip) : c.Recorded c := ⟨rfl, fun _ _ => rfl, rfl, List.Subset.refl _⟩

theorem trans (h : c.Recorded d) (h' : d.Recorded e) : c.Recorded e where
  work := h'.work.trans h.work
  reg k hk := (h'.reg k hk).trans (h.reg k hk)
  transfers := h'.transfers.trans h.transfers
  out := List.Subset.trans h.out h'.out

/-- A change of the sillage record, the fault log or the requesters' queues alone is one that recording makes. -/
theorem of_eq (hw : d.workPart = c.workPart) (hr : d.regs = c.regs) (ht : d.dap.transfers = c.dap.transfers) (ho : d.out = c.out) :
    c.Recorded d := ⟨hw, fun k _ => by simp only [Chip.reg, hr], ht, ho ▸ List.Subset.refl _⟩

theorem setReg {k : Nat} (v : Nat) (hk : isLogKey k = true) (h : c.Recorded d) : c.Recorded (d.setReg k v) :=
  h.trans ⟨rfl, fun j hj => by
    rw [Chip.reg_setReg_eq, if_neg (fun hkj => by simp [← hkj, hk] at hj)], rfl, List.Subset.refl _⟩

theorem count {k : Nat} (n w : Nat) (hk : isLogKey k = true) (h : c.Recorded d) : c.Recorded (d.count k n w) := h.setReg _ hk

theorem emit (o : Out) (h : c.Recorded d) : c.Recorded (d.emit o) :=
  h.trans ⟨rfl, fun _ _ => rfl, rfl, List.subset_cons_self o _⟩

theorem setReq (n : Nat) (r : ReqState) (h : c.Recorded d) : c.Recorded (d.setReq n r) := h.trans (of_eq rfl rfl rfl rfl)

theorem ite {p : Prop} [Decidable p] (hd : c.Recorded d) (he : c.Recorded e) : c.Recorded (if p then d else e) := by
  split
  · exact hd
  · exact he

theorem each {α : Type} {f : Chip → α → Chip} (hf : ∀ (c : Chip) x, c.Recorded (f c x)) (l : List α) (h : c.Recorded d) :
    c.Recorded (d.each l f) := Chip.each_inv c.Recorded f (fun d x hd => hd.trans (hf d x)) l d h

/-- The relation says all that `Chip.OnlyLogged` says. -/
theorem onlyLogged (h : c.Recorded d) : c.OnlyLogged d := by
  refine ⟨?_, h.reg⟩
  have hw := h.work
  simp only [Chip.workPart, Chip.Work.mk.injEq] at hw
  simp only [← hw]

end Chip.Recorded

/-! ### The registers that recording renews -/

/-- The word and the time of a family of sticky bits. -/
theorem isLogKey_sticky {f : Nat} (hf : f < 32) :
    isLogKey (Obj.stickyFamily f) = true ∧ isLogKey (Obj.stickyLastSet f) = true := by
  have h : ∀ sub < 256, isSticky ((0x8010 + f) * 256 + sub) = true := fun sub hsub => by
    have : ((0x8010 + f) * 256 + sub) / 256 = 0x8010 + f := by omega
    simp only [isSticky, this, Bool.or_eq_true, Bool.and_eq_true, decide_eq_true_eq]
    omega
  simp only [isLogKey, Obj.stickyFamily, Obj.stickyLastSet, h 1 (by decide), h 2 (by decide), Bool.true_or, and_self]

/-- What the event queue of a requester counts. -/
theorem isLogKey_reqEvents {n : Nat} (hn : n < 17) :
    isLogKey (Obj.reqEventsPending n) = true ∧ isLogKey (Obj.reqEventsLost n) = true := by
  have h : ∀ sub, sub = 5 ∨ sub = 6 → isLogKey ((0x1020 + n) * 256 + sub) = true := fun sub hsub => by
    have hix : ((0x1020 + n) * 256 + sub) / 256 = 0x1020 + n := by omega
    have hsub' : ((0x1020 + n) * 256 + sub) % 256 = sub := by omega
    simp only [isLogKey, hix, hsub', Bool.or_eq_true, Bool.and_eq_true, decide_eq_true_eq, beq_iff_eq]
    exact .inr ⟨by omega, hsub⟩
  exact ⟨h 5 (.inl rfl), h 6 (.inr rfl)⟩

/-! ### Each operation of recording is such a change -/

theorem Chip.emitEvent_recorded (c : Chip) (n : Nat) (e : Event) : c.Recorded (c.emitEvent n e) :=
  .ite ((Chip.Recorded.refl c).count _ _ rfl |>.count _ _ rfl |>.emit _) (.refl c)

theorem Chip.sendEvent_recorded (c : Chip) {n : Nat} (hn : n < 17) (e : Event) : c.Recorded (c.sendEvent n e) := by
  have sticky := isLogKey_sticky (f := 11) (by decide)
  have queue := isLogKey_reqEvents hn
  have dropped (word time : Nat) : c.Recorded
      (((c.count (Obj.reqEventsLost n) 1 32).setReg (Obj.stickyFamily 11) word).setReg (Obj.stickyLastSet 11) time) :=
    (((Chip.Recorded.refl c).count 1 32 queue.2).setReg word sticky.1).setReg time sticky.2
  unfold Chip.sendEvent
  refine .trans (.setReg _ queue.1 (.setReq _ _ (.ite (.refl c) (.ite ?_ ?_)))) (Chip.emitEvent_recorded _ _ _)
  · exact (dropped _ _).setReq _ _
  · exact ((dropped _ _).setReq _ _).trans (Chip.emitEvent_recorded _ _ _)

theorem Chip.event_recorded (c : Chip) (code key detail addr : Nat) : c.Recorded (c.event code key detail addr) :=
  .ite (.each (fun d q => .ite (d.sendEvent_recorded q.n.isLt _) (.refl d)) _ (.refl c)) (.of_eq rfl rfl rfl rfl)

theorem Chip.pushRecord_recorded (c : Chip) (r : Bytes) : c.Recorded (c.pushRecord r) :=
  .ite (.of_eq rfl rfl rfl rfl) (.count _ _ rfl (.of_eq rfl rfl rfl rfl))

theorem Chip.sillageEvent_recorded (c : Chip) (code unit addr detail : Nat) : c.Recorded (c.sillageEvent code unit addr detail) :=
  .ite (.of_eq rfl rfl rfl rfl) (c.pushRecord_recorded _)

theorem Chip.logOne_recorded (c : Chip) (u : Unit2) (code region addr detail : Nat) :
    c.Recorded (c.logOne u code region addr detail) := by
  have counted : c.Recorded (if decide (1048576 ≤ c.flt.entries.length) then c.count Obj.faultLost 1 64 else c) :=
    .ite (.count _ _ rfl (.refl c)) (.refl c)
  unfold Chip.logOne
  refine .trans (.trans (counted.trans ?_) (Chip.sillageEvent_recorded _ _ _ _ _)) (Chip.event_recorded _ _ _ _ _)
  exact .of_eq rfl rfl rfl rfl

theorem Chip.setSticky_recorded (c : Chip) {f : Nat} (hf : f < 32) (mask : Nat) : c.Recorded (c.setSticky f mask) := by
  have renewed (word time : Nat) : c.Recorded ((c.setReg (Obj.stickyFamily f) word).setReg (Obj.stickyLastSet f) time) :=
    ((Chip.Recorded.refl c).setReg _ (isLogKey_sticky hf).1).setReg _ (isLogKey_sticky hf).2
  exact .ite (renewed _ _) ((renewed _ _).trans (Chip.event_recorded _ _ _ _ _))

theorem Chip.overrun_recorded (c : Chip) (before : Nat) : c.Recorded (c.overrun before) :=
  .ite (.refl c) ((c.setSticky_recorded (by decide) 4).trans (Chip.logOne_recorded _ _ _ _ _ _))

theorem Chip.log_recorded (c : Chip) (u : Unit2) (code region addr detail : Nat) : c.Recorded (c.log u code region addr detail) :=
  (c.logOne_recorded u code region addr detail).trans (Chip.overrun_recorded _ _)

/-! ### Entries of the fault log -/

/-- What both branches keep, the choice between them keeps. -/
theorem Chip.ite_keeps {α : Type} (g : Chip → α) {p : Prop} [Decidable p] {a b c : Chip} (ha : g a = g c) (hb : g b = g c) :
    g (if p then a else b) = g c := by
  split
  · exact ha
  · exact hb

theorem Chip.emitEvent_flt (c : Chip) (n : Nat) (e : Event) : (c.emitEvent n e).flt = c.flt := Chip.ite_keeps Chip.flt rfl rfl

theorem Chip.sendEvent_flt (c : Chip) (n : Nat) (e : Event) : (c.sendEvent n e).flt = c.flt := by
  unfold Chip.sendEvent
  simp only [Chip.emitEvent_flt, Chip.setReg_flt, Chip.setReq_flt]
  exact Chip.ite_keeps Chip.flt rfl (Chip.ite_keeps Chip.flt rfl (Chip.emitEvent_flt _ _ _))

/-- An event that waits for the dictionary waits beside the entries. -/
theorem Chip.event_entries (c : Chip) (code key detail addr : Nat) :
    (c.event code key detail addr).flt.entries = c.flt.entries :=
  let entries (c : Chip) := c.flt.entries
  Chip.ite_keeps entries
    (Chip.each_keeps entries _ (fun _ _ => Chip.ite_keeps entries (congrArg FaultLog.entries (Chip.sendEvent_flt _ _ _)) rfl) _ c) rfl

theorem Chip.pushRecord_flt (c : Chip) (r : Bytes) : (c.pushRecord r).flt = c.flt := Chip.ite_keeps Chip.flt rfl rfl

theorem Chip.sillageEvent_flt (c : Chip) (code unit addr detail : Nat) : (c.sillageEvent code unit addr detail).flt = c.flt :=
  Chip.ite_keeps Chip.flt rfl (Chip.pushRecord_flt c _)

theorem Chip.setSticky_entries (c : Chip) (f mask : Nat) : (c.setSticky f mask).flt.entries = c.flt.entries :=
  Chip.ite_keeps (fun c => c.flt.entries) rfl (Chip.event_entries _ _ _ _ _)

/-- The entry is the last of the log; a full log loses its oldest (R483). -/
theorem Chip.logOne_entries (c : Chip) (u : Unit2) (code region addr detail : Nat) :
    ∃ e : FaultEntry, (c.logOne u code region addr detail).flt.entries =
        (if 1048576 ≤ c.flt.entries.length then c.flt.entries.drop 1 else c.flt.entries) ++ [e] ∧
      e.seq = c.flt.nextSeq ∧ e.unit = BitVec.ofNat 16 u.code ∧ e.code = BitVec.ofNat 16 code ∧ e.address = BitVec.ofNat 64 addr := by
  unfold Chip.logOne
  simp only [Chip.event_entries, Chip.sillageEvent_flt, decide_eq_true_eq]
  exact ⟨_, rfl, rfl, rfl, rfl, rfl⟩

/-- The entry of an overrun takes the place of the oldest entry only (R274). -/
theorem Chip.mem_overrun_entries (c : Chip) (before : Nat) {l : List FaultEntry} {e : FaultEntry} (hc : c.flt.entries = l ++ [e])
    (hl : l.length < 1048576) : e ∈ (c.overrun before).flt.entries := by
  unfold Chip.overrun
  split
  · simp [hc]
  · obtain ⟨e', he', -⟩ := (c.setSticky 6 4).logOne_entries .sl 0x0102 noRegion 0 0
    rw [he', Chip.setSticky_entries, hc]
    refine List.mem_append_left _ ?_
    split
    · next full =>
      rw [List.length_append, List.length_singleton] at full
      rw [List.drop_append_of_le_length (by omega)]
      simp
    · simp

/-- A log with room holds the entry afterwards, even where its sillage record overran the ring. -/
theorem Chip.exists_mem_log_entries (c : Chip) (u : Unit2) (code region addr detail : Nat) (room : c.flt.entries.length < 1048576) :
    ∃ e ∈ (c.log u code region addr detail).flt.entries,
      e.seq = c.flt.nextSeq ∧ e.unit = BitVec.ofNat 16 u.code ∧ e.code = BitVec.ofNat 16 code ∧ e.address = BitVec.ofNat 64 addr := by
  obtain ⟨e, he, fields⟩ := c.logOne_entries u code region addr detail
  rw [if_neg (Nat.not_le.2 room)] at he
  exact ⟨e, Chip.mem_overrun_entries _ _ he room, fields⟩

/-! ### One item that names no listed object -/

/-- The answer NO_OBJECT to an item (Table 17-7). -/
def DapItem.noObject (i : DapItem) : DapAnswer := ⟨i, stNoObject, i.type, 0, []⟩

/-- Open transfers put back as they are. -/
theorem Chip.restore_transfers {c : Chip} {l : List Transfer} (h : c.dap.transfers = l) :
    { c with dap := { c.dap with transfers := l } } = c := by
  subst h
  rfl

/-- An item that reads is left out by the checks of writes. -/
theorem Chip.checkAll_read (c : Chip) (rq : Nat) {i : DapItem} (read : i.op = 1 ∨ i.op = 3) :
    c.checkAll rq [i] = ⟨c.dap.transfers, [], []⟩ := by
  rcases read with op | op <;> simp [Chip.checkAll, op]

/-- An item that writes is left out by the reads. -/
theorem Chip.readAll_write (c : Chip) (rq : Nat) {i : DapItem} (write : i.op = 2 ∨ i.op = 4) :
    c.readAll rq [i] = ⟨c.dap.transfers, [], dapMax - 72, []⟩ := by
  rcases write with op | op <;> simp [Chip.readAll, op]

section
variable {i : DapItem} (unlisted : Obj.lookup i.index i.sub = none)
include unlisted

theorem Chip.readAll_unlisted (c : Chip) (rq : Nat) (read : i.op = 1 ∨ i.op = 3) :
    c.readAll rq [i] = ⟨c.dap.transfers, [], dapMax - 72, [i.noObject]⟩ := by
  rcases read with op | op
  · simp [Chip.readAll, op, Chip.readItem, unlisted, DapItem.noObject, pad4, alignUp]
  · simp [Chip.readAll, op, Chip.segRead, unlisted, DapItem.noObject, pad4, alignUp]

theorem Chip.checkAll_unlisted (c : Chip) (rq : Nat) (write : i.op = 2 ∨ i.op = 4) :
    c.checkAll rq [i] = ⟨c.dap.transfers, [], [(i, stNoObject, .refused none)]⟩ := by
  rcases write with op | op
  · simp [Chip.checkAll, op, Chip.checkWrite, unlisted, WriteAcc.add]
  · simp [Chip.checkAll, op, Chip.checkSegWrite, unlisted, WriteAcc.add]

/-- Such an item as the only one of its request is answered, and the entry of R9 is written; nothing else happens. -/
theorem Chip.oneItem_unlisted (c : Chip) (rq : Nat) (serves : c.board.modReady = true) (low : 1 ≤ i.op) (high : i.op ≤ 4) :
    c.oneItem rq i = (c.answer rq i.key stNoObject []).refuse i.key stNoObject := by
  have op : (i.op = 1 ∨ i.op = 3) ∨ (i.op = 2 ∨ i.op = 4) := by omega
  simp only [Chip.oneItem, serves, Bool.not_true, Bool.false_eq_true, if_false, Chip.execItems]
  rcases op with read | write
  · have notWrite : i.isWrite = false := by rcases read with op | op <;> simp [DapItem.isWrite, op]
    simp only [Chip.readAll_unlisted unlisted _ _ read, Chip.checkAll_read _ _ read, mergeAnswers, notWrite]
    have kept : ((c.answer rq i.key stNoObject []).refuse i.key stNoObject).dap.transfers = c.dap.transfers :=
      (Chip.log_recorded _ _ _ _ _ _).transfers
    exact Chip.restore_transfers kept
  · have isWrite : i.isWrite = true := by rcases write with op | op <;> simp [DapItem.isWrite, op]
    simp only [Chip.readAll_write _ _ write, Chip.checkAll_unlisted unlisted _ _ write, List.map, mergeAnswers, isWrite, if_true]
    have noneClosed (l : List Transfer) : l = l.filter fun t => !([] : List (Nat × Nat)).contains (t.rq, t.key) :=
      (List.filter_eq_self.2 fun _ _ => rfl).symm
    exact Chip.restore_transfers (noneClosed _)

end

/-- The answer and the entry of an access to an object that is not listed. -/
theorem refusedNoObject_answer_refuse (c : Chip) (rq key : Nat) (room : c.flt.entries.length < 1048576) :
    RefusedNoObject c rq key ((c.answer rq key stNoObject []).refuse key stNoObject) := by
  let a := c.answer rq key stNoObject []
  have answered : c.Recorded a := (Chip.Recorded.refl c).emit _
  have logged : a.Recorded (a.log .dap stNoObject noRegion key 0) := Chip.log_recorded _ _ _ _ _ _
  have recorded := answered.trans logged
  exact ⟨logged.out List.mem_cons_self, recorded.onlyLogged, recorded.transfers,
    a.exists_mem_log_entries .dap stNoObject noRegion key 0 room⟩

/-- A single item that names no listed object is refused. -/
theorem refusedNoObject_oneItem {c : Chip} (serves : c.board.modReady = true) (room : c.flt.entries.length < 1048576) (rq : Nat)
    {i : DapItem} (low : 1 ≤ i.op) (high : i.op ≤ 4) (unlisted : Obj.lookup i.index i.sub = none) :
    RefusedNoObject c rq i.key (c.oneItem rq i) := by
  rw [Chip.oneItem_unlisted unlisted c rq serves low high]
  exact refusedNoObject_answer_refuse c rq i.key room

/-! ### The three commands are one item each -/

theorem exec_registerWrite (rq : Fin 17) (index : BitVec 16) (sub type : Byte) (value : Bytes) (s : State) :
    exec (.registerWrite rq index sub type value) s =
      s.on fun c => c.oneItem rq ⟨2, type.toNat, index.toNat, sub.toNat, 0, value.length, 0, value⟩ := rfl

theorem exec_domainSegmentRead (rq : Fin 17) (index : BitVec 16) (sub : Byte) (offset : BitVec 32) (len : BitVec 16) (s : State) :
    exec (.domainSegmentRead rq index sub offset len) s =
      s.on fun c => c.oneItem rq ⟨3, 0, index.toNat, sub.toNat, 0, len.toNat, offset.toNat, []⟩ := rfl

theorem exec_domainSegmentWrite (rq : Fin 17) (index : BitVec 16) (sub : Byte) (offset : BitVec 32) (last : Bool) (data : Bytes)
    (s : State) :
    exec (.domainSegmentWrite rq index sub offset last data) s =
      s.on fun c => c.oneItem rq
        ⟨4, ObjType.domain.code, index.toNat, sub.toNat, if last then 1 else 0, data.length, offset.toNat, data⟩ := rfl

/-- A command that is a single item of a requester is refused where the item names no listed object. -/
theorem completes_refusedNoObject {s : State} (serves : s.chip.board.modReady = true) (room : s.chip.flt.entries.length < 1048576)
    {command : Instr} {rq key : Nat} {i : DapItem} (meaning : exec command s = s.on fun c => c.oneItem rq i)
    (low : 1 ≤ i.op) (high : i.op ≤ 4) (unlisted : Obj.lookup i.index i.sub = none) (names : i.key = key) :
    Completes command s fun c => RefusedNoObject s.chip rq key c :=
  ⟨_, meaning.trans (State.on_next s _), rfl, names ▸ refusedNoObject_oneItem serves room rq low high unlisted⟩

/-- Settles O56: the three commands are each one item of their requester, and an item that names no listed object is refused. -/
theorem unlistedObjectIsRefused : Obligations.UnlistedObjectIsRefused := by
  intro s serves room
  refine ⟨fun rq i _ => refusedNoObject_oneItem serves room rq, fun rq index sub unlisted => ⟨?_, ?_, ?_⟩⟩
  · intro type value
    exact completes_refusedNoObject serves room (exec_registerWrite ..) (by simp) (by simp) unlisted rfl
  · intro offset len
    exact completes_refusedNoObject serves room (exec_domainSegmentRead ..) (by simp) (by simp) unlisted rfl
  · intro offset last data
    exact completes_refusedNoObject serves room (exec_domainSegmentWrite ..) (by simp) (by simp) unlisted rfl

end Sys2Proof.Machine
end

section
/-! PROOFS. The restart after a power-fail (R24), and the two limits that are refused out of their range (R28, R51). -/

namespace Sys2Proof.Machine

/-- A command that is an effect on the module completes with what that effect leaves. -/
theorem completes_of_on {i : Instr} {s : State} {f : Chip → Chip} {P : Chip → Prop} (meaning : exec i s = s.on f)
    (effect : P (f s.chip)) : Completes i s P := ⟨_, meaning.trans (State.on_next s f), rfl, effect⟩

/-! ### The restart after a power-fail -/

theorem exec_powerRestart (s : State) :
    exec .powerRestart s = s.on fun c => { c with board := { c.board with inputOk := true } }.tryPower := rfl

theorem Chip.tryPower_of_mayPower {c : Chip} (may : c.board.mayPower = true) :
    c.tryPower = { c with board := { c.board with phase := .checking } } := if_pos may

theorem Chip.tryPower_of_pwrEn_low {c : Chip} (low : c.board.pwrEn = false) : c.tryPower = c :=
  if_neg (by simp [Board.mayPower, low])

/-- Settles O11: the input is the last of the conditions of power entry where PWR_EN is high, and PWR_EN is missing where it is low. -/
theorem restartAfterPowerFail : Obligations.RestartAfterPowerFail := by
  intro s off seated unlatched
  refine ⟨fun high => completes_of_on (exec_powerRestart s) ?_, fun low => completes_of_on (exec_powerRestart s) ?_⟩
  · exact Chip.tryPower_of_mayPower (by simp [Board.mayPower, off, seated, unlatched, high])
  · exact Chip.tryPower_of_pwrEn_low low

/-! ### Little-endian values -/

theorem leBytes_length (n v : Nat) : (leBytes n v).length = n := by
  induction n generalizing v with
  | zero => rfl
  | succ n ih => simp [leBytes, ih]

theorem leNat_leBytes (n v : Nat) : leNat (leBytes n v) = v % 256 ^ n := by
  induction n generalizing v with
  | zero => simp [leBytes, leNat, Nat.mod_one]
  | succ n ih =>
    have digit : (BitVec.ofNat 8 v).toNat = v % 256 := BitVec.toNat_ofNat v 8
    have power : 256 ^ (n + 1) = 256 * 256 ^ n := Nat.pow_succ'
    simp only [leBytes, leNat, ih, digit, power, Nat.mod_mul]

theorem leNat_leBytes_f32 (v : F32) : leNat (leBytes 4 v.toNat) = v.toNat := by
  rw [leNat_leBytes]
  exact Nat.mod_eq_of_lt v.isLt

/-! ### A write of an object of its own type: refused by the checks, or answered and carried out -/

/-- Level 2 writes what is neither an object of the service row nor an event mask; so does every level above (Table 17-5). -/
theorem mayWrite_of_two_le {l rq key : Nat} (two : 2 ≤ l) (config : serviceOnly key = false) (noMask : isEventMask key = false) :
    mayWrite l rq key = true := by
  simp [mayWrite, config, noMask, Nat.not_le.2 two]

section
variable {c : Chip} {rq key : Nat} {d : ObjDef} {b : Bytes} {rule : WriteRule}
  (serves : c.board.modReady = true) (sub : key % 256 ≠ 0) (listed : Obj.lookup (key / 256) (key % 256) = some d)
include serves sub listed

theorem Chip.write_refused {st : Nat} (status : c.generalStatus rq d key d.ty.code b = st) (bad : st ≠ stOk) :
    c.write rq key b rule = c.refusedWrite rq key st := by
  have found : Obj.find (key / 256) (key % 256) = some d := by simpa only [Obj.lookup, sub, if_false] using listed
  simp [Chip.write, Chip.writeAs, Chip.writeStatus, serves, listed, found, status, bad, Chip.refusedWrite]

theorem Chip.write_permitted (status : c.generalStatus rq d key d.ty.code b = stOk) (cond : rule.cond = noCond) :
    c.write rq key b rule = rule.eff (c.answer rq key d.doneStatus []) (c.origin rq) key b := by
  have found : Obj.find (key / 256) (key % 256) = some d := by simpa only [Obj.lookup, sub, if_false] using listed
  simp [Chip.write, Chip.writeAs, Chip.writeStatus, serves, listed, found, status, cond, noCond, stOk]

end

/-- What a write refused as out of range leaves: its answer and the entry of R9. -/
theorem refusedOutOfRange_refusedWrite (c : Chip) (rq key : Nat) (room : c.flt.entries.length < 1048576) :
    RefusedOutOfRange c rq key (c.refusedWrite rq key stOutOfRange) := by
  have logged : c.Recorded (c.log .dap stOutOfRange noRegion key 0) := c.log_recorded _ _ _ _ _
  obtain ⟨e, mem, seq, -, code, address⟩ := c.exists_mem_log_entries .dap stOutOfRange noRegion key 0 room
  exact ⟨List.mem_cons_self, (logged.emit _).onlyLogged, e, mem, seq, code, address⟩

/-! ### Objects that set a binary32 limit -/

/-- The row of an object that holds a number from `lo` to `hi` (binary32 patterns), which level 2 may write at any time. -/
structure ObjDef.IsLimit (d : ObjDef) (key lo hi : Nat) : Prop where
  sub : key % 256 ≠ 0
  listed : Obj.lookup (key / 256) (key % 256) = some d
  ty : d.ty = .f32
  access : d.access = .rw
  range : d.range = .f32 lo hi
  config : serviceOnly key = false
  noMask : isEventMask key = false
  present : ∀ c : Chip, c.present key = true

/-- POWER_LIMIT takes 600.0 to 1,450.0 W (R28). -/
theorem powerLimit_isLimit : ∃ d : ObjDef, d.IsLimit Obj.powerLimit 0x44160000 0x44B54000 :=
  ⟨_, by decide, rfl, rfl, rfl, rfl, rfl, rfl, fun _ => rfl⟩

/-- VCORE_CEILING takes 0.680 to 0.750 V (R51). -/
theorem vcoreCeiling_isLimit : ∃ d : ObjDef, d.IsLimit Obj.vcoreCeiling 0x3F2E147B 0x3F400000 :=
  ⟨_, by decide, rfl, rfl, rfl, rfl, rfl, rfl, fun _ => rfl⟩

section
variable {c : Chip} {rq key l lo hi : Nat} {d : ObjDef} {rule : WriteRule}
  (serves : c.board.modReady = true) (level : c.level rq = some l) (two : 2 ≤ l) (limit : d.IsLimit key lo hi)

include level two limit in
/-- Of the checks of R430, only the range can refuse a write of a limit. -/
theorem ObjDef.IsLimit.generalStatus_eq (v : F32) :
    c.generalStatus rq d key d.ty.code (leBytes 4 v.toNat) = if lo ≤ v.toNat ∧ v.toNat ≤ hi then stOk else stOutOfRange := by
  have may : mayWrite l rq key = true := mayWrite_of_two_le two limit.config limit.noMask
  have length : lengthOk d.ty (leBytes 4 v.toNat).length = true := by rw [limit.ty, leBytes_length]; rfl
  have value : valueOk d (leBytes 4 v.toNat) = decide (lo ≤ v.toNat ∧ v.toNat ≤ hi) := by
    simp only [valueOk, limit.ty, limit.range, Range.ok, leNat_leBytes_f32, Bool.decide_and]
  by_cases inside : lo ≤ v.toNat ∧ v.toNat ≤ hi <;>
    simp [Chip.generalStatus, level, may, limit.access, length, value, limit.present, inside]

include serves level two limit

/-- A limit out of its range is refused (R9). -/
theorem ObjDef.IsLimit.refusedOutOfRange_write (room : c.flt.entries.length < 1048576) {v : F32}
    (out : v.toNat < lo ∨ hi < v.toNat) : RefusedOutOfRange c rq key (c.write rq key (leBytes 4 v.toNat) rule) := by
  have status := (limit.generalStatus_eq level two v).trans (if_neg (by omega))
  rw [Chip.write_refused serves limit.sub limit.listed status (by decide)]
  exact refusedOutOfRange_refusedWrite c rq key room

/-- A limit within its range is answered and takes effect. -/
theorem ObjDef.IsLimit.write_eq_eff {v : F32} (low : lo ≤ v.toNat) (high : v.toNat ≤ hi) (cond : rule.cond = noCond) :
    c.write rq key (leBytes 4 v.toNat) rule = rule.eff (c.answer rq key d.doneStatus []) (c.origin rq) key (leBytes 4 v.toNat) :=
  Chip.write_permitted serves limit.sub limit.listed ((limit.generalStatus_eq level two v).trans (if_pos ⟨low, high⟩)) cond

end

/-! ### The ceiling and the decision that follows -/

theorem exec_powerLimitWrite (rq : Fin 17) (v : F32) (s : State) :
    exec (.powerLimitWrite rq v) s = s.on fun c => c.write rq Obj.powerLimit (leBytes 4 v.toNat) powerLimitRule := rfl

theorem exec_vcoreCeilingWrite (rq : Fin 17) (v : F32) (s : State) :
    exec (.vcoreCeilingWrite rq v) s = s.on fun c => c.write rq Obj.vcoreCeiling (leBytes 4 v.toNat) vcoreCeilingRule := rfl

theorem exec_governorDecision (power tj link : F32) (s : State) :
    exec (.governorDecision power tj link) s = s.on fun c => c.govern power tj link := rfl

/-- A valid write of VCORE_CEILING stores its value. -/
theorem reg_vcoreCeiling_vcoreCeilingRule_eff (c : Chip) (o : Origin) (key : Nat) (v : F32) :
    (vcoreCeilingRule.eff c o key (leBytes 4 v.toNat)).reg Obj.vcoreCeiling = v.toNat := by
  rw [vcoreCeilingRule, Chip.reg_setReg_eq, if_pos rfl, leNat_leBytes_f32]

/-- The core voltage after a decision is the one of R49 under the ceiling that VCORE_CEILING reads. -/
theorem Chip.govern_vWacor {c : Chip} (started : c.gov.started = true) (power tj link : F32) :
    (c.govern power tj link).gov.vWacor =
      (Sys2Proof.Machine.govern c.gov.vWacor c.gov.pacing c.gov.sinceRaise c.gov.spdRaise c.gov.spdHold
        (ratOf .f32 (c.reg Obj.powerLimitActive)) (ceilingMv (c.reg Obj.vcoreCeiling)) (ratOf .f32 power.toNat)
        (ratOf .f32 tj.toNat)).v := by
  have kept (p : Prop) [Decidable p] (d : Chip) (b : Nat) : (if p then d.occur 1 b .speed noRegion 0 0 else d).gov = d.gov :=
    Chip.ite_keeps Chip.gov (Chip.gov_of_work (Chip.occur_work ..)) rfl
  simp only [Chip.govern, started, Bool.not_true, Bool.false_eq_true, if_false, Chip.setReg_gov, kept]

/-- Settles O57: of the checks only the range can refuse a limit, and a decision reads the ceiling that the write stored. -/
theorem outOfRangeLimits : Obligations.OutOfRangeLimits := by
  intro s rq l serves room level two _
  obtain ⟨_, powerLimit⟩ := powerLimit_isLimit
  obtain ⟨_, ceiling⟩ := vcoreCeiling_isLimit
  refine ⟨fun v out => completes_of_on (exec_powerLimitWrite rq v s) ?_,
    fun v out => completes_of_on (exec_vcoreCeilingWrite rq v s) ?_,
    fun v low high => completes_of_on (exec_vcoreCeilingWrite rq v s) ?_⟩
  · exact powerLimit.refusedOutOfRange_write serves level two room out
  · exact ceiling.refusedOutOfRange_write serves level two room out
  · rw [ceiling.write_eq_eff serves level two low high rfl]
    refine ⟨reg_vcoreCeiling_vcoreCeilingRule_eff _ _ _ v,
      fun u power tj link follows started => completes_of_on (exec_governorDecision power tj link u) ?_⟩
    rw [follows, Chip.govern_vWacor started, reg_vcoreCeiling_vcoreCeilingRule_eff]

end Sys2Proof.Machine
end

section
/-! PROOFS. NaN results (R79) and the signs of zero sums, products and quotients (R80) of upper-level arithmetic. -/

namespace Sys2Proof.Machine

/-! ### Codes of an IEEE format (R63, R64) -/

/-- A format of upper-level arithmetic: infinity and NaNs at the all-ones exponent, a payload within that of binary32. -/
structure Fmt.Ieee (f : Fmt) : Prop where
  specials : f.specials = .ieee
  ebits_pos : 0 < f.ebits
  tbits_pos : 0 < f.tbits
  tbits_le : f.tbits ≤ 23

theorem Fmt.ieee_of_mem : ∀ f ∈ [Fmt.f32, Fmt.f16, Fmt.bf16], f.Ieee := by
  simp only [List.forall_mem_cons]
  refine ⟨⟨rfl, ?_, ?_, ?_⟩, ⟨rfl, ?_, ?_, ?_⟩, ⟨rfl, ?_, ?_, ?_⟩, nofun⟩ <;> decide

/-- Exponent field of a code. -/
def Fmt.expField (f : Fmt) (a : Nat) : Nat := a / 2 ^ f.tbits % 2 ^ f.ebits

/-- Trailing significand field of a code. -/
def Fmt.trailing (f : Fmt) (a : Nat) : Nat := a % 2 ^ f.tbits

/-- Magnitude code of infinity. -/
def Fmt.infMag (f : Fmt) : Nat := (2 ^ f.ebits - 1) * 2 ^ f.tbits

theorem Fmt.infCode_eq (f : Fmt) (n : Bool) : f.infCode n = f.signed n f.infMag := rfl

theorem Fmt.width_sub_one (f : Fmt) : f.width - 1 = f.ebits + f.tbits := by
  simp only [Fmt.width, Nat.add_assoc, Nat.add_sub_cancel_left]

theorem negCode_eq (f : Fmt) (a : Nat) : negCode f a = bit a (f.ebits + f.tbits) := by
  rw [negCode, Fmt.width_sub_one]

theorem Fmt.infMag_lt (f : Fmt) : f.infMag < 2 ^ (f.ebits + f.tbits) := by
  rw [Nat.pow_add, Fmt.infMag]
  exact Nat.mul_lt_mul_of_pos_right (Nat.sub_lt (Nat.two_pow_pos _) Nat.one_pos) (Nat.two_pow_pos _)

theorem Fmt.trailing_lt (f : Fmt) (a : Nat) : f.trailing a < 2 ^ f.tbits := Nat.mod_lt _ (Nat.two_pow_pos _)

/-- A code is its sign, its exponent field and its trailing significand. -/
theorem Fmt.signed_fields {f : Fmt} {a : Nat} (fits : a < 2 ^ f.width) :
    f.signed (negCode f a) (f.expField a * 2 ^ f.tbits + f.trailing a) = a := by
  have low : f.expField a * 2 ^ f.tbits + f.trailing a = a % 2 ^ (f.ebits + f.tbits) := by
    rw [Nat.add_comm f.ebits, Nat.pow_add, Nat.mod_mul, Fmt.expField, Fmt.trailing, Nat.mul_comm, Nat.add_comm]
  have high : a / 2 ^ (f.ebits + f.tbits) < 2 := by
    rw [Nat.div_lt_iff_lt_mul (Nat.two_pow_pos _), ← Nat.pow_succ']
    rwa [Fmt.width, Nat.add_assoc, Nat.add_comm] at fits
  have parts := Nat.div_add_mod a (2 ^ (f.ebits + f.tbits))
  rw [low, negCode_eq, Fmt.signed, bit, Nat.testBit_eq_decide_div_mod_eq, Nat.mod_eq_of_lt high]
  obtain zero | one := Nat.le_one_iff_eq_zero_or_eq_one.1 (Nat.le_of_lt_succ high)
  · simpa [zero] using parts
  · simpa [one] using parts

/-! ### The fields of a code built from sign and magnitude -/

theorem Fmt.negCode_signed {f : Fmt} {mag : Nat} (fits : mag < 2 ^ (f.ebits + f.tbits)) (n : Bool) :
    negCode f (f.signed n mag) = n := by
  rw [negCode_eq]
  cases n <;> simp [Fmt.signed, bit, Nat.testBit_two_pow_add_eq, Nat.testBit_lt_two_pow fits]

theorem Fmt.signed_add (f : Fmt) (n : Bool) (m t : Nat) : f.signed n (m + t) = f.signed n m + t := by
  cases n <;> simp [Fmt.signed, Nat.add_assoc]

/-- The sign lies above the exponent field. -/
theorem Fmt.expField_signed (f : Fmt) (n : Bool) (mag : Nat) : f.expField (f.signed n mag) = f.expField mag := by
  cases n
  · rfl
  · simp only [Fmt.expField, Fmt.signed, if_true, Nat.pow_add, Nat.add_comm (_ * _), Nat.add_mul_div_right _ _ (Nat.two_pow_pos _),
      Nat.add_mod_right]

/-- The sign lies above the trailing significand. -/
theorem Fmt.trailing_signed (f : Fmt) (n : Bool) (mag : Nat) : f.trailing (f.signed n mag) = f.trailing mag := by
  cases n
  · rfl
  · simp [Fmt.trailing, Fmt.signed, Nat.pow_add]

/-! ### Decoding -/

section
variable {f : Fmt} (ieee : f.Ieee)
include ieee

theorem Fmt.Ieee.decode_eq (a : Nat) : f.decode a =
    if f.expField a = 2 ^ f.ebits - 1 then
      if f.trailing a = 0 then .inf (negCode f a) else .nan (negCode f a) (f.trailing a * 2 ^ (23 - f.tbits))
    else if f.expField a = 0 then .fin (negCode f a) (f.trailing a) f.qmin
    else .fin (negCode f a) (2 ^ f.tbits + f.trailing a) (f.qmin + (f.expField a - 1 : Nat)) := by
  have field : bits a (f.ebits + f.tbits - 1) f.tbits = f.expField a := by
    have := ieee.ebits_pos
    rw [bits, Fmt.expField, show f.ebits + f.tbits - 1 + 1 - f.tbits = f.ebits by omega]
  simp only [Fmt.decode, ieee.specials, ieee.tbits_le, field, negCode_eq, Fmt.trailing, beq_iff_eq, if_true]

theorem Fmt.Ieee.isNeg_decode (a : Nat) : (f.decode a).isNeg = negCode f a := by
  rw [ieee.decode_eq]
  split
  · split <;> rfl
  · split <;> rfl

theorem Fmt.Ieee.isNanCode_iff (a : Nat) : isNanCode f a = true ↔ f.expField a = 2 ^ f.ebits - 1 ∧ f.trailing a ≠ 0 := by
  rw [isNanCode, ieee.decode_eq]
  split
  · next top =>
    split
    · next zero => exact ⟨nofun, fun h => absurd zero h.2⟩
    · next payload => exact ⟨fun _ => ⟨top, payload⟩, fun _ => rfl⟩
  · next low => split <;> exact ⟨nofun, fun h => absurd h.1 low⟩

/-- The other sign bit: the number of opposite sign. -/
theorem Fmt.Ieee.decode_xor_sign (a : Nat) : f.decode (a ^^^ 2 ^ (f.ebits + f.tbits)) = (f.decode a).negate := by
  have sign : negCode f (a ^^^ 2 ^ (f.ebits + f.tbits)) = !negCode f a := by
    simp only [negCode_eq, bit, Nat.testBit_xor, Nat.testBit_two_pow_self, Bool.xor_true]
  have exponent : f.expField (a ^^^ 2 ^ (f.ebits + f.tbits)) = f.expField a := by
    rw [Fmt.expField, Nat.xor_div_two_pow, Nat.xor_mod_two_pow, Nat.pow_add, Nat.mul_div_cancel _ (Nat.two_pow_pos _), Nat.mod_self,
      Nat.xor_zero, Fmt.expField]
  have trailing : f.trailing (a ^^^ 2 ^ (f.ebits + f.tbits)) = f.trailing a := by
    rw [Fmt.trailing, Nat.xor_mod_two_pow, Nat.pow_add, Nat.mul_mod_left, Nat.xor_zero, Fmt.trailing]
  simp only [ieee.decode_eq, sign, exponent, trailing]
  split
  · split <;> rfl
  · split <;> rfl

/-! ### NaN codes -/

/-- The quiet bit is the highest of the trailing significand. -/
theorem Fmt.Ieee.quietBit_lt : 2 ^ (f.tbits - 1) < 2 ^ f.tbits :=
  Nat.pow_lt_pow_right (by decide) (Nat.sub_lt ieee.tbits_pos Nat.one_pos)

theorem Fmt.Ieee.isNanCode_quieted {a : Nat} (nan : isNanCode f a = true) : isNanCode f (quieted f a) = true := by
  obtain ⟨top, -⟩ := (ieee.isNanCode_iff a).1 nan
  refine (ieee.isNanCode_iff _).2 ⟨?_, ?_⟩
  · rw [← top, quieted, Fmt.expField, Nat.or_div_two_pow, Nat.div_eq_of_lt ieee.quietBit_lt, Nat.or_zero, Fmt.expField]
  · rw [quieted, Fmt.trailing, Nat.or_mod_two_pow, Nat.mod_eq_of_lt ieee.quietBit_lt]
    exact Nat.ne_of_gt (Nat.lt_of_lt_of_le (Nat.two_pow_pos _) Nat.right_le_or)

/-- An operand's payload, widened to that of binary32, quieted and narrowed again, is its trailing significand quieted. -/
theorem Fmt.Ieee.quieted_payload (t : Nat) :
    (t * 2 ^ (23 - f.tbits) ||| 0x400000) / 2 ^ (23 - f.tbits) ||| 2 ^ (f.tbits - 1) = t ||| 2 ^ (f.tbits - 1) := by
  have pos := ieee.tbits_pos
  have le := ieee.tbits_le
  have quietBit : 0x400000 / 2 ^ (23 - f.tbits) = 2 ^ (f.tbits - 1) := by
    rw [show 0x400000 = 2 ^ 22 from rfl, Nat.pow_div (by omega) (by decide), show 22 - (23 - f.tbits) = f.tbits - 1 by omega]
  rw [Nat.or_div_two_pow, Nat.mul_div_cancel _ (Nat.two_pow_pos _), quietBit, Nat.or_assoc, Nat.or_self]

/-- Setting the quiet bit leaves sign and exponent field as they are. -/
theorem Fmt.Ieee.quieted_eq {a : Nat} (fits : a < 2 ^ f.width) :
    quieted f a = f.signed (negCode f a) (f.expField a * 2 ^ f.tbits + (f.trailing a ||| 2 ^ (f.tbits - 1))) := by
  have quietLt : f.trailing a ||| 2 ^ (f.tbits - 1) < 2 ^ f.tbits := Nat.or_lt_two_pow (f.trailing_lt a) ieee.quietBit_lt
  have high : f.signed (negCode f a) (f.expField a * 2 ^ f.tbits) = 2 ^ f.tbits * (a / 2 ^ f.tbits) := by
    have whole := Fmt.signed_fields fits
    rw [Fmt.signed_add] at whole
    exact Nat.add_right_cancel (whole.trans (Nat.div_add_mod a (2 ^ f.tbits)).symm)
  have parts : 2 ^ f.tbits * (a / 2 ^ f.tbits) ||| f.trailing a = a := by
    rw [← Nat.two_pow_add_eq_or_of_lt (f.trailing_lt a), Fmt.trailing, Nat.div_add_mod]
  rw [Fmt.signed_add, high, Nat.two_pow_add_eq_or_of_lt quietLt, ← Nat.or_assoc, parts, quieted]

theorem Fmt.Ieee.decode_of_isNanCode {a : Nat} (nan : isNanCode f a = true) :
    f.decode a = .nan (negCode f a) (f.trailing a * 2 ^ (23 - f.tbits)) := by
  obtain ⟨top, payload⟩ := (ieee.isNanCode_iff a).1 nan
  rw [ieee.decode_eq, if_pos top, if_neg payload]

/-- The NaN result that keeps an operand's sign and payload is the operand's code with the quiet bit set. -/
theorem Fmt.Ieee.nanCode_trailing {a : Nat} (fits : a < 2 ^ f.width) (nan : isNanCode f a = true) :
    f.nanCode (negCode f a) (f.trailing a * 2 ^ (23 - f.tbits) ||| 0x400000) = quieted f a := by
  obtain ⟨top, -⟩ := (ieee.isNanCode_iff a).1 nan
  simp only [Fmt.nanCode, ieee.specials, ieee.tbits_le, if_true, ieee.quieted_payload, ieee.quieted_eq fits, top]

omit ieee in
theorem Fmt.find?_isNan_map_decode (f : Fmt) (l : List Nat) :
    (l.map f.decode).find? Num.isNan = (l.find? (isNanCode f)).map f.decode := List.find?_map

/-- The NaN result of R79 for operand codes `l` is their first NaN, quieted. -/
theorem Fmt.Ieee.firstNan_map_decode {a : Nat} {l : List Nat} (fits : a < 2 ^ f.width)
    (first : l.find? (isNanCode f) = some a) : firstNan f (l.map f.decode) = some (quieted f a, snanFlag (l.map f.decode)) := by
  have nan : isNanCode f a = true := List.find?_some first
  simp only [firstNan, f.find?_isNan_map_decode, first, Option.map_some, ieee.decode_of_isNanCode nan,
    ieee.nanCode_trailing fits nan]

end

theorem firstNan_map_decode_eq_none {f : Fmt} {l : List Nat} (numbers : l.find? (isNanCode f) = none) :
    firstNan f (l.map f.decode) = none := by
  simp only [firstNan, f.find?_isNan_map_decode, numbers, Option.map_none]

/-- The NaN of an invalid operation is the canonical one. -/
theorem invalidOp_fst : ∀ f ∈ [Fmt.f32, Fmt.f16, Fmt.bf16], (invalidOp f).1 = canonicalNan f := by decide

theorem isNanCode_invalidOp : ∀ f ∈ [Fmt.f32, Fmt.f16, Fmt.bf16], isNanCode f (invalidOp f).1 = true := by decide

/-! ### Results of operations on numbers -/

/-- The code of a number, infinity included, of sign `n`. -/
def Fmt.IsNumber (f : Fmt) (n : Bool) (code : Nat) : Prop := ∃ mag ≤ f.infMag, code = f.signed n mag

/-- What an operation answers where no operand is a NaN: an invalid operation, or a number of sign `n`. -/
def Fmt.Answers (f : Fmt) (n : Bool) (r : Nat × Nat) : Prop := r.1 = (invalidOp f).1 ∨ f.IsNumber n r.1

theorem Fmt.IsNumber.negCode {f : Fmt} {n : Bool} {code : Nat} (number : f.IsNumber n code) : negCode f code = n := by
  obtain ⟨mag, le, rfl⟩ := number
  exact Fmt.negCode_signed (Nat.lt_of_le_of_lt le f.infMag_lt) n

theorem Fmt.IsNumber.isNanCode {f : Fmt} (ieee : f.Ieee) {n : Bool} {code : Nat} (number : f.IsNumber n code) :
    isNanCode f code = false := by
  obtain ⟨mag, le, rfl⟩ := number
  rw [Bool.eq_false_iff, ne_eq, ieee.isNanCode_iff, Fmt.expField_signed, Fmt.trailing_signed]
  rintro ⟨top, payload⟩
  have low : f.infMag ≤ mag / 2 ^ f.tbits * 2 ^ f.tbits :=
    Nat.mul_le_mul_right _ (top ▸ Nat.mod_le (mag / 2 ^ f.tbits) (2 ^ f.ebits))
  have parts := Nat.div_add_mod' mag (2 ^ f.tbits)
  rw [Fmt.trailing] at payload
  omega

theorem Fmt.answers_invalidOp (f : Fmt) (n : Bool) : f.Answers n (invalidOp f) := .inl rfl

theorem Fmt.answers_infCode (f : Fmt) (n : Bool) (flags : Nat) : f.Answers n (f.infCode n, flags) :=
  .inr ⟨_, Nat.le_refl _, f.infCode_eq n⟩

theorem Fmt.answers_zero (f : Fmt) (n : Bool) (flags : Nat) : f.Answers n (f.signed n 0, flags) := .inr ⟨0, Nat.zero_le _, rfl⟩

section
variable {f : Fmt} (ieee : f.Ieee)
include ieee

theorem Fmt.Ieee.maxMag_le : f.maxMag ≤ f.infMag := by
  simp only [Fmt.maxMag, ieee.specials, Fmt.infMag, Nat.sub_le]

/-- Rounding keeps the sign and never makes a NaN: above the largest finite value stands infinity. -/
theorem Fmt.Ieee.answers_deliver (rnd : Rnd) (n : Bool) (m : Nat) (e : Int) : f.Answers n (f.deliver rnd n m e) := by
  simp only [Fmt.deliver]
  split
  · split
    · exact f.answers_infCode n _
    · exact .inr ⟨_, ieee.maxMag_le, rfl⟩
  · next within => exact .inr ⟨_, Nat.le_trans (Nat.le_of_not_lt within) ieee.maxMag_le, rfl⟩

variable {x y : Num} (hx : x.isNan = false) (hy : y.isNan = false)
include hx

theorem Fmt.Ieee.answers_deliverNum (rnd : Rnd) : f.Answers x.isNeg (f.deliverNum rnd x) := by
  cases x with
  | nan => cases hx
  | inf n => exact f.answers_infCode n _
  | fin n m e => exact ieee.answers_deliver rnd n m e

include hy

theorem Fmt.Ieee.answers_addNum (rnd : Rnd) : ∃ n, f.Answers n (f.addNum rnd x y) := by
  cases x with
  | nan => cases hx
  | inf na =>
    cases y with
    | nan => cases hy
    | inf nb =>
      simp only [Fmt.addNum]
      split
      · exact ⟨na, f.answers_infCode na _⟩
      · exact ⟨na, f.answers_invalidOp na⟩
    | fin => exact ⟨na, f.answers_infCode na _⟩
  | fin na ma ea =>
    cases y with
    | nan => cases hy
    | inf nb => exact ⟨nb, f.answers_infCode nb _⟩
    | fin nb mb eb =>
      simp only [Fmt.addNum]
      split
      · exact ⟨_, f.answers_zero _ _⟩
      · exact ⟨_, ieee.answers_deliver rnd _ _ _⟩

end

/-- A product of numbers has the exclusive-or of their signs, or is ∞ × 0. -/
theorem mulNum_numbers {x y : Num} (hx : x.isNan = false) (hy : y.isNan = false) :
    mulNum x y = none ∨ ∃ p, mulNum x y = some p ∧ p.isNan = false ∧ p.isNeg = (x.isNeg != y.isNeg) := by
  cases x with
  | nan => cases hx
  | inf na =>
    simp only [mulNum]
    split
    · exact .inl rfl
    · exact .inr ⟨_, rfl, rfl, rfl⟩
  | fin na ma ea =>
    cases y with
    | nan => cases hy
    | inf nb =>
      simp only [mulNum]
      split
      · exact .inl rfl
      · exact .inr ⟨_, rfl, rfl, rfl⟩
    | fin nb mb eb => exact .inr ⟨_, rfl, rfl, rfl⟩

theorem Num.isNan_negate (x : Num) : x.negate.isNan = x.isNan := by cases x <;> rfl

/-! ### Operations whose operands are numbers -/

section
variable {f : Fmt} (ieee : f.Ieee) (rnd : Rnd) (fast : Bool) {a b c : Nat} (ha : isNanCode f a = false) (hb : isNanCode f b = false)
include ieee ha

theorem Fmt.Ieee.answers_sqrt : ∃ n, f.Answers n (f.sqrt fast rnd a) := by
  have noNan : firstNan f [f.decode a] = none := firstNan_map_decode_eq_none (l := [a]) (by simp [ha])
  simp only [Fmt.sqrt, noNan, Option.getD_none]
  rw [isNanCode] at ha
  generalize f.decode a = x at *
  cases x with
  | nan => cases ha
  | inf n =>
    cases n
    · exact ⟨_, f.answers_infCode _ _⟩
    · exact ⟨true, f.answers_invalidOp _⟩
  | fin n m e =>
    simp only
    split
    · exact ⟨_, f.answers_zero _ _⟩
    split
    · exact ⟨n, f.answers_invalidOp _⟩
    · exact ⟨_, ieee.answers_deliver _ _ _ _⟩

include hb

omit ieee in
theorem firstNan_pair : firstNan f [f.decode a, f.decode b] = none :=
  firstNan_map_decode_eq_none (l := [a, b]) (by simp [ha, hb])

theorem Fmt.Ieee.answers_add : ∃ n, f.Answers n (f.add rnd a b) := by
  simp only [Fmt.add, firstNan_pair ha hb, Option.getD_none]
  exact ieee.answers_addNum ha hb _

theorem Fmt.Ieee.answers_sub : ∃ n, f.Answers n (f.sub rnd a b) := by
  simp only [Fmt.sub, firstNan_pair ha hb, Option.getD_none]
  exact ieee.answers_addNum ha ((Num.isNan_negate _).trans hb) _

theorem Fmt.Ieee.answers_mul : f.Answers (negCode f a != negCode f b) (f.mul rnd a b) := by
  simp only [Fmt.mul, firstNan_pair ha hb, Option.getD_none, ← ieee.isNeg_decode]
  obtain infZero | ⟨p, product, number, sign⟩ := mulNum_numbers ha hb
  · rw [infZero]
    exact f.answers_invalidOp _
  · rw [product, ← sign]
    exact ieee.answers_deliverNum number _

theorem Fmt.Ieee.answers_div : f.Answers (negCode f a != negCode f b) (f.div fast rnd a b) := by
  simp only [Fmt.div, firstNan_pair ha hb, Option.getD_none, ← ieee.isNeg_decode]
  rw [isNanCode] at ha hb
  generalize f.decode a = x at *
  generalize f.decode b = y at *
  cases x with
  | nan => cases ha
  | inf na =>
    cases y with
    | nan => cases hb
    | inf nb => exact f.answers_invalidOp _
    | fin nb mb eb => exact f.answers_infCode _ _
  | fin na ma ea =>
    cases y with
    | nan => cases hb
    | inf nb => exact f.answers_zero _ _
    | fin nb mb eb =>
      simp only
      split
      · split
        · exact f.answers_invalidOp _
        · exact f.answers_infCode _ _
      · split
        · exact f.answers_zero _ _
        · exact ieee.answers_deliver _ _ _ _

omit ieee in
/-- The maximum and the minimum are one of the operands. -/
theorem Fmt.isNanCode_maxMin (wantMax : Bool) : isNanCode f (f.maxMin wantMax a b).1 = false := by
  simp only [Fmt.maxMin, firstNan_pair ha hb, Option.getD_none]
  split
  · exact hb
  · exact ha

theorem Fmt.Ieee.answers_fma (hc : isNanCode f c = false) : ∃ n, f.Answers n (f.fma rnd (f.decode a) (f.decode b) (f.decode c)) := by
  have noNan : firstNan f [f.decode a, f.decode b, f.decode c] = none :=
    firstNan_map_decode_eq_none (l := [a, b, c]) (by simp [ha, hb, hc])
  simp only [Fmt.fma, noNan]
  obtain infZero | ⟨p, product, number, -⟩ := mulNum_numbers ha hb
  · rw [infZero]
    exact ⟨false, f.answers_invalidOp _⟩
  · rw [product]
    exact ieee.answers_addNum number hc _

end

/-! ### NaN results (R79) -/

/-- The result of R79 for operand codes `l`: the first NaN, quieted; a NaN from other operands is that of an invalid operation. -/
structure NanRule (f : Fmt) (l : List Nat) (r : Nat) : Prop where
  first : ∀ a, l.find? (isNanCode f) = some a → r = quieted f a
  canonical : l.find? (isNanCode f) = none → isNanCode f r = true → r = (invalidOp f).1

section
variable {f : Fmt} (ieee : f.Ieee)
include ieee

theorem Fmt.Answers.eq_invalidOp {n : Bool} {r : Nat × Nat} (answers : f.Answers n r) (nan : isNanCode f r.1 = true) :
    r.1 = (invalidOp f).1 :=
  answers.resolve_right fun number => by simp [number.isNanCode ieee] at nan

/-- An operation keeps the rule when it answers `firstNan` where there is a NaN, and no NaN of its own elsewhere. -/
theorem Fmt.Ieee.nanRule {l : List Nat} {r : Nat} (fits : ∀ a ∈ l, a < 2 ^ f.width)
    (takes : ∀ p, firstNan f (l.map f.decode) = some p → r = p.1)
    (numbers : l.find? (isNanCode f) = none → isNanCode f r = true → r = (invalidOp f).1) : NanRule f l r where
  first a first := takes _ (ieee.firstNan_map_decode (fits a (List.mem_of_find?_eq_some first)) first)
  canonical := numbers

/-- Where the result is a number, so are the operands. -/
theorem NanRule.find?_eq_none {l : List Nat} {r : Nat} (rule : NanRule f l r) (number : isNanCode f r = false) :
    l.find? (isNanCode f) = none := by
  cases first : l.find? (isNanCode f) with
  | none => rfl
  | some a =>
    rw [rule.first a first, ieee.isNanCode_quieted (List.find?_some first)] at number
    cases number

/-! The NaN rule of each operation. -/

section
variable (rnd : Rnd) (fast : Bool) {a b c : Nat} (fa : a < 2 ^ f.width) (fb : b < 2 ^ f.width) (fc : c < 2 ^ f.width)
include fa

theorem Fmt.Ieee.nanRule_sqrt : NanRule f [a] (f.sqrt fast rnd a).1 := by
  refine ieee.nanRule (by simp [fa]) (fun p takes => ?_) fun numbers => ?_
  · simp only [List.map_cons, List.map_nil] at takes
    simp only [Fmt.sqrt, takes, Option.getD_some]
  · obtain ⟨_, answers⟩ := ieee.answers_sqrt rnd fast (a := a) (by simpa using numbers)
    exact answers.eq_invalidOp ieee

include fb

/-- An operation of two operands that answers `r` where neither is a NaN. -/
theorem Fmt.Ieee.nanRule_getD {r : Nat × Nat} (numbers : isNanCode f a = false → isNanCode f b = false →
      isNanCode f ((firstNan f [f.decode a, f.decode b]).getD r).1 = true →
      ((firstNan f [f.decode a, f.decode b]).getD r).1 = (invalidOp f).1) :
    NanRule f [a, b] ((firstNan f [f.decode a, f.decode b]).getD r).1 := by
  refine ieee.nanRule (by simp [fa, fb]) (fun p takes => ?_) fun noNan => ?_
  · simp only [List.map_cons, List.map_nil] at takes
    rw [takes, Option.getD_some]
  · obtain ⟨ha, hb⟩ : isNanCode f a = false ∧ isNanCode f b = false := by simpa using noNan
    exact numbers ha hb

theorem Fmt.Ieee.nanRule_add : NanRule f [a, b] (f.add rnd a b).1 :=
  ieee.nanRule_getD fa fb fun ha hb => (ieee.answers_add rnd ha hb).elim fun _ answers => answers.eq_invalidOp ieee

theorem Fmt.Ieee.nanRule_sub : NanRule f [a, b] (f.sub rnd a b).1 :=
  ieee.nanRule_getD fa fb fun ha hb => (ieee.answers_sub rnd ha hb).elim fun _ answers => answers.eq_invalidOp ieee

theorem Fmt.Ieee.nanRule_mul : NanRule f [a, b] (f.mul rnd a b).1 :=
  ieee.nanRule_getD fa fb fun ha hb => (ieee.answers_mul rnd ha hb).eq_invalidOp ieee

theorem Fmt.Ieee.nanRule_div : NanRule f [a, b] (f.div fast rnd a b).1 :=
  ieee.nanRule_getD fa fb fun ha hb => (ieee.answers_div rnd fast ha hb).eq_invalidOp ieee

theorem Fmt.Ieee.nanRule_maxMin (wantMax : Bool) : NanRule f [a, b] (f.maxMin wantMax a b).1 :=
  ieee.nanRule_getD fa fb fun ha hb nan =>
    absurd nan (Bool.eq_false_iff.1 (Fmt.isNanCode_maxMin ha hb wantMax))

theorem Fmt.Ieee.nanRule_binaryOps : ∀ op ∈ binaryOps f fast rnd, NanRule f [a, b] (op a b).1 := by
  simp only [binaryOps, List.forall_mem_cons]
  exact ⟨ieee.nanRule_add rnd fa fb, ieee.nanRule_sub rnd fa fb, ieee.nanRule_mul rnd fa fb, ieee.nanRule_div rnd fast fa fb,
    ieee.nanRule_maxMin fa fb true, ieee.nanRule_maxMin fa fb false, nofun⟩

include fc

theorem Fmt.Ieee.nanRule_fma : NanRule f [a, b, c] (f.fma rnd (f.decode a) (f.decode b) (f.decode c)).1 := by
  refine ieee.nanRule (by simp [fa, fb, fc]) (fun p takes => ?_) fun noNan => ?_
  · simp only [List.map_cons, List.map_nil] at takes
    simp only [Fmt.fma, takes]
  · obtain ⟨ha, hb, hc⟩ : isNanCode f a = false ∧ isNanCode f b = false ∧ isNanCode f c = false := by simpa using noNan
    obtain ⟨_, answers⟩ := ieee.answers_fma rnd ha hb hc
    exact answers.eq_invalidOp ieee

end

end

/-- Settles O59: an operation takes the first NaN of its operands, and where there is none only an invalid operation answers a NaN. -/
theorem nanResults : Obligations.NanResults := by
  intro f format fast rnd a b c fa fb fc
  have ieee := Fmt.ieee_of_mem f format
  have sqrt := ieee.nanRule_sqrt rnd fast fa
  have fma := ieee.nanRule_fma rnd fa fb fc
  have canonical := invalidOp_fst f format
  refine ⟨fun op mem => ?_, fun ha => sqrt.first a (by simp [ha]), fun ha nan => ?_,
    fun ha => fma.first a (by simp [ha]), fun ha hb => fma.first b (by simp [ha, hb]),
    fun ha hb hc => fma.first c (by simp [ha, hb, hc]), fun ha hb hc nan => ?_⟩
  · have rule := ieee.nanRule_binaryOps rnd fast fa fb op mem
    exact ⟨fun ha => rule.first a (by simp [ha]), fun ha hb => rule.first b (by simp [ha, hb]),
      fun ha hb nan => (rule.canonical (by simp [ha, hb]) nan).trans canonical⟩
  · exact (sqrt.canonical (by simp [ha]) nan).trans canonical
  · exact (fma.canonical (by simp [ha, hb, hc]) nan).trans canonical

/-! ### Signs of zero sums, products and quotients (R80) -/

/-- SR acts as RNE, so that RDN alone gives −0. -/
theorem Rnd.upper_beq_rdn (rnd : Rnd) : (rnd.upper == .rdn) = decide (rnd = .rdn) := by cases rnd <;> rfl

/-- The exact sum of a finite number and its opposite. -/
theorem exactAdd_opposite (n : Bool) (m : Nat) (e : Int) : (exactAdd n m e (!n) m e).1 = 0 := by
  cases n
  · exact Int.add_right_neg _
  · exact Int.add_left_neg _

theorem Fmt.addNum_negate (f : Fmt) (rnd : Rnd) {x : Num} (finite : x.isFinite = true) :
    (f.addNum rnd x x.negate).1 = f.signed (rnd == .rdn) 0 := by
  cases x with
  | nan => cases finite
  | inf => cases finite
  | fin n m e =>
    have sign : zeroSign rnd n (!n) = (rnd == .rdn) := by cases n <;> rfl
    simp only [Num.negate, Fmt.addNum, exactAdd_opposite, if_true, sign, ite_self]

/-- The sum of opposite finite numbers under an upper-level attribute. -/
theorem Fmt.addNum_upper_negate (f : Fmt) (rnd : Rnd) {x : Num} (finite : x.isFinite = true) :
    (f.addNum rnd.upper x x.negate).1 = if rnd = .rdn then 2 ^ (f.width - 1) else 0 := by
  rw [f.addNum_negate _ finite, Rnd.upper_beq_rdn, Fmt.width_sub_one]
  simp [Fmt.signed]

theorem isNanCode_of_isFinite {f : Fmt} {a : Nat} (finite : (f.decode a).isFinite = true) : isNanCode f a = false := by
  rw [isNanCode]
  cases decoded : f.decode a <;> simp_all [Num.isFinite, Num.isNan]

section
variable {f : Fmt} (ieee : f.Ieee) (rnd : Rnd) {a : Nat} (finite : (f.decode a).isFinite = true)
include finite

theorem Fmt.sub_self : (f.sub rnd a a).1 = if rnd = .rdn then 2 ^ (f.width - 1) else 0 := by
  have number := isNanCode_of_isFinite finite
  simp only [Fmt.sub, firstNan_pair number number, Option.getD_none]
  exact f.addNum_upper_negate rnd finite

include ieee

theorem Fmt.Ieee.add_opposite : (f.add rnd a (a ^^^ 2 ^ (f.width - 1))).1 = if rnd = .rdn then 2 ^ (f.width - 1) else 0 := by
  have number := isNanCode_of_isFinite finite
  have opposite : f.decode (a ^^^ 2 ^ (f.width - 1)) = (f.decode a).negate := by rw [Fmt.width_sub_one, ieee.decode_xor_sign]
  have other : isNanCode f (a ^^^ 2 ^ (f.width - 1)) = false := by rwa [isNanCode, opposite, Num.isNan_negate]
  have noNan := firstNan_pair number other
  rw [opposite] at noNan
  simp only [Fmt.add, opposite, noNan, Option.getD_none]
  exact f.addNum_upper_negate rnd finite

end

/-- A number that an operation answers has the operation's sign. -/
theorem Fmt.Answers.negCode_eq {f : Fmt} (invalid : isNanCode f (invalidOp f).1 = true) {n : Bool} {r : Nat × Nat}
    (answers : f.Answers n r) (number : isNanCode f r.1 = false) : negCode f r.1 = n := by
  obtain canonical | isNumber := answers
  · rw [canonical, invalid] at number
    cases number
  · exact isNumber.negCode

/-- Settles O60: opposite numbers add to the exact zero, and products and quotients are delivered with the exclusive-or of the signs. -/
theorem zeroAndProductSigns : Obligations.ZeroAndProductSigns := by
  intro f format fast rnd a b fa fb
  have ieee := Fmt.ieee_of_mem f format
  have invalid := isNanCode_invalidOp f format
  have numbers {r : Nat} (rule : NanRule f [a, b] r) (number : isNanCode f r = false) :
      isNanCode f a = false ∧ isNanCode f b = false := by simpa using rule.find?_eq_none ieee number
  refine ⟨fun finite => ⟨ieee.add_opposite rnd finite, Fmt.sub_self rnd finite⟩, fun number => ?_, fun number => ?_⟩
  · obtain ⟨ha, hb⟩ := numbers (ieee.nanRule_mul rnd fa fb) number
    exact (ieee.answers_mul rnd ha hb).negCode_eq invalid number
  · obtain ⟨ha, hb⟩ := numbers (ieee.nanRule_div rnd fast fa fb) number
    exact (ieee.answers_div rnd fast ha hb).negCode_eq invalid number

end Sys2Proof.Machine
end

section
/-! PROOFS. An error completion on a channel that a step uses reaches the assay word (R219, R417): the one bit of its cause is set, and
the record, the held gathers and the contribution that the first abort of a step brings about leave the word as it is. -/

namespace Sys2Proof.Machine

/-! ### What leaves the step alone: the record of an event -/

@[simp] theorem Chip.occur_step (c : Chip) (f b : Nat) (u : Unit2) (region addr detail : Nat) :
    (c.occur f b u region addr detail).step = c.step := Chip.step_of_work (c.occur_work f b u region addr detail)

/-! ### What leaves the step alone: frames on the Braze fabric and the tree of the assay OR (R310, R312, R318, R323) -/

theorem Chip.ite_step {p : Prop} [Decidable p] {a b c : Chip} (ha : a.step = c.step) (hb : b.step = c.step) :
    (if p then a else b).step = c.step := Chip.ite_keeps Chip.step ha hb

theorem Chip.each_step {α : Type} (c : Chip) (l : List α) {f : Chip → α → Chip} (h : ∀ c x, (f c x).step = c.step) :
    (c.each l f).step = c.step := Chip.each_keeps Chip.step f h l c

@[simp] theorem Chip.setTreeNode_step (c : Chip) (t : TreeNode) : (c.setTreeNode t).step = c.step := rfl

@[simp] theorem Chip.bzTransmit_step (c : Chip) (peer : Nat) (f : BzFrame) : (c.bzTransmit peer f).step = c.step := by
  refine Chip.ite_step (Chip.each_step c _ fun _ _ => rfl) ?_
  split
  · rfl
  · rfl

@[simp] theorem Chip.bzLaunch_step (c : Chip) (peer : Nat) (f : BzFrame) : (c.bzLaunch peer f).step = c.step :=
  Chip.bzTransmit_step _ _ _

@[simp] theorem Chip.bzDrain_step (c : Chip) (peer n : Nat) : (c.bzDrain peer n).step = c.step := by
  induction n generalizing c with
  | zero => rfl
  | succ n ih =>
    rw [Chip.bzDrain]
    split
    · rfl
    · exact Chip.ite_step ((ih _).trans (Chip.bzLaunch_step _ _ _)) rfl

@[simp] theorem Chip.bzSend_step (c : Chip) (peer : Nat) (f : BzFrame) : (c.bzSend peer f).step = c.step :=
  Chip.ite_step rfl (Chip.bzDrain_step _ _ _)

@[simp] theorem Chip.bzSendBytes_step (c : Chip) (cls flags peer channel msg k fmt : Nat) (data : Bytes) :
    (c.bzSendBytes cls flags peer channel msg k fmt data).step = c.step :=
  Chip.each_step c _ fun _ _ => Chip.bzSend_step _ _ _

@[simp] theorem Chip.treeDown_step (c : Chip) (t : TreeNode) (r : Bytes) : (c.treeDown t r).step = c.step :=
  Chip.each_step c _ fun _ _ => Chip.bzSendBytes_step _ _ _ _ _ _ _ _ _

@[simp] theorem Chip.treeAdvance_step (c : Chip) (number step : Nat) : (c.treeAdvance number step).step = c.step := by
  simp only [Chip.treeAdvance]
  split
  · rfl
  · exact Chip.ite_step rfl (Chip.ite_step (Chip.treeDown_step _ _ _) (Chip.bzSendBytes_step _ _ _ _ _ _ _ _ _))

@[simp] theorem Chip.treeAbort_step (c : Chip) (number step word : Nat) : (c.treeAbort number step word).step = c.step :=
  (Chip.each_step _ _ fun _ _ => Chip.bzSendBytes_step _ _ _ _ _ _ _ _ _).trans
    (Chip.ite_step rfl (Chip.bzSendBytes_step _ _ _ _ _ _ _ _ _))

@[simp] theorem Chip.treeContribute_step (c : Chip) (kind step : Nat) (own : Bytes) :
    (c.treeContribute kind step own).step = c.step :=
  Chip.ite_step (Chip.treeAbort_step _ _ _ _) (Chip.treeAdvance_step _ _ _)

/-! ### The abort of a step (R219) -/

@[simp] theorem Chip.releaseHold_step (c : Chip) (g : Gather) : (c.releaseHold g).step = c.step := by
  refine Chip.ite_step rfl ?_
  split
  · rfl
  · rfl
  · rfl

@[simp] theorem Chip.releaseHolds_step (c : Chip) : c.releaseHolds.step = c.step := Chip.each_step c _ Chip.releaseHold_step

@[simp] theorem Chip.contribute_word (c : Chip) : c.contribute.step.word = c.step.word := by simp [Chip.contribute]

/-- In a step that is not decided, an abort adds its bit to the word, whether it is the first of the step or not. -/
theorem Chip.abort_word (c : Chip) (b addr : Nat) (inStep : c.step.inStep = true) (undecided : c.step.committing = false) :
    (c.abort b addr).step.word = c.step.word ||| BitVec.ofNat 32 (2 ^ b) := by
  unfold Chip.abort
  simp only [inStep, undecided, Bool.not_true, Bool.or_self, Bool.false_eq_true, if_false]
  refine Chip.ite_keeps (fun d => d.step.word) (c := c.setWordBits (2 ^ b)) rfl ?_
  simp

/-! ### The error completion (R411, R416, R417) -/

/-! The entry is posted or, where the ring is full, held (R411); the step and the channel's route stay. -/

theorem Chip.dmaPost_step (c : Chip) (ch status kind bytes : Nat) : (c.dmaPost ch status kind bytes).step = c.step :=
  Chip.ite_step rfl rfl

theorem Chip.dmaPost_route (c : Chip) (ch status kind bytes : Nat) :
    ((c.dmaPost ch status kind bytes).dmaChan ch).route = (c.dmaChan ch).route := by
  refine Chip.ite_keeps (fun c => (c.dmaChan ch).route) ?_ ?_
  · simp [Chip.dmaChan_setDma]
  · simp [Chip.dmaChan_setDma]

/-- An error completion posts its entry and records the error; on a route-bound channel an abort of the step follows. -/
theorem Chip.dmaError_eq_abort (c : Chip) (ch status addr bytes since : Nat) : ∃ e : Chip,
    e.workPart = (c.dmaPost ch status 3 bytes).workPart ∧ c.dmaError ch status addr bytes since =
      if (e.dmaChan ch).route.isSome then e.abort (if status = dmaNoData then abMem else abDma) addr else e := by
  refine ⟨_, ?_, rfl⟩
  simp only [ite_work, Chip.setSticky_work, Chip.occurCode_work, Chip.setReg_work, Chip.count_work, ite_self]

/-- The word after an error completion on a channel that the step uses. -/
theorem Chip.dmaError_word (c : Chip) (ch status addr bytes since : Nat) (routed : (c.dmaChan ch).route.isSome = true)
    (inStep : c.step.inStep = true) (undecided : c.step.committing = false) :
    (c.dmaError ch status addr bytes since).step.word =
      c.step.word ||| BitVec.ofNat 32 (2 ^ if status = dmaNoData then abMem else abDma) := by
  obtain ⟨e, work, error⟩ := c.dmaError_eq_abort ch status addr bytes since
  have step : e.step = c.step := (Chip.step_of_work work).trans (c.dmaPost_step ch status 3 bytes)
  have route : (e.dmaChan ch).route = (c.dmaChan ch).route := by
    rw [Chip.dmaChan, Chip.dma_of_work work]
    exact c.dmaPost_route ch status 3 bytes
  rw [error, if_pos (route ▸ routed), e.abort_word _ addr (step ▸ inStep) (step ▸ undecided), step]

/-- Settles O58: ABORT_MEM is bit 5 of the word and ABORT_DMA bit 6. -/
theorem errorCompletionAborts : Obligations.ErrorCompletionAborts := by
  intro c ch status addr bytes since _ routed inStep undecided d
  have word : d.step.word = _ := c.dmaError_word ch status addr bytes since routed inStep undecided
  constructor
  · intro noData
    rw [word, if_pos (c := status = dmaNoData) noData]
    rfl
  · intro other
    rw [word, if_neg (c := status = dmaNoData) other]
    rfl

end Sys2Proof.Machine
end
